-- ==== Sys2Proof/Word.lean ====
section
/-!
DEFINITION. The word types of the Fongedon architecture (spec/02 R53, spec/01 R44): bytes, 32-bit registers,
64-bit instruction words and register pairs, 128-bit typed pointers.
-/
namespace Sys2Proof

abbrev Byte := BitVec 8
abbrev W32 := BitVec 32
abbrev W64 := BitVec 64
abbrev W128 := BitVec 128

/-- One bit per lane of a chain (R26: 32 lanes, indices 0 to 31). -/
abbrev Mask := BitVec 32

/-- The six sticky flags at their FPST positions (R105). -/
abbrev Flags := BitVec 6

end Sys2Proof
end

