-- ==== Sys2Proof/Machine/Bits.lean ====
section
/-!
DEFINITION. Bit fields, sign extension, byte order, lane sets, the two CRCs and the sparse tables the state is
made of. Every table is a list of key and value pairs; Cells keeps one canonical form (keys rising, no entry equal
to the value an unlisted key reads as), Tab only one entry a key.
-/
namespace Sys2Proof.Machine

/-- Bits hi:lo of a number (R6: the range includes both ends). -/
def bits (x hi lo : Nat) : Nat := (x >>> lo) % 2 ^ (hi + 1 - lo)

/-- One bit of a number. -/
def bit (x i : Nat) : Bool := x.testBit i

/-- `sext` of R111: the w-bit field x read as signed. -/
def sextN (x w : Nat) : Int :=
  let y := x % 2 ^ w
  if 2 ^ w ≤ 2 * y then (y : Int) - 2 ^ w else y

/-- `wrap_int` of R111 as an unsigned w-bit pattern. -/
def wrapN (x : Int) (w : Nat) : Nat := (x % (2 ^ w : Nat)).toNat

def minSigned (w : Nat) : Int := -(2 ^ (w - 1) : Nat)
def maxSigned (w : Nat) : Int := (2 ^ (w - 1) : Nat) - 1
def maxUnsigned (w : Nat) : Int := (2 ^ w : Nat) - 1

/-- Smallest and largest value of a w-bit integer format (R93). -/
def loOf (w : Nat) (signed : Bool) : Int := if signed then minSigned w else 0
def hiOf (w : Nat) (signed : Bool) : Int := if signed then maxSigned w else maxUnsigned w

/-- The lanes of a mask in ascending lane index (R10). -/
def lanesOf (m : Mask) : List Nat := (List.range 32).filter (fun i => m.getLsbD i)

/-- The mask of one lane. -/
def laneBit (i : Nat) : Mask := BitVec.ofNat 32 (2 ^ i)

def allLanes : Mask := BitVec.allOnes 32

/-- The number of lanes in a mask. -/
def countLanes (m : Mask) : Nat := (lanesOf m).length

/-- The mask of the lanes that satisfy a test. -/
def maskWhere (f : Nat → Bool) : Mask :=
  (List.range 32).foldl (fun m i => if f i then m ||| laneBit i else m) 0

/-- The rank of lane i among the lanes of a mask: how many lower lanes are in it. -/
def rankIn (m : Mask) (i : Nat) : Nat := ((lanesOf m).filter (· < i)).length

def lowestLane (m : Mask) : Nat := ((lanesOf m).head?).getD 0

/-- The number of 1 bits among the low n bits. -/
def popN : Nat → Nat → Nat
  | 0, _ => 0
  | n + 1, x => (x % 2) + popN n (x / 2)

/-- Bytes of a number, the lowest address first (R6). -/
def toBytes : Nat → Nat → List Byte
  | 0, _ => []
  | n + 1, x => BitVec.ofNat 8 x :: toBytes n (x / 256)

/-- The little-endian number of a byte list (R6). -/
def ofBytes : List Byte → Nat
  | [] => 0
  | b :: r => b.toNat + 256 * ofBytes r

/-- One step of the reflected CRC-32 on one byte (R87: IEEE 802.3 polynomial). -/
def crc32Bits : Nat → Nat → Nat
  | 0, c => c
  | n + 1, c => crc32Bits n (if c % 2 = 1 then (c / 2) ^^^ 0xEDB88320 else c / 2)

/-- CRC-32 of R87: initial value and final XOR 0xFFFF_FFFF. -/
def crc32 (bs : List Byte) : W32 :=
  BitVec.ofNat 32 ((bs.foldl (fun c b => crc32Bits 8 (c ^^^ b.toNat)) 0xFFFFFFFF) ^^^ 0xFFFFFFFF)

def crc16Bits : Nat → Nat → Nat
  | 0, c => c
  | n + 1, c =>
    crc16Bits n (if 2 ^ 15 ≤ c then ((2 * c) ^^^ 0x1021) % 2 ^ 16 else (2 * c) % 2 ^ 16)

/-- CRC-16 of R289: polynomial 0x1021, initial value 0xFFFF, not reflected, no final XOR. -/
def crc16 (bs : List Byte) : Nat :=
  bs.foldl (fun c b => crc16Bits 8 (c ^^^ (b.toNat * 256))) 0xFFFF

/-- `ceil(a / b)`. -/
def ceilDiv (a b : Nat) : Nat := (a + b - 1) / b

/-- floor(log2 n), 0 for n = 0. -/
def log2N (n : Nat) : Nat := Nat.log2 n

/-- The largest number below 2^n (added to acc) for which p holds of every prefix tried: a search from the top bit. -/
def bitSearch (p : Nat → Bool) : Nat → Nat → Nat
  | 0, acc => acc
  | n + 1, acc => bitSearch p n (if p (acc + 2 ^ n) then acc + 2 ^ n else acc)

/-- The smallest index below n at which f holds. -/
def firstBelow (n : Nat) (f : Nat → Bool) : Option Nat := (List.range n).find? f

/-! ## Tables -/

/-- Sparse cells with a value d that an unlisted key reads as. -/
abbrev Cells (α : Type) := List (Nat × α)

namespace Cells

variable {α : Type}

def get (d : α) : Cells α → Nat → α
  | [], _ => d
  | (k, v) :: r, a => if k = a then v else get d r a

def erase : Cells α → Nat → Cells α
  | [], _ => []
  | (k, v) :: r, a => if k = a then erase r a else (k, v) :: erase r a

def insert : Cells α → Nat → α → Cells α
  | [], a, v => [(a, v)]
  | (k, w) :: r, a, v => if a < k then (a, v) :: (k, w) :: r else (k, w) :: insert r a v

/-- Writing the value an unlisted key reads as removes the entry. -/
def set [DecidableEq α] (d : α) (m : Cells α) (a : Nat) (v : α) : Cells α :=
  if v = d then erase m a else insert (erase m a) a v

/-- The canonical form: keys strictly rising, no entry equal to d. -/
def wf [DecidableEq α] (d : α) : Cells α → Bool
  | [] => true
  | (k, v) :: r => decide (v ≠ d) && r.all (fun e => decide (k < e.1)) && wf d r

end Cells

/-- A table of records: at most one entry a key, an absent key is absent. -/
abbrev Tab (α : Type) := List (Nat × α)

namespace Tab

variable {α : Type}

def find : Tab α → Nat → Option α
  | [], _ => none
  | (k, v) :: r, a => if k = a then some v else find r a

def get (d : α) (m : Tab α) (a : Nat) : α := (find m a).getD d

def erase (m : Tab α) (a : Nat) : Tab α := Cells.erase m a

def put (m : Tab α) (a : Nat) (v : α) : Tab α := Cells.insert (Cells.erase m a) a v

def keys (m : Tab α) : List Nat := m.map (·.1)

end Tab

/-! ## Sector data (64 bytes as one 512-bit number, byte 0 in bits 7:0) -/

/-- Bytes lo to lo + n - 1 of a sector, as a number. -/
def sectorBytes (d : BitVec 512) (lo n : Nat) : Nat := (d.toNat >>> (8 * lo)) % 2 ^ (8 * n)

/-- A sector with n bytes replaced from byte lo on. -/
def sectorPut (d : BitVec 512) (lo n v : Nat) : BitVec 512 :=
  let m := ((2 ^ (8 * n) - 1) <<< (8 * lo))
  BitVec.ofNat 512 ((d.toNat - (d.toNat &&& m)) ||| ((v % 2 ^ (8 * n)) <<< (8 * lo)))

/-- The byte mask of n bytes from byte lo on. -/
def byteMask (lo n : Nat) : BitVec 64 := BitVec.ofNat 64 ((2 ^ n - 1) <<< lo)

/-- Widens a byte mask to a bit mask of the sector. -/
def maskBits : Nat → Nat → Nat
  | 0, _ => 0
  | n + 1, m => (if m % 2 = 1 then 255 else 0) + 256 * maskBits n (m / 2)

/-- Merges by byte mask: bytes of new where the mask is set, of old elsewhere (R144). -/
def sectorMerge (old new : BitVec 512) (mask : BitVec 64) : BitVec 512 :=
  let m := maskBits 64 mask.toNat
  BitVec.ofNat 512 ((old.toNat - (old.toNat &&& m)) ||| (new.toNat &&& m))

end Sys2Proof.Machine
end

