-- ==== Sys2Proof/Machine/Codec.lean ====
section
/-!
DEFINITION. Line images of compressed buffers (R287 to R292): the two codecs, image headers and buffer headers. A line
is a list of 256 bytes.
-/
namespace Sys2Proof.Machine

/-- The i-th n-byte little-endian number from byte offset lo of a byte list. -/
def field (bs : List Byte) (lo n : Nat) : Nat := ofBytes ((bs.drop lo).take n)

/-- A byte list cut or zero-padded to n bytes. -/
def padTo (n : Nat) (bs : List Byte) : List Byte := (bs ++ List.replicate (n - bs.length) 0).take n

/-- Expansion of codec 1 (R290). -/
def zrmExpand (img : List Byte) : List Byte :=
  let m := field img 4 8
  let words := (List.range 64).map (fun w => if bit m w then field img (12 + 4 * popN w m) 4 else 0)
  words.flatMap (toBytes 4)

def zrmLen (img : List Byte) : Nat := 12 + 4 * popN 64 (field img 4 8)

/-- Expansion of codec 2 (R291) with delta width w. -/
def deltaExpand (img : List Byte) (w : Nat) : List Byte :=
  let x := ofBytes img
  let u0 := bits x 47 32
  let us := (List.range 127).foldl
    (fun (acc : Nat × List Nat) j =>
      let d := sextN (x >>> (48 + w * j)) w
      let u := wrapN ((acc.1 : Int) + d) 16
      (u, u :: acc.2)) (u0, [u0])
  us.2.reverse.flatMap (toBytes 2)

def deltaLen (w : Nat) : Nat := 6 + ceilDiv (127 * w) 8

/-- Fields of an image header (R289). -/
structure ImgHdr where
  chk : Nat
  res : Nat
  n32 : Nat
  w : Nat
  codec : Nat
  xp : Nat
deriving DecidableEq, Repr

def imgHdr (img : List Byte) : ImgHdr :=
  let h := field img 0 4
  { chk := bits h 31 16, res := bits h 15 12, n32 := bits h 11 8, w := bits h 7 4, codec := bits h 3 2,
    xp := bits h 1 0 }

/-- A well-formed image (R289). -/
def imgWf (img : List Byte) : Bool :=
  let h := imgHdr img
  let len := if h.codec = 1 then zrmLen img else deltaLen h.w
  decide (h.res = 0) && decide (h.n32 ≤ 7) &&
    (decide (h.codec = 1 ∧ h.w = 0) || decide (h.codec = 2 ∧ 1 ≤ h.w)) &&
    decide (32 * ceilDiv len 32 = 32 * (h.n32 + 1)) &&
    (((img.drop len).take (32 * (h.n32 + 1) - len)).all (· = 0))

def imgExpand (img : List Byte) : List Byte :=
  let h := imgHdr img
  padTo 256 (if h.codec = 1 then zrmExpand img else deltaExpand img h.w)

/-- An image that decodes (R289): its expansion. -/
def imgDecode (img : List Byte) : Option (List Byte) :=
  if imgWf img && decide (crc16 (imgExpand img) = (imgHdr img).chk) then some (imgExpand img) else none

/-- Why an image does not decode (R309): 3 not well formed, 4 CRC mismatch, 0 when it decodes. -/
def imgReason (img : List Byte) : Nat :=
  if !(imgWf img) then 3 else if crc16 (imgExpand img) = (imgHdr img).chk then 0 else 4

/-- The stored bytes of a line as a compressed-view read returns them: beyond the image length they read zero (R289). -/
def storedView (img : List Byte) : List Byte := padTo 256 (img.take (32 * ((imgHdr img).n32 + 1)))

/-- The body of codec 1 after the image header: mask and stored words. -/
def zrmBody (line : List Byte) : List Byte :=
  let ws := (List.range 64).map (fun w => field line (4 * w) 4)
  let m := (List.range 64).foldl (fun a w => if ws.getD w 0 = 0 then a else a + 2 ^ w) 0
  toBytes 8 m ++ (ws.filter (· ≠ 0)).flatMap (toBytes 4)

/-- The differences of R291 as signed 16-bit values. -/
def deltas (line : List Byte) : List Int :=
  (List.range 127).map (fun j =>
    sextN (wrapN ((field line (2 * (j + 1)) 2 : Int) - (field line (2 * j) 2 : Int)) 16) 16)

/-- The least W of R291, if any. -/
def deltaWidth (line : List Byte) : Option Nat :=
  let ds := deltas line
  ((List.range 15).map (· + 1)).find? (fun w => ds.all (fun d => decide (minSigned w ≤ d ∧ d ≤ maxSigned w)))

def deltaBody (line : List Byte) (w : Nat) : List Byte :=
  let packed := ((deltas line).foldr (fun d acc => acc * 2 ^ w + wrapN d w) 0)
  toBytes 2 (field line 0 2) ++ toBytes (deltaLen w - 6) packed

/-- An image of a line under a codec (1 or 2), its W and its XP. -/
def mkImage (line body : List Byte) (codec w xp : Nat) : List Byte :=
  let n := ceilDiv (4 + body.length) 32
  let hdr := crc16 line * 2 ^ 16 + (n - 1) * 256 + w * 16 + codec * 4 + xp
  padTo 256 (toBytes 4 hdr ++ body)

/-- The encoder of R292: the image, or none when the line is stored plain. Codecs allowed: 0 both, 1 ZRM, 2 DELTA16. -/
def encodeLine (allow xp : Nat) (line : List Byte) : Option (List Byte) :=
  let zb := zrmBody line
  let zl := 32 * ceilDiv (4 + zb.length) 32
  let dw := deltaWidth line
  let dl := match dw with
    | some w => 32 * ceilDiv (deltaLen w) 32
    | none => 1024
  let zl' := if allow = 2 then 1024 else zl
  let dl' := if allow = 1 then 1024 else dl
  if zl' ≤ dl' then (if 224 < zl' then none else some (mkImage line zb 1 0 xp))
  else if 224 < dl' then none
  else match dw with
    | some w => some (mkImage line (deltaBody line w) 2 w xp)
    | none => none

/-- A buffer header (R287): bytes 0 to 31. -/
def bufHeader (xp chunk nlines ncomp : Nat) : List Byte :=
  let b := toBytes 1 xp ++ toBytes 1 1 ++ toBytes 1 chunk ++ toBytes 1 0 ++ toBytes 4 nlines ++ toBytes 4 ncomp ++
    toBytes 4 0x42484746 ++ List.replicate 12 0
  b ++ toBytes 4 (crc32 b).toNat

/-- A valid header for a pointer of the given LEN (R287). -/
def bufValid (h : List Byte) (len : Nat) : Bool :=
  let chunk := field h 2 1
  let nl := field h 4 4
  decide (field h 12 4 = 0x42484746 ∧ field h 1 1 = 1 ∧ field h 28 4 = (crc32 (h.take 28)).toNat ∧
    field h 0 1 < 4 ∧ field h 3 1 = 0 ∧ 1 ≤ chunk ∧ chunk ≤ 16 ∧ 1 ≤ nl ∧ nl ≤ 16777216 ∧
    256 * (nl + 1) ≤ len) && ((h.drop 16).take 12).all (· = 0)

end Sys2Proof.Machine
end

