-- ==== Sys2Proof/Machine/Pointer.lean ====
section
/-!
DEFINITION. Typed pointers (R112 to R115): their fields, validity, and the type word of PMAKE (R218).
-/
namespace Sys2Proof.Machine

/-- The fields of a 128-bit pointer (R112). -/
structure Ptr where
  ver : Nat
  hdie : Nat
  hclu : Nat
  hcore : Nat
  res : Nat
  cv : Bool
  space : Nat
  scope : Nat
  len : Nat
  share : Nat
  fmt : Nat
  base : Nat
deriving DecidableEq, Repr, Inhabited

namespace Ptr

def ofBits (x : W128) : Ptr :=
  let n := x.toNat
  { ver := bits n 127 125, hdie := bits n 124 118, hclu := bits n 117 115, hcore := bits n 114 112,
    res := bits n 111 111, cv := bit n 110, space := bits n 109 107, scope := bits n 106 104,
    len := bits n 103 64, share := bits n 63 62, fmt := bits n 61 57, base := bits n 56 0 }

def toBits (p : Ptr) : W128 :=
  BitVec.ofNat 128
    (p.ver * 2 ^ 125 + p.hdie * 2 ^ 118 + p.hclu * 2 ^ 115 + p.hcore * 2 ^ 112 + p.res * 2 ^ 111 +
      (if p.cv then 2 ^ 110 else 0) + p.space * 2 ^ 107 + p.scope * 2 ^ 104 + p.len * 2 ^ 64 + p.share * 2 ^ 62 +
      p.fmt * 2 ^ 57 + p.base)

/-- The scopes a space allows (R115). -/
def scopeOk (space scope : Nat) : Bool :=
  match space with
  | 0 => scope ≤ 4
  | 1 => scope = 0
  | 2 => scope = 0
  | 3 => scope = 0
  | 4 => scope ≤ 1
  | 5 => scope = 4
  | 6 => scope = 2 || scope = 3
  | _ => false

/-- A pointer that R114 does not call invalid. -/
def valid (p : Ptr) : Bool :=
  p.ver = 1 && p.share ≠ 3 && p.scope ≤ 4 && p.space ≠ 7 && p.fmt < 16 && p.res = 0 && p.base + p.len ≤ 2 ^ 57 &&
    scopeOk p.space p.scope && (!p.cv || p.share = 1)

/-- The type word of R218. -/
def typeWord (p : Ptr) : W32 :=
  BitVec.ofNat 32 (p.hdie * 2 ^ 25 + p.hclu * 2 ^ 22 + p.hcore * 2 ^ 19 + (if p.cv then 2 ^ 18 else 0) +
    p.space * 2 ^ 15 + p.scope * 2 ^ 12 + p.share * 2 ^ 10 + p.fmt % 32)

/-- A pointer that is written only if valid, else 0 (R216). -/
def orZero (p : Ptr) : W128 := if p.valid then p.toBits else 0

/-- Size in bytes of an address space with fixed addresses (R115); none for the others. -/
def spaceSize (space : Nat) : Option Nat :=
  match space with
  | 1 => some 65536
  | 2 => some 65536
  | 3 => some 131072
  | 4 => some 2097152
  | _ => none

end Ptr
end Sys2Proof.Machine
end

