-- ==== Sys2Proof/Syntax.lean ====
section
/-!
DEFINITION. The steps of the machine: every row of the spec's table of operations and events is a constructor.
An instruction carries the header of R53 and the fields of its format (R57 to R63), under the manual's names;
an event carries what names its object (a message, a core, a survey) and what its outside party supplies.
-/
namespace Sys2Proof

/-- The common header of R53 without the opcode, which the constructor stands for. -/
structure Hdr where
  gneg : Bool
  guard : BitVec 3
  stall : BitVec 4
deriving DecidableEq, Repr, Inhabited

/-- Format F0 (R57). -/
structure F0 where
  rnd : BitVec 3
  sub : BitVec 6
  ty : BitVec 4
  ub : Bool
  ua : Bool
  c : BitVec 7
  b : BitVec 7
  a : BitVec 7
  d : BitVec 7
deriving DecidableEq, Repr, Inhabited

/-- Format F1 (R58). -/
structure F1 where
  imm : BitVec 32
  a : BitVec 7
  d : BitVec 7
deriving DecidableEq, Repr, Inhabited

/-- Format F2 (R59). -/
structure F2 where
  nt : Bool
  udata : Bool
  loff : Bool
  dw : Bool
  vc : BitVec 2
  off : BitVec 20
  lane : BitVec 7
  ptr : BitVec 5
  data : BitVec 7
deriving DecidableEq, Repr, Inhabited

/-- Format F3 (R62). -/
structure F3 where
  fp : BitVec 8
  tp : BitVec 8
  woff : BitVec 30
deriving DecidableEq, Repr, Inhabited

/-- Format F4 (R63). -/
structure F4 where
  imm : BitVec 17
  nb : Bool
  pw : BitVec 3
  sub : BitVec 6
  sop : BitVec 6
  pb : BitVec 5
  hnd : BitVec 8
deriving DecidableEq, Repr, Inhabited

/-- Format F5 (R63). -/
structure F5 where
  nb : Bool
  pw : BitVec 3
  ds : Bool
  data : BitVec 7
  hnd : BitVec 8
deriving DecidableEq, Repr, Inhabited

/-- What the service controller gives a new partition (R458): its clusters (site, cluster), its memory list (sites),
its limits and its PORT word. -/
structure PartDesc where
  id : Nat
  clusters : List (Nat × Nat)
  memory : List Nat
  ylimit : Nat
  surv : Nat
  parc : Nat
  nchild : Nat
  port : W32
deriving DecidableEq, Repr, Inhabited

/-- One constructor for each row of spec/opcode_table.json. -/
inductive Instr where
  /-- BRA (R163): Active lanes branch to PC + 8·WOFF with priority TP, and the other lanes of the entry fall through with FP. -/
  | bra (h : Hdr) (f : F3)
  /-- BRX (R164): Each active lane branches to the address in its g or s register, which must be the first word of an IT block. -/
  | brx (h : Hdr) (f : F0)
  /-- BRU (R163): If any lane is active, every lane of the entry goes to the target with priority TP. -/
  | bru (h : Hdr) (f : F3)
  /-- CALL (R163): Active lanes push the return address and priority, then branch to the target; a lane whose stack is full raises 0x30. -/
  | call (h : Hdr) (f : F3)
  /-- RET (R165): Each active lane pops its return stack and goes to the popped address with the popped priority. -/
  | ret (h : Hdr) (f : F0)
  /-- JOIN (R166): The lanes wait at the join while any live lane of the chain has a lower program counter. -/
  | join (h : Hdr) (f : F0)
  /-- EXIT (R167): Ends the active lanes, or waits for the chain's outstanding engine commands when these are its last live lanes. -/
  | exit (h : Hdr) (f : F0)
  /-- YIELD (R168): Takes a monument and continues; pre-emption stops the chain here at the end of a time slice. -/
  | yield (h : Hdr) (f : F0)
  /-- NOP (R168): Does nothing. -/
  | nop (h : Hdr) (f : F0)
  /-- PSET (R169): Compares two integers in each active lane, optionally combines the result with a predicate, and writes a predicate. -/
  | pset (h : Hdr) (f : F0)
  /-- PLOG_LUT (R170): Writes a predicate from a 4-bit lookup table over two predicates. -/
  | plogLut (h : Hdr) (f : F0)
  /-- PLOG_FROMS (R170): Writes into lane i's predicate bit i of an s register. -/
  | plogFroms (h : Hdr) (f : F0)
  /-- VOTE_BALLOT (R171): Writes to an s register a mask of the active lanes in which the predicate is true. -/
  | voteBallot (h : Hdr) (f : F0)
  /-- VOTE_ANY (R171): Writes true in every active lane when the predicate is true in some active lane. -/
  | voteAny (h : Hdr) (f : F0)
  /-- VOTE_ALL (R171): Writes true in every active lane when the predicate is true in all active lanes. -/
  | voteAll (h : Hdr) (f : F0)
  /-- VOTE_EQ (R171): Writes true in every active lane when the predicate has one value across the active lanes. -/
  | voteEq (h : Hdr) (f : F0)
  /-- ELECT (R172): Sets the predicate true in the lowest active lane only, and with .idx also writes that lane's index. -/
  | elect (h : Hdr) (f : F0)
  /-- SADD (R173): Uniform integer add, wrapping or saturating. -/
  | sadd (h : Hdr) (f : F0)
  /-- SSUB (R173): Uniform integer subtract, wrapping or saturating. -/
  | ssub (h : Hdr) (f : F0)
  /-- SMUL (R173): Uniform integer multiply, wrapping or saturating. -/
  | smul (h : Hdr) (f : F0)
  /-- SMIN (R173): Uniform integer minimum. -/
  | smin (h : Hdr) (f : F0)
  /-- SMAX (R173): Uniform integer maximum. -/
  | smax (h : Hdr) (f : F0)
  /-- SAND (R173): Uniform bitwise AND. -/
  | sand (h : Hdr) (f : F0)
  /-- SOR (R173): Uniform bitwise OR. -/
  | sor (h : Hdr) (f : F0)
  /-- SXOR (R173): Uniform bitwise exclusive OR. -/
  | sxor (h : Hdr) (f : F0)
  /-- SSHL (R173): Uniform shift left. -/
  | sshl (h : Hdr) (f : F0)
  /-- SSHR (R173): Uniform logical shift right. -/
  | sshr (h : Hdr) (f : F0)
  /-- SSRA (R173): Uniform arithmetic shift right. -/
  | ssra (h : Hdr) (f : F0)
  /-- SLDI (R173): Loads a 32-bit immediate into an s register. -/
  | sldi (h : Hdr) (f : F1)
  /-- SMOV (R173): Uniform register move. -/
  | smov (h : Hdr) (f : F0)
  /-- GACQ (R174): Acquires n extended register blocks from the team's pool, parking while too few blocks are free. -/
  | gacq (h : Hdr) (f : F1)
  /-- GREL (R174): Releases the chain's highest n extended register blocks. -/
  | grel (h : Hdr) (f : F1)
  /-- BARA (R175): Arrives at a barrier without waiting. -/
  | bara (h : Hdr) (f : F5)
  /-- BARW (R175): Arrives at a barrier unless already arrived by BARA, then parks until the phase completes; the .nb form only tests. -/
  | barw (h : Hdr) (f : F5)
  /-- QSEND (R176): Appends an s value, or a group of lane values, to a data queue, waiting while the queue lacks room. -/
  | qsend (h : Hdr) (f : F5)
  /-- QRECV (R176): Removes one entry, or one per active lane, from a data queue, waiting while too few entries are present. -/
  | qrecv (h : Hdr) (f : F5)
  /-- QPEEK (R176): Reads queue entries as QRECV does, without removing them. -/
  | qpeek (h : Hdr) (f : F5)
  /-- SGET (R177): Reads a special register into an s register, or into g registers for LANECAUSE. -/
  | sget (h : Hdr) (f : F1)
  /-- SSET (R177): Writes a special register from an s register under that register's write rules. -/
  | sset (h : Hdr) (f : F1)
  /-- TRAP (R178): Faults every active lane with a software cause from 0x80 to 0xFF. -/
  | trap (h : Hdr) (f : F1)
  /-- TRET_RETRY (R179): Resolves a trap record: its parked lanes reissue the instruction, and its logged writes replay. -/
  | tretRetry (h : Hdr) (f : F0)
  /-- TRET_SKIP (R179): Resolves a trap record: its lanes resume after the instruction, and its logged writes replay. -/
  | tretSkip (h : Hdr) (f : F0)
  /-- TRET_KILL (R179): Resolves a trap record by ending its lanes and discarding its logged writes. -/
  | tretKill (h : Hdr) (f : F0)
  /-- HOPS (R180): Writes the hop distance between two virtual dies of the plat. -/
  | hops (h : Hdr) (f : F0)
  /-- TOPO_GRADE (R180): Writes the GRADE value. -/
  | topoGrade (h : Hdr) (f : F0)
  /-- TOPO_CORES (R180): Writes the context's dense core count. -/
  | topoCores (h : Hdr) (f : F0)
  /-- TOPO_DIES (R180): Writes the number of valid plat entries. -/
  | topoDies (h : Hdr) (f : F0)
  /-- TOPO_ISLAND (R180): Writes the island of a virtual die. -/
  | topoIsland (h : Hdr) (f : F0)
  /-- TOPO_NCORE (R180): Writes the NCORE of a virtual die. -/
  | topoNcore (h : Hdr) (f : F0)
  /-- TOPO_FIRST (R180): Writes the context-dense number of a die's core 0. -/
  | topoFirst (h : Hdr) (f : F0)
  /-- ISYNC (R181): Writes back the range's dirty L1 sectors, then drops the range from the fetch buffer and the L1. -/
  | isync (h : Hdr) (f : F2)
  /-- IADD (R198): Lane integer add, wrapping or saturating. -/
  | iadd (h : Hdr) (f : F0)
  /-- ISUB (R198): Lane integer subtract. -/
  | isub (h : Hdr) (f : F0)
  /-- IMUL (R198): Lane integer multiply, low bits. -/
  | imul (h : Hdr) (f : F0)
  /-- IMULH (R198): Lane integer multiply, high bits. -/
  | imulh (h : Hdr) (f : F0)
  /-- IMAD (R198): Lane integer multiply-add. -/
  | imad (h : Hdr) (f : F0)
  /-- IMIN (R198): Lane integer minimum. -/
  | imin (h : Hdr) (f : F0)
  /-- IMAX (R198): Lane integer maximum. -/
  | imax (h : Hdr) (f : F0)
  /-- IABS (R198): Lane integer absolute value. -/
  | iabs (h : Hdr) (f : F0)
  /-- AND (R199): Bitwise AND, optionally with b inverted. -/
  | and (h : Hdr) (f : F0)
  /-- OR (R199): Bitwise OR, optionally with b inverted. -/
  | or (h : Hdr) (f : F0)
  /-- XOR (R199): Bitwise exclusive OR, optionally with b inverted. -/
  | xor (h : Hdr) (f : F0)
  /-- SHL (R199): Lane shift left. -/
  | shl (h : Hdr) (f : F0)
  /-- SHR (R199): Lane logical shift right. -/
  | shr (h : Hdr) (f : F0)
  /-- SRA (R199): Lane arithmetic shift right. -/
  | sra (h : Hdr) (f : F0)
  /-- POPC (R199): Population count. -/
  | popc (h : Hdr) (f : F0)
  /-- CLZ (R199): Leading zero count. -/
  | clz (h : Hdr) (f : F0)
  /-- BFX (R200): Extracts a bit field, zero- or sign-extended. -/
  | bfx (h : Hdr) (f : F0)
  /-- BFI (R200): Inserts a bit field into c. -/
  | bfi (h : Hdr) (f : F0)
  /-- SEL (R201): Selects a or b by a predicate. -/
  | sel (h : Hdr) (f : F0)
  /-- MOV (R201): Moves a register, or broadcasts an s value to every active lane. -/
  | mov (h : Hdr) (f : F0)
  /-- LDI (R201): Loads a 32-bit immediate into a g register. -/
  | ldi (h : Hdr) (f : F1)
  /-- FADD (R202): Floating-point add, rounded once. -/
  | fadd (h : Hdr) (f : F0)
  /-- FSUB (R202): Floating-point subtract. -/
  | fsub (h : Hdr) (f : F0)
  /-- FMUL (R202): Floating-point multiply. -/
  | fmul (h : Hdr) (f : F0)
  /-- FFMA (R202): Fused multiply-add with a single rounding. -/
  | ffma (h : Hdr) (f : F0)
  /-- FMIN (R203): Floating-point minimum under the number or propagating rule. -/
  | fmin (h : Hdr) (f : F0)
  /-- FMAX (R203): Floating-point maximum under the number or propagating rule. -/
  | fmax (h : Hdr) (f : F0)
  /-- FCMP (R204): Floating-point compare to a predicate, optionally combined with another predicate. -/
  | fcmp (h : Hdr) (f : F0)
  /-- FRCP (R205): Correctly rounded reciprocal. -/
  | frcp (h : Hdr) (f : F0)
  /-- FRSQ (R205): Correctly rounded reciprocal square root. -/
  | frsq (h : Hdr) (f : F0)
  /-- FSQRT (R205): Correctly rounded square root. -/
  | fsqrt (h : Hdr) (f : F0)
  /-- FDIV (R205): Correctly rounded division. -/
  | fdiv (h : Hdr) (f : F0)
  /-- FEXP2 (R205): Correctly rounded 2 to the power a. -/
  | fexp2 (h : Hdr) (f : F0)
  /-- FLOG2 (R205): Correctly rounded base-2 logarithm. -/
  | flog2 (h : Hdr) (f : F0)
  /-- FCLASS (R206): Writes a class mask for each floating value. -/
  | fclass (h : Hdr) (f : F0)
  /-- CVT (R207): Converts to a floating or complex format. -/
  | cvt (h : Hdr) (f : F0)
  /-- CVTI (R208): Converts to an integer format, saturating or wrapping. -/
  | cvti (h : Hdr) (f : F0)
  /-- PACK (R209): Narrows two operands into one packed register. -/
  | pack (h : Hdr) (f : F0)
  /-- UNPACK (R209): Widens one part of a packed register. -/
  | unpack (h : Hdr) (f : F0)
  /-- SHFL (R210): Shuffles values within a 16-lane register lane group. -/
  | shfl (h : Hdr) (f : F0)
  /-- SHFLX (R210): Shuffles values across all 32 lanes. -/
  | shflx (h : Hdr) (f : F0)
  /-- LRED (R211): Reduces over the active lanes by the fixed tree order. -/
  | lred (h : Hdr) (f : F0)
  /-- LSCAN (R211): Inclusive or exclusive scan over the lanes, each lane by its pruned tree. -/
  | lscan (h : Hdr) (f : F0)
  /-- BCAST (R212): Broadcasts one lane's value to every active lane, or to an s register. -/
  | bcast (h : Hdr) (f : F0)
  /-- CMUL (R213): Complex multiply, optionally with b conjugated. -/
  | cmul (h : Hdr) (f : F0)
  /-- PMAKE (R217): Builds a typed pointer from a base, a length and a type word. -/
  | pmake (h : Hdr) (f : F0)
  /-- PNARROW (R219): Narrows a pointer's scope and rehomes it to the issuing core. -/
  | pnarrow (h : Hdr) (f : F0)
  /-- PWIDEN (R220): Widens a pointer's scope or class, flushing dirty sectors of the range to the new coherence point. -/
  | pwiden (h : Hdr) (f : F0)
  /-- PSLICE (R222): Narrows a pointer to a sub-range of its source. -/
  | pslice (h : Hdr) (f : F0)
  /-- PTYPE (R223): Changes a pointer's format, and optionally makes it read-shared. -/
  | ptype (h : Hdr) (f : F0)
  /-- PGET (R224): Reads a pointer's base, length or type word. -/
  | pget (h : Hdr) (f : F0)
  /-- PCHK (R225): Predicts whether one access would pass issue checks 1 to 5. -/
  | pchk (h : Hdr) (f : F0)
  /-- LD (R229): Loads elements through a typed pointer, converting them to the register form. -/
  | ld (h : Hdr) (f : F2)
  /-- ST (R229): Stores elements through a typed pointer, converting them to the memory format. -/
  | st (h : Hdr) (f : F2)
  /-- LDX (R233): Loads through a strided, bank-permuted layout word. -/
  | ldx (h : Hdr) (f : F2)
  /-- STX (R233): Stores through a strided, bank-permuted layout word. -/
  | stx (h : Hdr) (f : F2)
  /-- ATOM (R236): Performs an atomic operation and returns the old value. -/
  | atom (h : Hdr) (f : F2)
  /-- ACAS (R239): Atomic compare-and-swap by bit pattern, returning the old value. -/
  | acas (h : Hdr) (f : F2)
  /-- AMRED (R240): Non-returning reduction, combined per unit in the aggregator unless .sc. -/
  | amred (h : Hdr) (f : F2)
  /-- PUBOPEN (R244): Opens a publication region in which stores write U state in the L1. -/
  | pubopen (h : Hdr) (f : F2)
  /-- PUBLISH (R245): Freezes the region's home sectors, computes tp, writes the U sectors stamped tp and closes the region. -/
  | publish (h : Hdr) (f : F2)
  /-- LCADV (R248): Advances the core's logical clock, optionally from a floor. -/
  | lcadv (h : Hdr) (f : F1)
  /-- LDPRS (R234): Probes the nearest copy of each lane's sector and returns its state, wts, rts and the core's LCLK. -/
  | ldprs (h : Hdr) (f : F2)
  /-- CPY (R263): Copies and converts n elements from a source pointer to a destination pointer. -/
  | cpy (h : Hdr) (f : F4)
  /-- CPYX (R267): Copies a three-dimensional box between a strided side and a packed side. -/
  | cpyx (h : Hdr) (f : F4)
  /-- CPYW (R265): Fills n destination elements with one converted value. -/
  | cpyw (h : Hdr) (f : F4)
  /-- CPYG (R266): Gathers source elements through an index array. -/
  | cpyg (h : Hdr) (f : F4)
  /-- CPWAIT (R269): Waits for a copy group's commands, raises LCLK, and writes and clears the group status. -/
  | cpwait (h : Hdr) (f : F4)
  /-- RINGACQ_PROD (R275): Takes the next producer sequence number and waits until its slot is empty in the right phase. -/
  | ringacqProd (h : Hdr) (f : F4)
  /-- RINGACQ_CONS (R275): Takes the next consumer sequence number, waits until its slot is full, then raises LCLK to the slot time. -/
  | ringacqCons (h : Hdr) (f : F4)
  /-- RINGREL_PROD (R275): Marks a slot full, stamped with LCLK, as a release. -/
  | ringrelProd (h : Hdr) (f : F4)
  /-- RINGREL_PROD_AFTER (R275): Marks a slot full once a copy group's earlier commands have completed. -/
  | ringrelProdAfter (h : Hdr) (f : F4)
  /-- RINGREL_CONS (R275): Empties a slot and flips its phase bit once the chain's earlier loads and overlapping commands are done. -/
  | ringrelCons (h : Hdr) (f : F4)
  /-- RINGWT_FULL (R275): Waits until a given sequence's slot is full, without acquiring it. -/
  | ringwtFull (h : Hdr) (f : F4)
  /-- RINGWT_EMPTY (R275): Waits until a given sequence's slot is empty. -/
  | ringwtEmpty (h : Hdr) (f : F4)
  /-- EASEQ_COUNT (R276): Returns the number of free easement entries. -/
  | easeqCount (h : Hdr) (f : F4)
  /-- EASEQ_PROBE (R276): Reports which easement entries overlap a pointer's range. -/
  | easeqProbe (h : Hdr) (f : F4)
  /-- EASEQ_WAIT (R276): Waits until no easement entry overlaps a pointer's range. -/
  | easeqWait (h : Hdr) (f : F4)
  /-- XHDR_RD (R303): Reads a compressed buffer's 32-byte header into eight s registers. -/
  | xhdrRd (h : Hdr) (f : F4)
  /-- XHDR_XP (R303): Rewrites the expansion point in the header and in every image of the buffer. -/
  | xhdrXp (h : Hdr) (f : F4)
  /-- XHDR_CHK (R303): Decodes every data line of a buffer without writing. -/
  | xhdrChk (h : Hdr) (f : F4)
  /-- XHDR_ADOPT (R303): Marks as images the well-formed lines that a bitmap names. -/
  | xhdrAdopt (h : Hdr) (f : F4)
  /-- XEXP (R304): Expands a buffer's lines in place to plain lines. -/
  | xexp (h : Hdr) (f : F4)
  /-- XCMP (R305): Encodes plain lines into a compressed buffer and writes its header. -/
  | xcmp (h : Hdr) (f : F4)
  /-- XDEC (R306): Decodes a compressed buffer's lines into plain memory, chunk by chunk. -/
  | xdec (h : Hdr) (f : F4)
  /-- XSTAT (R307): Reads a transform stream's status. -/
  | xstat (h : Hdr) (f : F4)
  /-- XWAIT (R308): Waits for a stream's earlier commands and raises LCLK to their stamps. -/
  | xwait (h : Hdr) (f : F4)
  /-- MMA (R328): Multiplies A by the transpose of B into an accumulator, block by block along K. -/
  | mma (h : Hdr) (f : F4)
  /-- MMAC (R329): Complex BF16 matrix multiply-accumulate into a complex tile. -/
  | mmac (h : Hdr) (f : F4)
  /-- AREL (R331): Unmaps logical accumulators; their slots are cleared and freed 64 cc later. -/
  | arel (h : Hdr) (f : F4)
  /-- AREAD (R333): Copies and converts an accumulator region to memory. -/
  | aread (h : Hdr) (f : F4)
  /-- AWRITE (R333): Copies and converts memory into an accumulator region. -/
  | awrite (h : Hdr) (f : F4)
  /-- AZERO (R332): Sets accumulators to +0, making them held. -/
  | azero (h : Hdr) (f : F4)
  /-- MWAIT (R336): Waits for a matrix group's commands and raises LCLK. -/
  | mwait (h : Hdr) (f : F4)
  /-- MSTAT_GRP (R337): Reads and clears a matrix group's status. -/
  | mstatGrp (h : Hdr) (f : F4)
  /-- MSTAT_ACC (R337): Reads the accumulator map, the quota and the free slot count. -/
  | mstatAcc (h : Hdr) (f : F4)
  /-- HCLR (R352): Clears an exponent histogram. -/
  | hclr (h : Hdr) (f : F4)
  /-- HACC (R353): Counts source elements into histogram bins by exponent. -/
  | hacc (h : Hdr) (f : F4)
  /-- HPCT (R354): Turns a histogram into a clipping threshold at a quantile. -/
  | hpct (h : Hdr) (f : F4)
  /-- SFOLD (R355): Folds a magnitude into a scale word by an atomic maximum. -/
  | sfold (h : Hdr) (f : F4)
  /-- QNT (R356): Clips data to a scale-word snapshot and encodes it to BS blocks. -/
  | qnt (h : Hdr) (f : F4)
  /-- DQNT (R357): Decodes BS blocks to an IEEE format. -/
  | dqnt (h : Hdr) (f : F4)
  /-- QSTAT_GRP (R359): Waits for a quantise group, raises LCLK, and reads and clears its status. -/
  | qstatGrp (h : Hdr) (f : F4)
  /-- QSTAT_ALL (R359): Does as QSTAT_GRP over every group. -/
  | qstatAll (h : Hdr) (f : F4)
  /-- QSTAT_BIN (R359): Waits for the commands on a histogram, then reads one bin. -/
  | qstatBin (h : Hdr) (f : F4)
  /-- TBIND (R375): Binds a tensor range in every home slice, retags its sectors and reclassifies its private pages. -/
  | tbind (h : Hdr) (f : F4)
  /-- TFREE (R376): Retags a binding's sectors back to address tags and frees the binding. -/
  | tfree (h : Hdr) (f : F4)
  /-- TLOOK (R377): Probes a tile at its home without granting a lease. -/
  | tlook (h : Hdr) (f : F4)
  /-- TNEAR (R378): Prefetches a tile and its neighbours into their home slices. -/
  | tnear (h : Hdr) (f : F4)
  /-- THALO (R379): Fetches a tile with its halo into a typed buffer, zeroing or clamping at the edges. -/
  | thalo (h : Hdr) (f : F4)
  /-- TDROP_WB (R380): Writes back and drops a binding's resident sectors, raising the fill floor. -/
  | tdropWb (h : Hdr) (f : F4)
  /-- TDROP_DISCARD (R380): Discards a binding's cached values in favour of HBM, with new stamps. -/
  | tdropDiscard (h : Hdr) (f : F4)
  /-- TWRB (R380): Writes back a binding's dirty sectors and keeps them resident. -/
  | twrb (h : Hdr) (f : F4)
  /-- TQRY_GRP (R381): Waits for a tensor group, raises LCLK, and reads and clears its status. -/
  | tqryGrp (h : Hdr) (f : F4)
  /-- TQRY_ALL (R381): Does as TQRY_GRP over every group. -/
  | tqryAll (h : Hdr) (f : F4)
  /-- TQRY_BIND (R381): Reads a tensor handle's binding word. -/
  | tqryBind (h : Hdr) (f : F4)
  /-- LAUNCH (R402): Releases and submits a launch record to a launch queue as a new survey. -/
  | launch (h : Hdr) (f : F4)
  /-- KREG (R403): Checks a kernel image and registers it, returning a KID or a reason. -/
  | kreg (h : Hdr) (f : F4)
  /-- KDEREG (R405): Deregisters a kernel and cancels its unplaced surveys. -/
  | kdereg (h : Hdr) (f : F4)
  /-- SWAIT (R406): Waits until a completion word holds DONE with the given SID, then acquires it. -/
  | swait (h : Hdr) (f : F4)
  /-- QCFG (R407): Empties and reconfigures a queue, cancelling its unplaced surveys. -/
  | qcfg (h : Hdr) (f : F4)
  /-- DEPADD (R408): Attaches a prerequisite survey to a dependent survey. -/
  | depadd (h : Hdr) (f : F4)
  /-- BUDGQ_ISLAND (R409): Reads an island's placement sum and limit. -/
  | budgqIsland (h : Hdr) (f : F4)
  /-- BUDGQ_CTX (R409): Reads the context's live surveys, placed parcels and budgets. -/
  | budgqCtx (h : Hdr) (f : F4)
  /-- PAIRQ (R410): Reads the chain's redundant-pair status. -/
  | pairq (h : Hdr) (f : F4)
  /-- CXNEW (R436): Creates a stopped child context from a descriptor. -/
  | cxnew (h : Hdr) (f : F4)
  /-- CXGRANT_BUDGET (R439): Sets a child's survey, parcel and descendant budgets. -/
  | cxgrantBudget (h : Hdr) (f : F4)
  /-- CXGRANT_PORT (R439): Sets a child's port budget word. -/
  | cxgrantPort (h : Hdr) (f : F4)
  /-- CXGRANT_HANDLE (R439): Shares one of the issuer's handle entries into the child's table. -/
  | cxgrantHandle (h : Hdr) (f : F4)
  /-- CXGRANT_COMMON (R439): Sets a child's COMMON flag. -/
  | cxgrantCommon (h : Hdr) (f : F4)
  /-- CXREVOKE_HANDLE (R439): Empties a child's handle entry and every entry shared onwards from it. -/
  | cxrevokeHandle (h : Hdr) (f : F4)
  /-- CXREVOKE_COMMON (R439): Clears a child's COMMON flag and sweeps its common-half lines. -/
  | cxrevokeCommon (h : Hdr) (f : F4)
  /-- CXREVOKE_ALL (R439): Unmaps all of a stopped child's frames, empties its handles and zeroes its budgets. -/
  | cxrevokeAll (h : Hdr) (f : F4)
  /-- CXRUN (R437): Resumes a stopped child and its previously running descendants. -/
  | cxrun (h : Hdr) (f : F4)
  /-- CXRUN_LAUNCH (R437): Submits a survey to a child's start queue, then resumes the child. -/
  | cxrunLaunch (h : Hdr) (f : F4)
  /-- CXSTOP (R437): Pre-empts a running child and its subtree as a whole. -/
  | cxstop (h : Hdr) (f : F4)
  /-- CXSTAT_STATE (R451): Reads a context's state word. -/
  | cxstatState (h : Hdr) (f : F4)
  /-- CXSTAT_FLAGS (R451): Reads and clears a memory-side flag word or the local flag word. -/
  | cxstatFlags (h : Hdr) (f : F4)
  /-- CXSTAT_CONT (R451): Reads the lost-slot count of an activity class. -/
  | cxstatCont (h : Hdr) (f : F4)
  /-- CXSTAT_PORT (R451): Reads the port counts of beats lent, beats borrowed or fc waited. -/
  | cxstatPort (h : Hdr) (f : F4)
  /-- CXSTAT_PWORD (R451): Reads a context's port budget word. -/
  | cxstatPword (h : Hdr) (f : F4)
  /-- CXDEL (R438): Deletes a stopped child's subtree, deepest first, with sweeps. -/
  | cxdel (h : Hdr) (f : F4)
  /-- FRMAP (R440): Maps a child frame to an issuer frame, with a sweep when it replaces a mapped entry. -/
  | frmap (h : Hdr) (f : F4)
  /-- FRUNMAP (R440): Unmaps a run of a child's frames, with a sweep. -/
  | frunmap (h : Hdr) (f : F4)
  /-- FRQRY_CHILD (R441): Reads a child's frame-array entry. -/
  | frqryChild (h : Hdr) (f : F4)
  /-- FRQRY_COMP (R441): Reads a child's composed entry. -/
  | frqryComp (h : Hdr) (f : F4)
  /-- FRQRY_SELF (R441): Reads the issuer's own composed entry. -/
  | frqrySelf (h : Hdr) (f : F4)
  /-- PLATSET (R442): Binds or removes a virtual die in a stopped child's plat, with a core mask. -/
  | platset (h : Hdr) (f : F4)
  /-- DTLD (R443): Checks and loads a decode-table image, emptying descendants' entries for IOPs it drops. -/
  | dtld (h : Hdr) (f : F4)
  /-- HTSET (R444): Writes a handle-table entry of a given type. -/
  | htset (h : Hdr) (f : F4)
  /-- TRDLG_MASK (R445): Writes 32 bits of the issuer's delegation mask. -/
  | trdlgMask (h : Hdr) (f : F4)
  /-- TRDLG_MASK_CHILD (R445): Writes 32 bits of a child's delegation mask. -/
  | trdlgMaskChild (h : Hdr) (f : F4)
  /-- TRDLG_RING (R445): Sets the issuer's trap ring and notification queue. -/
  | trdlgRing (h : Hdr) (f : F4)
  /-- TRDLG_OFF (R445): Removes the issuer's trap ring. -/
  | trdlgOff (h : Hdr) (f : F4)
  /-- TRFLT (R446): Declines a routed translation record and redelivers it from the faulting context. -/
  | trflt (h : Hdr) (f : F4)
  /-- PGRET (R447): Retires the physical page behind a context-physical address ahead of any error. -/
  | pgret (h : Hdr) (f : F4)
  /-- MIGLOG_ON (R448): Clears a log buffer and starts migration logging for a child. -/
  | miglogOn (h : Hdr) (f : F4)
  /-- MIGLOG_TAKE (R448): Switches logging to a new buffer and returns the old buffer's status. -/
  | miglogTake (h : Hdr) (f : F4)
  /-- MIGLOG_OFF (R448): Writes back the stopped subtree's dirty sectors, logging them, and stops logging. -/
  | miglogOff (h : Hdr) (f : F4)
  /-- MIGMOV (R449): Freezes a child frame, copies it to a new issuer frame, remaps it and releases the held writes. -/
  | migmov (h : Hdr) (f : F4)
  /-- INVPG (R450): Empties TLB entries for a range, writes back its dirty sectors and drops every copy. -/
  | invpg (h : Hdr) (f : F4)
  /-- INVPG_TLB (R450): Empties a range's TLB entries only. -/
  | invpgTlb (h : Hdr) (f : F4)
  /-- INVCX_ALL (R450): Does as INVPG for a whole tag space, of the issuer or of a child. -/
  | invcxAll (h : Hdr) (f : F4)
  /-- INVCX_TLB (R450): Empties every TLB entry of a tag space. -/
  | invcxTlb (h : Hdr) (f : F4)
  /-- INVCX_ROOT (R450): Replaces S1ROOT, then empties the tag space's TLB entries. -/
  | invcxRoot (h : Hdr) (f : F4)
  /-- CHAIN_SET_EXCHANGE (R37): A swapped-out active chain exchanges places with the longest-eligible pending chain at the next cc. -/
  | chainSetExchange (core : Nat)
  /-- PENDING_CHAIN_PROMOTION (R38): A pending chain eligible for 256 cc replaces the longest-resident active chain. -/
  | pendingChainPromotion (core : Nat)
  /-- SPIN_PARK_WAKE (R39): A wake from the registered coherence point makes the spin-parked chain eligible to reissue its load. -/
  | spinParkWake (msg : Nat)
  /-- SPIN_PARK_TIMEOUT (R39): After 4,096 cc a spin-parked chain becomes eligible again. -/
  | spinParkTimeout (core : Nat) (slot : Nat)
  /-- JOIN_RELEASE (R166): Lanes waiting at a JOIN re-enter the frontier once no lower lane remains. -/
  | joinRelease (core : Nat) (slot : Nat)
  /-- CHAIN_END (R167): A chain with no live lane and no outstanding result ends, releasing its blocks and barrier participation. -/
  | chainEnd (core : Nat) (slot : Nat)
  /-- MEMORY_SIDE_FAULT_RETURN (R182): A translation fault returning from the memory side parks load lanes where they stand, or joins an existing record. -/
  | memorySideFaultReturn (msg : Nat)
  /-- TRAP_RECORD_DELIVERY (R429): A trap record is written into the claiming context's ring and announced on its queue, waiting for a free slot or room. -/
  | trapRecordDelivery (rec : Nat)
  /-- REDUNDANT_PAIR_TIMEOUT (R189): A pair chain waiting 65,536 cc at a compare with no partner faults both chains with 0x1C. -/
  | redundantPairTimeout (core : Nat) (slot : Nat)
  /-- PREEMPT_STOP (R187): Collectors send stops to each engine of the context, which stop at their units and acknowledge. -/
  | preemptStop (ctx : Nat)
  /-- PREEMPTION_COMPLETE (R187): Pre-emption completes when every collector has reported all acknowledgements. -/
  | preemptionComplete (ctx : Nat)
  /-- CONTEXT_RESTORE (R187): A pre-empted context is restored onto plat cores, LCLK is raised and saved engine commands resume. -/
  | contextRestore (ctx : Nat)
  /-- TIME_SLICE_EXPIRY (R460): At the end of a 2,000,000 fc slice, a contending context is pre-empted and the next resumes. -/
  | timeSliceExpiry (ctx : Nat) (nextCtx : Nat)
  /-- HOME_READ (R125): A read request at the home slice is served, extending rts, or forwarded to an owner. -/
  | homeRead (msg : Nat)
  /-- HOME_WRITE_LEASE (R126): A store request at the coherence point takes the write lease and stamps the sector. -/
  | homeWriteLease (msg : Nat)
  /-- LOAD_RESPONSE (R231): Returning data fills the levels passed and lands in the lane's registers. -/
  | loadResponse (msg : Nat)
  /-- STORE_WRITE_GRANT (R126): A returning write grant raises the core's LCLK to the stamp. -/
  | storeWriteGrant (msg : Nat)
  /-- FORWARDED_READ (R154): An owner receives a forwarded read and answers with data, or with gone when it no longer holds the sector. -/
  | forwardedRead (msg : Nat)
  /-- OWNER_WRITE_BACK (R154): A dirty write-back from the owner arrives at the home and is stored with its stamps. -/
  | ownerWriteBack (msg : Nat)
  /-- OWNERSHIP_CLEAN_RETURN (R154): A clean return of ownership arrives at the home. -/
  | ownershipCleanReturn (msg : Nat)
  /-- OWNER_DATA_ANSWER (R154): The owner's data answer lets the home serve the held read. -/
  | ownerDataAnswer (msg : Nat)
  /-- GONE_ANSWER (R154): A gone answer sets the stamps and lets the home serve the held read. -/
  | goneAnswer (msg : Nat)
  /-- PAGE_FLUSH (R132): An owning core receives a page flush and writes back the page's dirty sectors. -/
  | pageFlush (msg : Nat)
  /-- ATOMIC_AT_HOME (R240): An atomic or reduction message is performed at its performing point in ticket or arrival order. -/
  | atomicAtHome (msg : Nat)
  /-- ATOMIC_RETURN (R242): A returning atomic's old value lands in its lane and its flags are ORed into FPST. -/
  | atomicReturn (msg : Nat)
  /-- MERIDIAN_TICKET (R140): The meridian hands out the next ticket of the target slice for a .sc atomic. -/
  | meridianTicket (msg : Nat)
  /-- REBASE_NOTICE (R128): A clock or stamp at or above 0xC0_0000 notifies the meridian, which broadcasts REBASE or queues the rebase. -/
  | rebaseNotice
  /-- REBASE_BROADCAST_RECEIPT (R128): A core lowers LCLK by 0x40_0000 and toggles EPOCH on receiving the broadcast. -/
  | rebaseBroadcastReceipt (core : Nat)
  /-- CACHE_REBASE_SWEEP (R128): A cache sweeps its tags, lowering stamps and dropping expired clean copies. -/
  | cacheRebaseSweep (level : Nat) (index : Nat)
  /-- REBASE_COMPLETE (R128): 12,800 lc after the broadcast, the meridian declares the rebase complete and releases held operations. -/
  | rebaseComplete
  /-- HOST_MEM_READ (R151): A host CXL.mem read is performed at the home slice and grants no lease. -/
  | hostMemRead (ctx : Nat) (va : Nat) (len : Nat)
  /-- HOST_MEM_WRITE (R151): A host CXL.mem write stamps its sector with rts + 1 at the home. -/
  | hostMemWrite (ctx : Nat) (va : Nat) (data : List Byte)
  /-- BACK_INVALIDATE_RESPONSE (R454): The host's answer to a back-invalidate snoop lets the held write lease proceed. -/
  | backInvalidateResponse (msg : Nat)
  /-- COPY_UNIT_LANDING (R256): A 256-byte destination unit lands and sets its presence bit. -/
  | copyUnitLanding (core : Nat)
  /-- COPY_FAULT (R278): A translation fault on a unit stops the copy command and sets the group's fault flag. -/
  | copyFault (core : Nat)
  /-- RING_SLOT_READY (R275): A parked RINGACQ or RINGWT is served when its slot reaches the required state. -/
  | ringSlotReady (ring : Nat)
  /-- TRANSFORM_CHUNK_COMMIT (R301): At its commit turn, a decoded chunk writes its lines in order. -/
  | transformChunkCommit (cluster : Nat) (cmd : Nat)
  /-- TRANSFORM_CHUNK_FAIL (R301): At a failing chunk's turn, it and every later chunk write nothing and their presence bits are set. -/
  | transformChunkFail (cluster : Nat) (cmd : Nat)
  /-- TRANSFORM_COMMAND_COMPLETE (R301): A transform command completes, updates its stream status and releases its easements. -/
  | transformCommandComplete (cluster : Nat) (cmd : Nat)
  /-- STREAM_POST (R285): A .post command's status is appended to the stream's queue, waiting while the queue is full. -/
  | streamPost (cluster : Nat) (cmd : Nat)
  /-- TRANSFORM_FAULT (R312): A translation or expansion fault stops the transform command and sets the stream's fault flag. -/
  | transformFault (cluster : Nat) (cmd : Nat)
  /-- MMA_STEP_LANDING (R330): A K step's accumulation lands S + 4 cc after it starts. -/
  | mmaStepLanding (core : Nat)
  /-- ACCUMULATOR_SLOT_CLEARED (R331): 64 cc after unmapping, a slot is cleared to +0 and rejoins the free list. -/
  | accumulatorSlotCleared (core : Nat) (slot : Nat)
  /-- MATRIX_FAULT (R340): A fault on an operand or destination line stops the matrix command and sets the group's fault flag. -/
  | matrixFault (core : Nat)
  /-- QUANTISE_PASS_END (R358): A pass takes effect whole at its end: counts are added, or destination lines are written. -/
  | quantisePassEnd (core : Nat)
  /-- SCALE_WORD_FOLD (R347): A fold is performed indivisibly at the scale word's serving point. -/
  | scaleWordFold (core : Nat)
  /-- QUANTISE_FAULT (R362): A fault stops the quantise command at its pass and sets the group's fault flag. -/
  | quantiseFault (core : Nat)
  /-- TENSOR_COMMAND_COMPLETE (R374): A tensor command completes at the slowest slice and updates its group status. -/
  | tensorCommandComplete (core : Nat)
  /-- TENSOR_FAULT (R384): A failed TBIND, or a fault in THALO, TDROP or TWRB, stops the command and sets the group's fault flag. -/
  | tensorFault (core : Nat)
  /-- QUEUE_OP_AT_HOME (R393): A data-queue operation is performed at the queue's home in arrival order, serving parked parties. -/
  | queueOpAtHome (msg : Nat)
  /-- PARCEL_PLACEMENT (R396): Every 16 fc, a die's dispatch engine places the lowest unplaced parcel of the best head that fits. -/
  | parcelPlacement (part : Nat)
  /-- PROLOGUE_FAILURE (R315): A failing or faulting binding starts the parcel's chains parked with cause 0x53. -/
  | prologueFailure (sid : Nat) (pid : Nat)
  /-- PARCEL_FIRST_ISSUE (R399): The placed parcel's chains begin issuing after placement + 32 cc and the prologue. -/
  | parcelFirstIssue (sid : Nat) (pid : Nat)
  /-- SURVEY_COMPLETION (R400): When every chain has ended and every command has completed, the survey releases and writes its completion word. -/
  | surveyCompletion (sid : Nat)
  /-- SWEEP_COMPLETE (R426): A finished sweep writes its completion word with the sweep number. -/
  | sweepComplete (sweep : Nat)
  /-- PAGE_RETIREMENT (R432): An uncorrectable HBM error copies the page to a spare, marks lost sectors and redirects the page. -/
  | pageRetirement (site : Nat) (page : Nat) (bad : List Nat)
  /-- CONTAINED_ERROR (R471): An uncorrectable error fences the unit, ends its chains and reports to the mailbox and the log. -/
  | containedError (core : Nat) (cause : Nat)
  /-- RAIL_FAILURE (R19): A failed rail is replaced by the spare, or the link or die pair is fenced and traffic reroutes. -/
  | railFailure (link : Nat) (rail : Nat)
  /-- LINK_FLIT_REPLAY (R462): A flit that fails its CRC on a Biant link is replayed. -/
  | linkFlitReplay (port : Nat) (ctx : Nat) (cls : Nat)
  /-- ISLAND_LOCK_LOSS (R467): An island that loses PLL lock fences its stitch links. -/
  | islandLockLoss (island : Nat)
  /-- CURRENT_MONITOR_SAMPLE (R468): Every 1,000 fc the island current is sampled; an excess lowers every core one step. -/
  | currentMonitorSample (island : Nat) (mA : Nat)
  /-- ISLAND_THROTTLE_END (R468): 2,000,000 fc after an overcurrent sample, the island's cores return to their codes. -/
  | islandThrottleEnd (island : Nat)
  /-- ISLAND_BRING_UP (R466): At power-up, the service controller brings up the islands breadth-first from island 9. -/
  | islandBringUp (ok : BitVec 16)
  /-- PARTITION_CREATE (R458): The service controller creates a partition with its memory list and limits. -/
  | partitionCreate (desc : PartDesc)
  /-- PARTITION_RESET (R461): Deletes the partition's contexts, clears its state, drops its lines and restarts its counters. -/
  | partitionReset (part : Nat) (scrub : Bool)
  /-- SPDM_REQUEST (R470): The service controller answers an SPDM request with signed measurements. -/
  | spdmRequest (port : Nat) (request : List Byte)
  /-- FIRMWARE_LOAD (R470): A firmware image is verified against its manifest and security version, then loaded. -/
  | firmwareLoad (image : List Byte) (version : Nat) (manifest : List Byte) (own : Bool)
  /-- DOORBELL (R388): A host write submits a launch record for the root context, as a LAUNCH. -/
  | doorbell (fn : Nat) (addr : Nat)
  /-- MBOXHEAD (R456): A host write of the head frees mailbox slots for waiting records. -/
  | mboxhead (fn : Nat) (head : Nat)
  /-- TRESOLVE_RETRY (R455): A host write resolves a record as TRET.retry. -/
  | tresolveRetry (fn : Nat) (token : Nat)
  /-- TRESOLVE_SKIP (R455): A host write resolves a record as TRET.skip. -/
  | tresolveSkip (fn : Nat) (token : Nat)
  /-- TRESOLVE_KILL (R455): A host write resolves a record as TRET.kill. -/
  | tresolveKill (fn : Nat) (token : Nat)
  /-- TRESOLVE_DECLINE (R455): A host write declines a record as TRFLT. -/
  | tresolveDecline (fn : Nat) (token : Nat)
  /-- ROOTDESC (R458): A host write creates the partition's root context from a descriptor. -/
  | rootdesc (fn : Nat) (addr : Nat)
  /-- ROOTFA (R455): A host write sets a root frame-array entry, with a sweep numbered by the host counter. -/
  | rootfa (fn : Nat) (index : Nat) (entry : W64)
  /-- HOST_REGISTER_WRITE (R455): A host write to a window register without behaviour of its own, such as MBOXBASE. -/
  | hostRegisterWrite (fn : Nat) (off : Nat) (value : Nat)
  /-- SPIN_PARK_REGISTRATION (R39): A spin-park registration arrives at its coherence point, which records the chain and sends the wake at once if the sector was already stamped with an unseen wts. -/
  | spinParkRegistration (msg : Nat)
  /-- PUBLICATION_FREEZE (R144): A PUBLISH freeze reaches a home, which puts the sector in state Z and returns its rts for R_max. -/
  | publicationFreeze (msg : Nat)
  /-- PUBLICATION_WRITE (R144): A published U sector reaches its home, merges by byte mask, is stamped tp, leaves Z and releases the held loads. -/
  | publicationWrite (msg : Nat)
  /-- PORT_TOKEN_REFILL (R280): In each fc the cluster-cache port refills every bucket and deposit and serves or lends the waiting beats slot by slot. -/
  | portTokenRefill (cluster : Nat) (dir : Bool) (beats : List (Nat × Nat))
  /-- ACCUMULATOR_TRANSFER_COMPLETE (R335): An AREAD or AWRITE completes at its last line landing or arrival, or an AZERO at q + 16, releasing its easements and its group count. -/
  | accumulatorTransferComplete (core : Nat)
  /-- HCLR_HPCT_SFOLD_COMPLETION (R343): An HCLR, an HPCT or an SFOLD completes at q + 4, at q + 18 or when the fold's result returns, writing its result and letting the next queued command start. -/
  | hclrHpctSfoldCompletion (core : Nat)
  /-- CXL_LANE_FAILURE (R453): A host port whose lanes fail retrains at a lower rate or at x8. -/
  | cxlLaneFailure (port : Nat) (lanes : Nat) (rate : Nat)
  /-- POD_FORMATION (R463): The Uzosa controllers number the modules, load the routing tables and name the designated module. -/
  | podFormation (module : Nat) (designated : Nat) (routes : List (Nat × Nat))
  /-- FUNCTION_ASSIGNMENT (R455): The Uzosa controller assigns a CXL function to a partition. -/
  | functionAssignment (fn : Nat) (part : Nat)
deriving DecidableEq, Repr, Inhabited

end Sys2Proof
end

