-- ==== Sys2Proof/Config.lean ====
section
/-!
DEFINITION. What a part or its surroundings fix and the spec leaves open: opaque constants, so that no proof can see
their values (log entries 2, 3, 7, 8, 9), and the fixed sizes of the architecture.
-/
namespace Sys2Proof

/-- What moves next: a core's issue slot, or an event (log entry 3). -/
inductive Turn where
  | core (c : Nat)
  | event (i : Instr)
deriving DecidableEq, Repr, Inhabited

namespace Config

/-- Which agent moves at the n-th free choice (log entry 3). -/
opaque schedule : Nat → Turn

/-- The part is of grade FGD-7680 (R2); otherwise FGD-8192 (log entry 8). -/
opaque grade7680 : Bool

/-- Sites that the part's fuses name, of which an FGD-7680 disables eight (`disabledSites`), and cores that failed test, by
core key (R2, R51; log entry 8). -/
opaque fusedSites : List Nat
opaque failedCores : List Nat

/-- Stamps of a sector filled from HBM before the slice's fill floor is applied (log entry 7). -/
opaque fillStamp : Nat → Nat

/-- SHA-512 and Ed25519 of R470, whose results this model does not compute (log entry 9). -/
opaque sha512 : List Byte → List Byte
opaque edVerify : List Byte → List Byte → Bool
opaque edSign : List Byte → List Byte

/-- Whether a peer-aperture window permits remote atomics: R243 asks for the permit, R444's word has no bit for it. -/
opaque aperturePermit : Bool

/-- Slots that a message lost to others of its class on the way (R25), by its identifier (log entry 86). -/
opaque lostSlots : Nat → Nat

/-- The order in which a multi-writer race is resolved is the schedule's; the nth fresh free number of other kinds
(log entry 3). -/
opaque freeNat : Nat → Nat

end Config
end Sys2Proof
end

