-- ==== Sys2Proof/Machine/Floats.lean ====
section
/-!
DEFINITION. IEEE formats (R94), exact values, rounding (R104), flags (R96, R104, R105) and the arithmetic of
R97, R99 and R205. Every operation computes its exact result (an integer times a power of two, with a sticky bit
where the result is irrational or a quotient) and rounds it once.
-/
namespace Sys2Proof.Machine

namespace Flag
def nv : Flags := 1
def dz : Flags := 2
def ovf : Flags := 4
def unf : Flags := 8
def nx : Flags := 16
def sat : Flags := 32
end Flag

/-- An IEEE binary interchange format: exponent and fraction widths (R94). -/
structure FFmt where
  ebits : Nat
  fbits : Nat
deriving DecidableEq, Repr, Inhabited

namespace FFmt
def f16 : FFmt := ⟨5, 10⟩
def bf16 : FFmt := ⟨8, 7⟩
def f32 : FFmt := ⟨8, 23⟩
def f64 : FFmt := ⟨11, 52⟩

def width (f : FFmt) : Nat := 1 + f.ebits + f.fbits
def bias (f : FFmt) : Nat := 2 ^ (f.ebits - 1) - 1
def emaxField (f : FFmt) : Nat := 2 ^ f.ebits - 1
/-- Exponent of the smallest normal number. -/
def emin (f : FFmt) : Int := 1 - (f.bias : Int)
/-- Exponent of the unit of the subnormal grid. -/
def qmin (f : FFmt) : Int := f.emin - f.fbits
def infBits (f : FFmt) : Nat := f.emaxField * 2 ^ f.fbits
def maxBits (f : FFmt) : Nat := f.infBits - 1
def signBit (f : FFmt) : Nat := 2 ^ (f.width - 1)
/-- `canon_nan` of R111: the canonical quiet NaN of R94. -/
def canonNan (f : FFmt) : Nat := f.infBits + 2 ^ (f.fbits - 1)
end FFmt

/-- An exact value: NaN, an infinity, or (-1)^neg * m * 2^e (m = 0 is a signed zero). -/
inductive FVal where
  | nan (signalling : Bool)
  | inf (neg : Bool)
  | num (neg : Bool) (m : Nat) (e : Int)
deriving DecidableEq, Repr, Inhabited

namespace FVal
def isNan : FVal → Bool
  | nan _ => true
  | _ => false
def isSnan : FVal → Bool
  | nan b => b
  | _ => false
def isInf : FVal → Bool
  | inf _ => true
  | _ => false
def isZero : FVal → Bool
  | num _ 0 _ => true
  | _ => false
/-- `sign_bit` of R111. -/
def neg : FVal → Bool
  | nan _ => false
  | inf s => s
  | num s _ _ => s
def negate : FVal → FVal
  | nan b => nan b
  | inf s => inf (!s)
  | num s m e => num (!s) m e
def abs : FVal → FVal
  | nan b => nan b
  | inf _ => inf false
  | num _ m e => num false m e
def zero (s : Bool) : FVal := num s 0 0
/-- The value of an integer. -/
def ofInt (n : Int) : FVal := num (decide (n < 0)) n.natAbs 0
end FVal

/-- `decode` of R111 for an IEEE format (R94). -/
def fdecode (f : FFmt) (x : Nat) : FVal :=
  let s := bit x (f.width - 1)
  let e := bits x (f.width - 2) f.fbits
  let fr := x % 2 ^ f.fbits
  if e = f.emaxField then
    (if fr = 0 then .inf s else .nan (!(bit fr (f.fbits - 1))))
  else if e = 0 then .num s fr f.qmin
  else .num s (2 ^ f.fbits + fr) (f.qmin + (e - 1 : Nat))

/-- A rounding result: the bits and the flags raised. -/
abbrev Rounded := Nat × Flags

/-- Whether a magnitude r + rem/den (+ a sticky amount) rounds away from r in a mode of R104. -/
def roundsUp (mode : Nat) (neg : Bool) (r rem den : Nat) (sticky : Bool) : Bool :=
  let inexact := rem ≠ 0 || sticky
  match mode with
  | 0 => decide (den < 2 * rem) || (decide (2 * rem = den) && (sticky || decide (r % 2 = 1)))
  | 1 => false
  | 2 => neg && inexact
  | 3 => (!neg) && inexact
  | _ => decide (den ≤ 2 * rem) && inexact

/-- Rounds m * 2^e (+ sticky) to a multiple of 2^q: the multiple, and whether it is inexact. -/
def roundAt (mode : Nat) (neg : Bool) (m : Nat) (e q : Int) (sticky : Bool) : Nat × Bool :=
  if q ≤ e then
    let r := m * 2 ^ (e - q).toNat
    (if roundsUp mode neg r 0 1 sticky then r + 1 else r, sticky)
  else
    let den := 2 ^ (q - e).toNat
    let r := m / den
    let rem := m % den
    (if roundsUp mode neg r rem den sticky then r + 1 else r, rem ≠ 0 || sticky)

/-- The overflow result of R104's table. -/
def overflowBits (f : FFmt) (mode : Nat) (neg : Bool) : Nat :=
  match mode, neg with
  | 1, _ => f.maxBits
  | 2, false => f.maxBits
  | 3, true => f.maxBits
  | _, _ => f.infBits

/-- `round_fp` (R111) of a nonzero magnitude under R104, with its flags. Tininess is detected after rounding (R96). -/
def roundMag (f : FFmt) (mode : Nat) (neg : Bool) (m : Nat) (e : Int) (sticky : Bool) : Rounded :=
  let s := if neg then f.signBit else 0
  let top : Int := e + (log2N m : Nat)
  let qn : Int := top - f.fbits
  let q : Int := if qn < f.qmin then f.qmin else qn
  let (r, inexact) := roundAt mode neg m e q sticky
  let enc : Int := (q - f.qmin) * (2 ^ f.fbits : Nat) + (r : Int)
  if (f.infBits : Int) ≤ enc then (s + overflowBits f mode neg, Flag.ovf ||| Flag.nx)
  else
    let tiny : Bool := decide (top < f.emin) &&
      decide ((roundAt mode neg m e qn sticky).1 < 2 ^ (f.emin - qn).toNat)
    (s + enc.toNat,
      (if inexact then Flag.nx else 0) ||| (if tiny && inexact then Flag.unf else 0))

/-- The rounding of an exact integer times a power of two; zero takes the given sign. -/
def roundInt2 (f : FFmt) (mode : Nat) (n : Int) (e : Int) (zeroNeg : Bool) : Rounded :=
  if n = 0 then (if zeroNeg then f.signBit else 0, 0)
  else roundMag f mode (decide (n < 0)) n.natAbs e false

/-- `encode` of R111 for an IEEE destination: exact value to bits, one rounding (R108). -/
def fencode (f : FFmt) (mode : Nat) : FVal → Rounded
  | .nan sg => (f.canonNan, if sg then Flag.nv else 0)
  | .inf s => ((if s then f.signBit else 0) + f.infBits, 0)
  | .num s m e => if m = 0 then (if s then f.signBit else 0, 0) else roundMag f mode s m e false

/-- The signed numerator of a finite value at exponent q (q at most its own exponent). -/
def scaledInt (s : Bool) (m : Nat) (e q : Int) : Int :=
  let v : Int := (m * 2 ^ (e - q).toNat : Nat)
  if s then -v else v

/-- The exact sum of a list of finite values as n * 2^e. -/
def exactSum (vs : List (Bool × Nat × Int)) : Int × Int :=
  let q := vs.foldl (fun a v => if v.2.2 < a then v.2.2 else a) (match vs with | [] => 0 | v :: _ => v.2.2)
  (vs.foldl (fun a v => a + scaledInt v.1 v.2.1 v.2.2 q) 0, q)

/-- The finite parts of a list of values; none when one is not finite. -/
def finites : List FVal → Option (List (Bool × Nat × Int))
  | [] => some []
  | .num s m e :: r => (finites r).map (fun l => (s, m, e) :: l)
  | _ :: _ => none

/-- The sign of an exact zero sum (R97): the common sign when every term is a zero of one sign, else negative only in
round down. -/
def zeroSumNeg (mode : Nat) (vs : List FVal) : Bool :=
  if vs.all (fun v => v.isZero && v.neg) then true
  else if vs.all (fun v => v.isZero && !v.neg) then false
  else mode = 2

/-- A sum of exact terms rounded once (R97): NaN terms give the canonical NaN, opposite infinities NV. -/
def sumRound (f : FFmt) (mode : Nat) (vs : List FVal) : Rounded :=
  if vs.any (·.isNan) then (f.canonNan, if vs.any (·.isSnan) then Flag.nv else 0)
  else if vs.any (fun v => v.isInf && v.neg) && vs.any (fun v => v.isInf && !v.neg) then (f.canonNan, Flag.nv)
  else if vs.any (·.isInf) then
    ((if vs.any (fun v => v.isInf && v.neg) then f.signBit else 0) + f.infBits, 0)
  else
    match finites vs with
    | some fs => let (n, e) := exactSum fs
                 roundInt2 f mode n e (zeroSumNeg mode vs)
    | none => (f.canonNan, 0)

/-- The exact product of two values; infinity times zero is a NaN that raises NV (the second part). -/
def exactMul (a b : FVal) : FVal × Flags :=
  match a, b with
  | .nan x, .nan y => (.nan false, if x || y then Flag.nv else 0)
  | .nan x, _ => (.nan false, if x then Flag.nv else 0)
  | _, .nan y => (.nan false, if y then Flag.nv else 0)
  | .inf s, .inf t => (.inf (s != t), 0)
  | .inf s, .num t m _ => if m = 0 then (.nan false, Flag.nv) else (.inf (s != t), 0)
  | .num t m _, .inf s => if m = 0 then (.nan false, Flag.nv) else (.inf (s != t), 0)
  | .num s m e, .num t n g => (.num (s != t) (m * n) (e + g), 0)

/-- FADD, FSUB: the rounded sum (R202). -/
def fadd (f : FFmt) (mode : Nat) (a b : FVal) : Rounded := sumRound f mode [a, b]

/-- FMUL: the rounded product (R202). -/
def fmul (f : FFmt) (mode : Nat) (a b : FVal) : Rounded :=
  let (p, fl) := exactMul a b
  let (r, fl2) := fencode f mode p
  (r, fl ||| fl2)

/-- FFMA: a * b + c with one rounding; NV on infinity times zero even when c is a quiet NaN (R202). -/
def ffma (f : FFmt) (mode : Nat) (a b c : FVal) : Rounded :=
  let (p, fl) := exactMul a b
  let (r, fl2) := sumRound f mode [p, c]
  (r, fl ||| fl2)

/-- IEEE 754 division rounded once (R205). -/
def fdiv (f : FFmt) (mode : Nat) (a b : FVal) : Rounded :=
  match a, b with
  | .nan x, y => (f.canonNan, if x || y.isSnan then Flag.nv else 0)
  | _, .nan y => (f.canonNan, if y then Flag.nv else 0)
  | .inf _, .inf _ => (f.canonNan, Flag.nv)
  | .inf s, .num t _ _ => ((if s != t then f.signBit else 0) + f.infBits, 0)
  | .num s _ _, .inf t => (if s != t then f.signBit else 0, 0)
  | .num s m e, .num t n g =>
    let sg := s != t
    let sb := if sg then f.signBit else 0
    if n = 0 then
      (if m = 0 then (f.canonNan, Flag.nv) else (sb + f.infBits, Flag.dz))
    else if m = 0 then (sb, 0)
    else
      let k := f.fbits + 4 + log2N n
      let q := (m * 2 ^ k) / n
      roundMag f mode sg q (e - g - k) (decide ((m * 2 ^ k) % n ≠ 0))

/-- Floor of the square root, by a search on n bits. -/
def isqrt (x : Nat) : Nat := bitSearch (fun r => r * r ≤ x) (log2N x / 2 + 1) 0

/-- FSQRT (R205). -/
def fsqrt (f : FFmt) (mode : Nat) : FVal → Rounded
  | .nan sg => (f.canonNan, if sg then Flag.nv else 0)
  | .inf s => if s then (f.canonNan, Flag.nv) else (f.infBits, 0)
  | .num s m e =>
    if m = 0 then (if s then f.signBit else 0, 0)
    else if s then (f.canonNan, Flag.nv)
    else
      let od : Int := e % 2
      let k := f.fbits + 4
      let x := m * 2 ^ (od.toNat + 2 * k)
      let r := isqrt x
      roundMag f mode false r ((e - od) / 2 - k) (decide (r * r ≠ x))

/-- FRSQ: 1 / sqrt(a) (R205). -/
def frsq (f : FFmt) (mode : Nat) : FVal → Rounded
  | .nan sg => (f.canonNan, if sg then Flag.nv else 0)
  | .inf s => if s then (f.canonNan, Flag.nv) else (0, 0)
  | .num s m e =>
    if m = 0 then ((if s then f.signBit else 0) + f.infBits, Flag.dz)
    else if s then (f.canonNan, Flag.nv)
    else
      let od : Int := e % 2
      let m' := m * 2 ^ od.toNat
      let k := f.fbits + 4 + log2N m'
      let r := isqrt (2 ^ (2 * k) / m')
      roundMag f mode false r (-((e - od) / 2) - k) (decide (r * r * m' ≠ 2 ^ (2 * k)))

/-- FRCP: 1 / a (R205). -/
def frcp (f : FFmt) (mode : Nat) (a : FVal) : Rounded := fdiv f mode (.num false 1 0) a

/-- Lower and upper bounds of 2^(p / 2^q) in units of 2^-n: the product of the square roots that p's bits select. -/
def exp2Bounds (p n : Nat) : Nat → Nat × Nat → Nat × Nat → Nat × Nat
  | 0, _, acc => acc
  | q + 1, r, acc =>
    let lo := isqrt (r.1 * 2 ^ n)
    let hi := isqrt (r.2 * 2 ^ n) + 1
    exp2Bounds p n q (lo, hi)
      (if bit p q then (acc.1 * lo / 2 ^ n, acc.2 * hi / 2 ^ n + 1) else acc)

/-- floor(2^(p / 2^q) * 2^t) for 0 < p < 2^q: from bounds of n bits when they agree (the value is below 2), else by
exact comparison of T^(2^q) with 2^(p + t * 2^q). -/
def exp2Floor (p q t : Nat) : Nat :=
  let n := 2 * t + 80
  let b := exp2Bounds p n q (2 ^ (n + 1), 2 ^ (n + 1)) (2 ^ n, 2 ^ n)
  let lo := b.1 / 2 ^ (n - t)
  let hi := min (b.2 / 2 ^ (n - t)) (2 ^ (t + 1) - 1)
  if lo = hi then lo
  else bitSearch (fun x => decide (x ^ (2 ^ q) ≤ 2 ^ (p + t * 2 ^ q))) (t + 1) 0

/-- FEXP2: 2^a rounded once (R205). A non-integer a gives an irrational result, so the sticky bit is set. -/
def fexp2 (f : FFmt) (mode : Nat) : FVal → Rounded
  | .nan sg => (f.canonNan, if sg then Flag.nv else 0)
  | .inf s => if s then (0, 0) else (f.infBits, 0)
  | .num s m e =>
    let big : Int := 2 * (f.bias : Int) + 2 * f.fbits + 8
    if m = 0 then (f.bias * 2 ^ f.fbits, 0)
    else if (f.ebits + 4 : Int) + 1 ≤ e + (log2N m : Nat) then
      (if s then roundMag f mode false 1 (-big) true else roundMag f mode false 1 big false)
    else
      let n := scaledInt s m e (if e < 0 then e else 0)
      let q := if e < 0 then (-e).toNat else 0
      let i := n / (2 ^ q : Nat)
      let p := (n % (2 ^ q : Nat)).toNat
      if p = 0 then roundMag f mode false 1 i false
      else roundMag f mode false (exp2Floor p q (f.fbits + 2)) (i - (f.fbits + 2 : Nat)) true

/-- The first t bits of log2 x for 1 <= x < 2 known within lo and hi in units of 2^-n: squaring gives a bit a step;
none when the bounds do not decide a bit. -/
def log2Bits (n : Nat) : Nat → Nat → Nat → Nat → Option Nat
  | 0, _, _, g => some g
  | t + 1, lo, hi, g =>
    let lo2 := lo * lo / 2 ^ n
    let hi2 := hi * hi / 2 ^ n + 1
    if 2 ^ (n + 1) ≤ lo2 then log2Bits n t (lo2 / 2) (hi2 / 2 + 1) (2 * g + 1)
    else if hi2 < 2 ^ (n + 1) then log2Bits n t lo2 hi2 (2 * g)
    else none

/-- The largest G below 2^t with 2^(G + k * 2^t) <= m^(2^t): the first t fraction bits of log2 m for 2^k <= m < 2^(k+1). -/
def log2Frac (m k t : Nat) : Nat :=
  let n := 2 * t + 80
  let x := m * 2 ^ n / 2 ^ k
  match log2Bits n t x (if x * 2 ^ k = m * 2 ^ n then x else x + 1) 0 with
  | some g => g
  | none => bitSearch (fun g => decide (2 ^ (g + k * 2 ^ t) ≤ m ^ (2 ^ t))) t 0

/-- FLOG2: log2 a rounded once (R205). An argument that is no power of two gives an irrational result. -/
def flog2 (f : FFmt) (mode : Nat) : FVal → Rounded
  | .nan sg => (f.canonNan, if sg then Flag.nv else 0)
  | .inf s => if s then (f.canonNan, Flag.nv) else (f.infBits, 0)
  | .num s m e =>
    if m = 0 then (f.signBit + f.infBits, Flag.dz)
    else if s then (f.canonNan, Flag.nv)
    else
      let k := log2N m
      let i : Int := e + (k : Nat)
      if m = 2 ^ k then fencode f mode (.ofInt i)
      else
        let t := 2 * f.fbits + 6
        let fl : Int := i * (2 ^ t : Nat) + (log2Frac m k t : Nat)
        if 0 ≤ fl then roundMag f mode false fl.toNat (-(t : Int)) true
        else roundMag f mode true (-(fl + 1)).toNat (-(t : Int)) true

/-- The order of two values that are not NaN: compares a with b (R204: +0 and -0 are equal). -/
def fcompare (a b : FVal) : Ordering :=
  match a, b with
  | .inf s, .inf t => if s = t then .eq else if s then .lt else .gt
  | .inf s, _ => if s then .lt else .gt
  | _, .inf t => if t then .gt else .lt
  | .num s m e, .num t n g =>
    let q := if e < g then e else g
    compare (scaledInt s m e q) (scaledInt t n g q)
  | _, _ => .eq

/-- Whether a is the smaller operand, taking -0 below +0 (R203). -/
def fless (a b : FVal) : Bool :=
  match fcompare a b with
  | .lt => true
  | .gt => false
  | .eq => a.isZero && a.neg && b.isZero && !b.neg

/-- FMIN and FMAX (R203): the number rule, or the propagating rule with nanRule. The result is an operand's pattern. -/
def fminmax (f : FFmt) (isMax nanRule : Bool) (abits bbits : Nat) : Rounded :=
  let a := fdecode f abits
  let b := fdecode f bbits
  let fl : Flags := if a.isSnan || b.isSnan then Flag.nv else 0
  if a.isNan && b.isNan then (f.canonNan, fl)
  else if a.isNan || b.isNan then
    (if nanRule then f.canonNan else if a.isNan then bbits else abits, fl)
  else if isMax then (if fless a b then bbits else abits, fl)
  else (if fless b a then bbits else abits, fl)

/-- `round_int` of R111 on a finite value times 2^k: the integer and whether it is inexact. -/
def roundIntF (mode : Nat) (s : Bool) (m : Nat) (e : Int) : Int × Bool :=
  let (r, ix) := roundAt mode s m e 0 false
  (if s then -(r : Int) else r, ix)

/-- A value converted to a w-bit integer (R108): NaN gives 0 and NV, out of range the nearest end and SAT only. -/
def ftoInt (mode w : Nat) (signed : Bool) : FVal → Int × Flags
  | .nan _ => (0, Flag.nv)
  | .inf s => (if s then loOf w signed else hiOf w signed, Flag.sat)
  | .num s m e =>
    let (r, ix) := roundIntF mode s m e
    if r < loOf w signed then (loOf w signed, Flag.sat)
    else if hiOf w signed < r then (hiOf w signed, Flag.sat)
    else (r, if ix then Flag.nx else 0)

/-- `sat_int` of R111. -/
def satInt (x : Int) (w : Nat) (signed : Bool) : Int × Flags :=
  if x < loOf w signed then (loOf w signed, Flag.sat)
  else if hiOf w signed < x then (hiOf w signed, Flag.sat)
  else (x, 0)

/-- `cplx_mul` of R99: each part from the exact products with one rounding. -/
def cplxMul (f : FFmt) (mode : Nat) (ar ai br bi : FVal) : (Nat × Nat) × Flags :=
  let (p1, f1) := exactMul ar br
  let (p2, f2) := exactMul ai bi
  let (p3, f3) := exactMul ar bi
  let (p4, f4) := exactMul ai br
  let (re, g1) := sumRound f mode [p1, p2.negate]
  let (im, g2) := sumRound f mode [p3, p4]
  ((re, im), f1 ||| f2 ||| f3 ||| f4 ||| g1 ||| g2)

/-- `block_accumulate` of R110: 16 exact products and the accumulator, summed exactly and rounded once. -/
def blockAccumulate (mode : Nat) (acc : Nat) (a b : List FVal) : Rounded :=
  let av := fdecode .f32 acc
  if av.isNan || a.any (·.isNan) || b.any (·.isNan) then
    (FFmt.f32.canonNan, if av.isSnan || a.any (·.isSnan) || b.any (·.isSnan) then Flag.nv else 0)
  else
    let ps := (a.zip b).map (fun (x, y) => exactMul x y)
    let (r, fl) := sumRound .f32 mode (av :: ps.map (·.1))
    (r, ps.foldl (fun g p => g ||| p.2) fl)

/-- The class mask of FCLASS (R206), 10 bits. -/
def fclass (f : FFmt) (x : Nat) : Nat :=
  match fdecode f x with
  | .nan true => 2 ^ 8
  | .nan false => 2 ^ 9
  | .inf false => 2 ^ 7
  | .inf true => 1
  | .num s m _ =>
    if m = 0 then (if s then 2 ^ 3 else 2 ^ 4)
    else if m < 2 ^ f.fbits then (if s then 2 ^ 2 else 2 ^ 5)
    else (if s then 2 ^ 1 else 2 ^ 6)

end Sys2Proof.Machine
end

