-- ==== Sys2Proof/Machine/Formats.lean ====
section
/-!
DEFINITION. Element formats of typed pointers (R113), the shared-exponent blocks (R100 to R103), the register forms
of loads and stores (R227) and the conversions of R108.
-/
namespace Sys2Proof.Machine

/-- A value between memory and registers: a bit pattern, an integer, a real or a complex value. -/
inductive EVal where
  | raw (x : Nat)
  | int (x : Int)
  | flt (x : FVal)
  | cplx (re im : FVal)
deriving DecidableEq, Repr, Inhabited

namespace Fmt
/-- The access unit in bytes (R113); raw takes the register width, given by dw. -/
def size (fmt : Nat) (dw : Bool) : Nat :=
  match fmt with
  | 0 => if dw then 8 else 4
  | 1 => 1 | 2 => 1 | 3 => 2 | 4 => 4 | 5 => 4 | 6 => 8 | 7 => 2 | 8 => 2 | 9 => 4 | 10 => 8
  | 11 => 18 | 12 => 12 | 13 => 8 | 14 => 4 | 15 => 8
  | _ => 1
def isBS (fmt : Nat) : Bool := fmt = 11 || fmt = 12 || fmt = 13
/-- Magnitude width m of a BS format (R100). -/
def bsM (fmt : Nat) : Nat := if fmt = 11 then 7 else if fmt = 12 then 4 else 2
def isInt (fmt : Nat) : Bool := 1 ≤ fmt && fmt ≤ 6
def isCplx (fmt : Nat) : Bool := fmt = 14 || fmt = 15
def isFlt (fmt : Nat) : Bool := 7 ≤ fmt && fmt ≤ 10
def intWidth (fmt : Nat) : Nat := match fmt with | 1 => 8 | 2 => 8 | 3 => 16 | 4 => 32 | 5 => 32 | _ => 64
def intSigned (fmt : Nat) : Bool := !(fmt = 2 || fmt = 5)
def ffmt (fmt : Nat) : FFmt := match fmt with | 7 => .f16 | 8 => .bf16 | 9 => .f32 | _ => .f64
end Fmt

/-! ## Shared-exponent blocks -/

/-- Field positions of R101. -/
def bsElem (m blk i : Nat) : Nat := bits blk (16 + (m + 1) * i + m) (16 + (m + 1) * i)
def bsShift (blk k : Nat) : Nat := bits blk (9 + 2 * k) (8 + 2 * k)

/-- Element i of a block (R102): E = 0xFF makes every element a (quiet) NaN. -/
def bsDecode1 (m blk i : Nat) : FVal :=
  let e := blk % 256
  if e = 255 then .nan false
  else
    let x := bsElem m blk i
    .num (bit x m) (x % 2 ^ m) ((e : Int) - 127 - ((m : Int) - 1) - (bsShift blk (i / 4) : Nat))

/-- The 16 elements of a block. -/
def bsDecode (m blk : Nat) : List FVal := (List.range 16).map (bsDecode1 m blk)

/-- Whether |round_int(v * 2^k)| is below 2^m. -/
def bsFits (mode m : Nat) (k : Int) : FVal → Bool
  | .num s mm e => decide ((roundIntF mode s mm (e + k)).1.natAbs < 2 ^ m)
  | _ => false

/-- The larger of two magnitudes. -/
def fmaxAbs (a b : FVal) : FVal := if fless a.abs b.abs then b.abs else a.abs

/-- One element of `bs_encode_block`: its field and flags. -/
def bsEncode1 (mode m : Nat) (k : Int) (v : FVal) : Nat × Flags :=
  let sg := if v.neg then 2 ^ m else 0
  match v with
  | .num s mm e =>
    let (q, ix) := roundIntF mode s mm (e + k)
    if 2 ^ m - 1 < q.natAbs then (sg + (2 ^ m - 1), Flag.sat)
    else (sg + q.natAbs, if ix then Flag.nx else 0)
  | _ => (sg + (2 ^ m - 1), Flag.sat)

/-- Element i of a list of values; missing elements stand as +0 (R103). -/
def nth (vs : List FVal) (i : Nat) : FVal := (vs[i]?).getD (FVal.zero false)

/-- The shared exponent of `bs_encode_block`. -/
def bsExponent (mode m : Nat) (vs : List FVal) : Nat :=
  let a := vs.foldl fmaxAbs (FVal.zero false)
  let e0 : Nat := match a with
    | .num _ 0 _ => 0
    | .num _ mm e => let x : Int := e + (log2N mm : Nat) + 127
                     if x < 0 then 0 else if 254 < x then 254 else x.toNat
    | _ => 254
  if e0 < 254 && !(vs.all (bsFits mode m ((m : Int) - 1 + 127 - e0))) then e0 + 1 else e0

/-- The shift of one quad: the largest that fits, 0 for a quad of zeros or when none does. -/
def bsQuad (mode m e : Nat) (q : List FVal) : Nat :=
  let fits (s : Nat) := q.all (bsFits mode m ((m : Int) - 1 + (s : Nat) + 127 - e))
  if q.all (·.isZero) then 0 else if fits 3 then 3 else if fits 2 then 2 else if fits 1 then 1 else 0

/-- `bs_encode_block` of R103: the block as a number, with its flags. -/
def bsEncode (m : Nat) (vs : List FVal) (mode : Nat) : Nat × Flags :=
  let v16 := (List.range 16).map (nth vs)
  if v16.any (·.isNan) then (255, if v16.any (·.isSnan) then Flag.nv else 0)
  else
    let e := bsExponent mode m v16
    let d (k : Nat) := bsQuad mode m e ((v16.drop (4 * k)).take 4)
    let ds := (List.range 4).map d
    let shifts := (List.range 4).foldl (fun a k => a + ((ds[k]?).getD 0) * 2 ^ (2 * k)) 0
    (List.range 16).foldl
      (fun (acc : Nat × Flags) i =>
        let k : Int := (m : Int) - 1 + (((ds[i / 4]?).getD 0 : Nat) : Int) + 127 - e
        let (x, fl) := bsEncode1 mode m k (nth v16 i)
        (acc.1 + x * 2 ^ (16 + (m + 1) * i), acc.2 ||| fl))
      (e + 256 * shifts, 0)

/-! ## Elements of the other formats -/

/-- `decode` of R111 for formats other than BS. -/
def edecode (fmt x : Nat) : EVal :=
  if fmt = 0 then .raw x
  else if Fmt.isInt fmt then
    .int (if Fmt.intSigned fmt then sextN x (Fmt.intWidth fmt) else ((x % 2 ^ Fmt.intWidth fmt : Nat) : Int))
  else if fmt = 14 then .cplx (fdecode .bf16 (x % 2 ^ 16)) (fdecode .bf16 (x / 2 ^ 16 % 2 ^ 16))
  else if fmt = 15 then .cplx (fdecode .f32 (x % 2 ^ 32)) (fdecode .f32 (x / 2 ^ 32 % 2 ^ 32))
  else .flt (fdecode (Fmt.ffmt fmt) x)

/-- An integer value into a w-bit destination: `wrap_int` or `sat_int` (R108). A change of signedness at one width saturates as a
narrowing does (DESIGN CHOICE, log entry 94). -/
def intTo (wrap : Bool) (w : Nat) (signed : Bool) (x : Int) : Nat × Flags :=
  if wrap then (wrapN x w, 0)
  else let (y, fl) := satInt x w signed
       (wrapN y w, fl)

/-- A complex pair rounded part by part. -/
def cplxTo (f : FFmt) (mode : Nat) (re im : FVal) : Nat × Flags :=
  let (r, f1) := fencode f mode re
  let (i, f2) := fencode f mode im
  (r + i * 2 ^ f.width, f1 ||| f2)

/-- `encode` of R111 for formats other than BS, by the rules of R108; none where R108 provides no conversion. -/
def eencode (fmt mode : Nat) (wrap : Bool) (v : EVal) : Option (Nat × Flags) :=
  match v with
  | .raw x => if fmt = 0 then some (x, 0) else none
  | .int x =>
    if fmt = 0 then none
    else if Fmt.isInt fmt then some (intTo wrap (Fmt.intWidth fmt) (Fmt.intSigned fmt) x)
    else if fmt = 14 then some (cplxTo .bf16 mode (.ofInt x) (FVal.zero false))
    else if fmt = 15 then some (cplxTo .f32 mode (.ofInt x) (FVal.zero false))
    else if Fmt.isFlt fmt then some (fencode (Fmt.ffmt fmt) mode (.ofInt x))
    else none
  | .flt x =>
    if fmt = 0 then none
    else if Fmt.isInt fmt then
      (let (y, fl) := ftoInt mode (Fmt.intWidth fmt) (Fmt.intSigned fmt) x
       some (wrapN y (Fmt.intWidth fmt), fl))
    else if fmt = 14 then some (cplxTo .bf16 mode x (FVal.zero false))
    else if fmt = 15 then some (cplxTo .f32 mode x (FVal.zero false))
    else if Fmt.isFlt fmt then some (fencode (Fmt.ffmt fmt) mode x)
    else none
  | .cplx re im =>
    if fmt = 14 then some (cplxTo .bf16 mode re im)
    else if fmt = 15 then some (cplxTo .f32 mode re im)
    else none

/-- Whether R108 and R264 provide a conversion between two formats: raw only to raw, complex never to real. -/
def convertible (fs fd : Nat) : Bool :=
  fs = fd || (!(fs = 0) && !(fd = 0) && !(Fmt.isCplx fs && !Fmt.isCplx fd))

/-- An exact real part of a value, for encoding into BS. -/
def evalReal : EVal → FVal
  | .raw _ => FVal.zero false
  | .int x => .ofInt x
  | .flt x => x
  | .cplx re _ => re

/-! ## Register forms of loads and stores (R227) -/

/-- The type a register of a load or store holds. -/
inductive RForm where
  | b32 | b64 | i32 | i64 | ui32 | ui64 | f32 | f64 | cbf16 | cf32
deriving DecidableEq, Repr, Inhabited

/-- The table of R227; none is the combination marked "—". BS takes VC = 3 (R228). -/
def rform (fmt : Nat) (dw : Bool) : Option RForm :=
  match fmt, dw with
  | 0, false => some .b32 | 0, true => some .b64
  | 1, false => some .i32 | 3, false => some .i32 | 4, false => some .i32
  | 1, true => some .i64 | 3, true => some .i64 | 4, true => some .i64
  | 2, false => some .ui32 | 5, false => some .ui32
  | 2, true => some .ui64 | 5, true => some .ui64
  | 6, true => some .i64
  | 7, false => some .f32 | 8, false => some .f32 | 9, false => some .f32
  | 7, true => some .f64 | 8, true => some .f64 | 9, true => some .f64
  | 10, true => some .f64
  | 11, false => some .f32 | 12, false => some .f32 | 13, false => some .f32
  | 14, false => some .cbf16 | 14, true => some .cf32
  | 15, true => some .cf32
  | _, _ => none

/-- The value a register of a form holds. -/
def regVal (rf : RForm) (x : Nat) : EVal :=
  match rf with
  | .b32 => .raw (x % 2 ^ 32) | .b64 => .raw (x % 2 ^ 64)
  | .i32 => .int (sextN x 32) | .i64 => .int (sextN x 64)
  | .ui32 => .int ((x % 2 ^ 32 : Nat) : Int) | .ui64 => .int ((x % 2 ^ 64 : Nat) : Int)
  | .f32 => .flt (fdecode .f32 x) | .f64 => .flt (fdecode .f64 x)
  | .cbf16 => .cplx (fdecode .bf16 (x % 2 ^ 16)) (fdecode .bf16 (x / 2 ^ 16 % 2 ^ 16))
  | .cf32 => .cplx (fdecode .f32 (x % 2 ^ 32)) (fdecode .f32 (x / 2 ^ 32 % 2 ^ 32))

/-- A value put into a register form (widening loads are exact; R227). -/
def toReg (rf : RForm) (v : EVal) : Nat × Flags :=
  match rf, v with
  | .b32, .raw x => (x % 2 ^ 32, 0) | .b64, .raw x => (x % 2 ^ 64, 0)
  | .i32, .int x => (wrapN x 32, 0) | .i64, .int x => (wrapN x 64, 0)
  | .ui32, .int x => (wrapN x 32, 0) | .ui64, .int x => (wrapN x 64, 0)
  | .f32, .flt x => fencode .f32 0 x | .f64, .flt x => fencode .f64 0 x
  | .cbf16, .cplx re im => cplxTo .bf16 0 re im
  | .cf32, .cplx re im => cplxTo .f32 0 re im
  | _, _ => (0, 0)

/-- Whether the memory format equals the register form, so that patterns are copied (R95, R227). -/
def samePattern (fmt : Nat) (dw : Bool) : Bool :=
  fmt = 0 || (fmt = 4 && !dw) || (fmt = 5 && !dw) || (fmt = 6 && dw) || (fmt = 9 && !dw) || (fmt = 10 && dw) ||
    (fmt = 14 && !dw) || (fmt = 15 && dw)

/-- A memory unit into a register (R227): its register bits and flags. -/
def loadConv (fmt : Nat) (dw : Bool) (x : Nat) : Nat × Flags :=
  if samePattern fmt dw then (x, 0)
  else match rform fmt dw with
    | some rf => toReg rf (edecode fmt x)
    | none => (0, 0)

/-- A register into a memory unit (R227): round to nearest even, integers saturate. -/
def storeConv (fmt : Nat) (dw : Bool) (x : Nat) : Nat × Flags :=
  if samePattern fmt dw then (x % 2 ^ (8 * Fmt.size fmt dw), 0)
  else match rform fmt dw with
    | some rf => (eencode fmt 0 false (regVal rf x)).getD (0, 0)
    | none => (0, 0)

/-! ## Element conversion of the engines (R264) -/

/-- An integer format to a wider one: exact, extended by the source's signedness, with no flag (R108). -/
def widens (fs fd : Nat) : Bool := Fmt.isInt fs && Fmt.isInt fd && decide (Fmt.intWidth fs < Fmt.intWidth fd)

/-- One element from fs to fd, neither BS, by R108: decode and encode. -/
def convValue (fs fd mode : Nat) (wrap : Bool) (x : Nat) : Nat × Flags :=
  (eencode fd mode (wrap || widens fs fd) (edecode fs x)).getD (0, 0)

/-- One element of a copy (R264): a bit copy between equal formats, else a conversion. -/
def convElem (fs fd mode : Nat) (wrap : Bool) (x : Nat) : Nat × Flags :=
  if fs = fd then (x, 0) else convValue fs fd mode wrap x

end Sys2Proof.Machine
end

