-- ==== Sys2Proof/Machine/Records.lean ====
section
/-!
DEFINITION. The records the state is made of: chains, caches, messages, contexts, queues, surveys and trap records.
Keys: a compute core is site * 64 + cluster * 8 + core, a cluster site * 8 + cluster, a chain core * 16 + slot, a site
16 * y + x (R13). A sector key is tag * 2^51 + VA / 64 with tag = 2 * context or 2 * partition + 1 (R119); a line
key is a sector key / 4 (R122) and a page key is tag * 2^45 + VA / 4096.
-/
namespace Sys2Proof.Machine

/-! ## Chains -/

/-- One register of one lane, or a chain-uniform register, or the FPST flags (R44, R105). -/
inductive CellId where
  | g (r lane : Nat)
  | s (r : Nat)
  | k (r : Nat)
  | p (r lane : Nat)
  | fpst
deriving DecidableEq, Repr, Inhabited

/-- A register result on its way: the cycle it lands, the issue cycle of its lane group, its class's latency and its
instruction's sequence number (R67, R70, R71). -/
structure PendW where
  cell : CellId
  val : Nat
  land : Nat
  start : Nat
  lat : Nat
  seq : Nat
deriving DecidableEq, Repr, Inhabited

/-- A frontier entry (R31); `since` is the sequence number at which its next instruction first waited (R148). -/
structure Entry where
  prio : Nat
  pc : Nat
  rot : Bool
  lanes : Mask
  since : Option Nat := none
deriving DecidableEq, Repr, Inhabited

/-- Why lanes are parked (R157, R166, R167, R174 to R176, R182, R232, R275). -/
inductive ParkWhy where
  | trap (rid : Nat)
  | join
  | exitWait
  | barrier (obj a : Nat)
  | queue (op : Nat)
  | gacq (n d : Nat)
  | ring (op : Nat)
  | line
deriving DecidableEq, Repr, Inhabited

/-- Lanes parked together: why, the program counter they stand at, and their priority. -/
structure Parked where
  lanes : Mask
  why : ParkWhy
  pc : Nat
  prio : Nat
deriving DecidableEq, Repr, Inhabited

/-- One access unit of a load on its way: its lane (32 for a chain-uniform access), destination registers, format,
address, size, first element in a BS block, and the bytes gathered so far (R226 to R228). -/
structure LUnit where
  lane : Nat
  cells : List CellId
  fmt : Nat
  dw : Bool
  va : Nat
  size : Nat
  sub : Nat
  data : Nat
  /-- Sectors still awaited: their keys, and 1 for the sector after the first. -/
  keys : List (Nat × Nat)
deriving DecidableEq, Repr, Inhabited

/-- Results of class V that have not landed (R68): their registers, whether later accesses wait on them (R136, R140),
and for a load its units. -/
structure Out where
  seq : Nat
  cells : List CellId
  acq : Bool
  load : Bool
  units : List LUnit
  lanes : Mask
  pc : Nat
  /-- It was issued by the first frontier entry (R39). -/
  first : Bool := false
  /-- A load's units as it was issued. -/
  all : List LUnit := []
deriving DecidableEq, Repr, Inhabited

/-- A write not yet performed with its grant returned (R135): scope code, sector key. -/
structure WriteRec where
  id : Nat
  seq : Nat
  scope : Nat
  key : Nat
deriving DecidableEq, Repr, Inhabited

/-- The status that an engine group or stream keeps for a chain (R270, R309, R337, R359, R381): commands completed, two
further counts or words, flags, whether a histogram counter saturated, the largest stamp of completed commands. -/
structure Grp where
  ncmd : Nat := 0
  aux : Nat := 0
  aux2 : Nat := 0
  flags : Flags := 0
  hsat : Bool := false
  stamp : Nat := 0
  /-- The largest stamp of writes through pointers of die scope or wider (R151). -/
  top : Nat := 0
deriving DecidableEq, Repr, Inhabited

/-- A registered kernel (R87, R92, R403): the address of word 0 and the numbers of the image that later rules use. -/
structure Kern where
  base : Nat
  nwords : Nat
  it : List Nat
  role : Nat
  team : Nat
  parcel : Nat
  regs : Nat
  acc : Nat
  prio : Nat
  wbuf : Nat
  abuf : Nat
  cshr : Nat
  image : Nat
  ypath : Nat
deriving DecidableEq, Repr, Inhabited

/-- How a request uses memory: pointer class, scope, NT, and whether it is an engine's. -/
structure Acc where
  ctx : Nat
  core : Nat
  share : Nat
  scope : Nat
  nt : Bool := false
  eng : Bool := false
  /-- By the tile fetch unit, whose lines travel in class 3 (R16). -/
  tile : Bool := false
  tns : Bool := false
  fetch : Bool := false
  /-- Through a peer-aperture pointer (R464). -/
  win : Bool := false
  /-- Through a compressed-view pointer (R147). -/
  cv : Bool := false
deriving DecidableEq, Repr, Inhabited

/-- A renewal sequence of a chain (R39): a synchronising address, its sector, and the wts of the last lease renewal of it
by the first entry. -/
structure Spin where
  va : Nat
  key : Nat
  wts : Nat
deriving DecidableEq, Repr, Inhabited

/-- A load that spin-parked its chain, as it is issued again on waking (R39): its word, pointer, lanes and program
counter, and the units whose registers it writes. -/
structure SpinLoad where
  key : Nat
  since : Nat
  acc : Acc
  pc : Nat
  lanes : Mask
  units : List LUnit
  seq : Nat
deriving DecidableEq, Repr, Inhabited

/-- An instruction whose results one chain of a pair produced for both (R188): the numbers under which they come back, its
signature, its issue cycle and how many it took, the rotated flag it left, its results so far, the park of its lanes, and, once the
partner has taken it, the number of the partner's instruction. -/
structure Ahead where
  seqs : List Nat
  sig : Nat
  t0 : Nat
  n : Nat
  rot : Bool
  vals : List PendW
  why : Option ParkWhy
  took : Option Nat := none
deriving DecidableEq, Repr, Inhabited

/-- A resident chain (R157 and the scheduler's state of R35 to R39). -/
structure Chain where
  ctx : Nat := 0
  part : Nat := 0
  sid : Nat := 0
  pid : Nat := 0
  team : Nat := 0
  idx : Nat := 0
  kern : Kern := default
  g : Cells W32 := []
  s : Cells W32 := []
  k : Cells W128 := []
  p : Cells Bool := []
  frontier : List Entry := []
  parked : List Parked := []
  live : Mask := 0
  callStacks : Cells (List (Nat × Nat)) := []
  fpst : W32 := 0
  chksb : Bool := false
  cause : W32 := 0
  tpc : W32 := 0
  tval : W64 := 0
  lanecause : Cells Nat := []
  blocks : Nat := 0
  bars : Cells (Nat × Bool) := []
  pair : Option Nat := none
  shadow : Bool := false
  ncmp : Nat := 0
  /-- The signature and issue cycle of an instruction held for the partner of a pair (R189). -/
  held : Option (Nat × Nat) := none
  /-- What it has issued ahead of its partner, oldest first (R188). -/
  ahead : List Ahead := []
  pend : List PendW := []
  outs : List Out := []
  writes : List WriteRec := []
  /-- Lanes that pass into a record's sub-chain when their present park releases them (R182). -/
  latch : List (Nat × Mask) := []
  active : Bool := false
  started : Bool := false
  /-- First cycle at which the chain may issue again (R66). -/
  elig : Nat := 0
  lastIssue : Nat := 0
  activeSince : Nat := 0
  eligSince : Nat := 0
  /-- Its next instruction waits on a condition that swaps the chain out (R37). -/
  waiting : Bool := false
  /-- Its next instruction waits on an operand or an engine (R35). -/
  blocked : Bool := false
  spin : List Spin := []
  spinPark : Option SpinLoad := none
  /-- The sector whose next load renews, after a wake (R127). -/
  renew : Option Nat := none
  /-- Logical accumulators held and their physical slots (R318). -/
  accs : Tab Nat := []
  /-- wts + 1 of each lane's previous synchronising load of an address (R33), by lane * 2^57 + address. -/
  syncSeen : Cells Nat := []
  cpy : Cells Grp := []
  xfm : Cells Grp := []
  mat : Cells Grp := []
  qnt : Cells Grp := []
  ten : Cells Grp := []
  /-- Set once one of its lanes was ended by TRET.kill or a contained error (R400, R471). -/
  killed : Bool := false
  /-- The largest stamp of its writes through pointers of die scope or wider, of the epoch of the latest broadcast (R151). -/
  top : Nat := 0
  seq : Nat := 0
  /-- The child whose pre-emption a CXSTOP of this chain waits for (R435, R437). -/
  hold : Option Nat := none
deriving DecidableEq, Repr, Inhabited

/-! ## Caches and memory -/

/-- Sector states of R122. -/
inductive SSt where
  | I | L | LC | O | Q | U | F | X | Z
deriving DecidableEq, Repr, Inhabited

/-- A sector copy below the home: state, data, stamps, dirty, byte mask of U data (U data rides over the copy beneath),
the scope of the grant of an O copy (0 core, 1 cluster, 2 home), and for a cluster cache the core that owns it and the
cores whose tile fetch units pin it (R322). -/
structure Copy where
  st : SSt
  data : BitVec 512
  wts : Nat
  rts : Nat
  dirty : Bool := false
  umask : BitVec 64 := 0
  udata : BitVec 512 := 0
  pt : Nat := 2
  own : Option Nat := none
  pins : List Nat := []
  /-- U bytes with no copy beneath them. -/
  bare : Bool := false
  /-- The data expands a line image (R294): a compressed view is not served from it. -/
  exp : Bool := false
deriving DecidableEq, Repr, Inhabited

/-- An atomic on one unit: AOP (7 for compare-and-swap), formats, operand patterns (R236 to R239). -/
structure AtomOp where
  op : Nat
  fmt : Nat
  dw : Bool
  x : Nat
  cmp : Nat
  /-- Flags raised while lanes were combined (R241). -/
  fl : Flags := 0
deriving DecidableEq, Repr, Inhabited

/-- A side-log entry (R249): a store's bytes of one sector, or a reduction on one unit. -/
structure SideEnt where
  chain : Nat
  rid : Nat
  seq : Nat
  wid : Nat
  acc : Acc
  va : Nat
  data : BitVec 512
  mask : BitVec 64
  /-- The lanes it came from, each with its address. -/
  vas : List (Nat × Nat)
  atom : Option AtomOp
  pc : Nat
  /-- Partition and survey of the chain (R400). -/
  part : Nat
  sid : Nat
deriving DecidableEq, Repr, Inhabited

/-- The bodies of messages between a core, a home and the meridian (R16). -/
inductive Body where
  /-- A read of one sector for a load of the chain (R125); clk is LCLK at issue. -/
  | read (acc : Acc) (chain seq pc key : Nat) (clk lease : Nat)
  /-- Its answer: data, stamps, the clock the home computed for a synchronising load, and what it fills: 0 nothing, 1 the
  L1, 2 the cluster cache and the L1, 3 the L1 with a Q copy (R125, R132); XP + 1 of an image, or 0. -/
  | readAns (acc : Acc) (chain seq key : Nat) (data : BitVec 512) (wts rts : Nat) (t : Nat) (fill cmp : Nat)
  /-- A store of bytes of one sector (R126); `after` lists the earlier writes it must follow (R135). -/
  | store (acc : Acc) (chain seq pc key wid : Nat) (data : BitVec 512) (mask : BitVec 64)
      (vas : List (Nat × Nat)) (clk : Nat) (after : List Nat)
  | grant (chain core wid stamp : Nat)
  /-- An atomic or reduction on one unit (R139 to R143); ticket for .sc; red for AMRED. -/
  | atom (acc : Acc) (chain seq pc va wid lane : Nat) (vas : List (Nat × Nat)) (op : AtomOp) (cells : List CellId) (red : Bool)
      (clk : Nat) (after : List Nat) (ticket : Option Nat)
  | atomAns (chain core seq wid lane : Nat) (cells : List CellId) (old : Nat) (fmt : Nat) (dw : Bool) (flags : Flags)
      (stamp : Nat) (sync : Bool)
  /-- A .sc atomic asks the meridian for the ticket of its slice (R140): the message to send with it. -/
  | ticket (site : Nat) (atom : Body)
  | forward (key owner : Nat)
  | ownerData (key : Nat) (data : BitVec 512) (wts rts : Nat)
  | gone (key wts rts : Nat)
  | writeBack (key core : Nat) (data : BitVec 512) (wts rts : Nat) (stamped : Bool)
  | cleanReturn (key core rts : Nat)
  /-- A dirty sector that a level above a core's L1 is to take as a write of its own (R141), held while its stamp would
  pass the largest (R128). -/
  | absorb (key : Nat) (data : BitVec 512) (wts : Nat)
  /-- A synchronising store below the home that follows earlier writes (R135). -/
  | late (acc : Acc) (chain seq pc key wid : Nat) (data : BitVec 512) (mask : BitVec 64) (vas : List (Nat × Nat)) (after : List Nat)
  /-- The same in spaces 1 to 4: bytes by address, size and value. -/
  | lateLocal (core ctx chain seq space wid : Nat) (bytes : List (Nat × Nat × Nat)) (after : List Nat)
  | pageFlush (page core : Nat)
  /-- A fault found at the memory side for lanes of a load or returning atomic (R182): what to send again at a retry. -/
  | fault (chain core seq pc : Nat) (lanes : Mask) (cause tval detail : Nat) (redo : Body)
  /-- A fault of a write, which retires into the side log (R249). -/
  | logged (core : Nat) (ent : SideEnt) (cause detail : Nat)
  | spinReg (chain key wts level : Nat)
  | spinWake (chain key : Nat)
  | freeze (core region key : Nat)
  | publish (core region key tp : Nat) (data : BitVec 512) (mask : BitVec 64)
  | backInv (key : Nat)
  /-- A data-queue operation (R176, R393): kind 0 send, 1 receive, 2 peek. -/
  | queueOp (chain core seq pc prio obj kind n : Nat) (vals : List W32) (cells : List CellId) (lanes : Mask)
      (nb : Option Nat) (hnd : Nat) (after : List Nat)
  | nothing
deriving DecidableEq, Repr, Inhabited

/-- A message in flight: its activity class, line and ends decide its order (R17); ep is the sender's epoch (R129). -/
structure Msg where
  id : Nat
  cls : Nat
  line : Nat
  src : Nat
  dst : Nat
  ep : Bool
  body : Body
  /-- Cluster ports that it has yet to pass, each with its direction: 0 out of the cluster, 1 into it (R279). -/
  ports : List (Nat × Nat) := []
deriving DecidableEq, Repr, Inhabited

/-- A sector at its home slice: state, data and stamps, the owner below, held and queued requests in arrival order
(R144, R154), pending freezes, the host-held bit (R454), the XP of its image when C = 1 (R289), and the
physical address it was filled from. -/
structure HomeSec where
  st : SSt
  data : BitVec 512
  wts : Nat
  rts : Nat
  dirty : Bool := false
  own : Option Nat := none
  queue : List Msg := []
  freezes : Nat := 0
  host : Bool := false
  cmp : Option Nat := none
  pa : Nat := 0
deriving DecidableEq, Repr, Inhabited

/-- A memory-side TLB entry (R424): page key, physical page address, permissions, and the frame it came through. -/
structure Tlb where
  /-- A 4 KiB page, or with `big` the first of a 2 MiB leaf (R424). -/
  page : Nat
  big : Bool
  pa : Nat
  w : Bool
  x : Bool
  ra : Bool
  raFail : Option Nat
  ctxs : List (Nat × Nat)
  /-- The frames that the tables of its walk came through. -/
  tabs : List (Nat × Nat) := []
deriving DecidableEq, Repr, Inhabited

/-- The page mark of R131. -/
inductive PMark where
  | priv (core : Nat)
  | shared
deriving DecidableEq, Repr, Inhabited

/-- A binding descriptor (R365); tile extents as exponents. -/
structure TDesc where
  base : Nat := 0
  d1 : Nat := 0
  d2 : Nat := 0
  d3 : Nat := 0
  fmt : Nat := 0
  l1 : Nat := 0
  l2 : Nat := 0
  l3 : Nat := 0
  p2 : Nat := 0
  p3 : Nat := 0
  halo : Nat := 0
deriving DecidableEq, Repr, Inhabited

/-- A bound-range entry of a slice (R369): the tensor object, tag space, descriptor, TID and fill floor. -/
structure Bind where
  obj : Nat
  tag : Nat
  desc : TDesc
  tid : Nat
  fl : Nat
deriving DecidableEq, Repr, Inhabited

/-- An easement entry (R149): kind true for a destination. -/
structure Ease where
  id : Nat
  tag : Nat
  space : Nat
  lo : Nat
  hi : Nat
  dst : Bool
deriving DecidableEq, Repr, Inhabited

/-- A publication region (R214, R244); closing counts what PUBLISH still waits for. -/
structure Region where
  id : Nat
  ctx : Nat
  tag : Nat
  lo : Nat
  len : Nat
  chain : Nat
  /-- none: open; some (sectors whose freeze is unanswered, largest rts, sectors whose write is unanswered). -/
  pub : Option (List Nat × Nat × List Nat) := none
deriving DecidableEq, Repr, Inhabited

/-- What a monument records of one chain (R184). -/
structure ChainSnap where
  slot : Nat
  frontier : List Entry
  parked : List Parked
  callStacks : Cells (List (Nat × Nat))
  live : Mask
  latch : List (Nat × Mask)
  bars : Cells (Nat × Bool)
deriving DecidableEq, Repr, Inhabited

/-- One logged old value (R185). -/
inductive LogEnt where
  | reg (slot : Nat) (cell : CellId) (old : Nat)
  | fpst (slot : Nat) (old : W32)
  | chksb (slot : Nat) (old : Bool)
  | sector (key : Nat) (old : Option Copy)
  | wbuf (line : Nat) (old : List Byte)
  | abuf (line : Nat) (old : List Byte)
  | accm (line : Nat) (old : List Byte)
  | region (id : Nat)
  | stack (slot lane : Nat) (old : List (Nat × Nat))
deriving DecidableEq, Repr, Inhabited

/-- The monument of one (core, context) pair with its log of old values (R184, R185). -/
structure Monument where
  seq : Nat
  chains : List ChainSnap
  log : List LogEnt
  slots : Nat
deriving DecidableEq, Repr, Inhabited

/-- The extended-block pool of a resident team (R45, R174): quota, blocks in use, parked GACQs in issue order. -/
structure Pool where
  quota : Nat
  used : Nat
  wait : List Nat
deriving DecidableEq, Repr, Inhabited

/-! ## Contexts -/

/-- What a handle names (R47); objects are shared between the tables that name them (R417). -/
inductive HObj where
  | empty
  | queue (obj : Nat)
  | barrier (parcel : Bool) (obj : Nat)
  | ring (obj : Nat)
  | tensor (obj : Nat)
  | child (ctx : Nat)
  | peer (word : Nat)
deriving DecidableEq, Repr, Inhabited

/-- A handle entry and the (context, handle) it was shared from (R417). -/
structure HEnt where
  obj : HObj := .empty
  src : Option (Nat × Nat) := none
deriving DecidableEq, Repr, Inhabited

/-- Context states of R413. -/
inductive CSt where
  | stopped | running | stopping
deriving DecidableEq, Repr, Inhabited

/-- A plat entry (R49): the physical site bound and the usable cores in dense order (R51), each cluster * 8 + core. -/
structure Plat where
  site : Nat
  cores : List Nat
deriving DecidableEq, Repr, Inhabited

/-- The trap ring of a context (R429): pointer, slots, next slot, unresolved tokens by slot, queue object. -/
structure Ring where
  ptr : W128
  n : Nat
  next : Nat
  busy : List (Nat × Nat)
  queue : Nat
deriving DecidableEq, Repr, Inhabited

/-- Migration logging of a child (R433, R434): the buffer's pointer, slots, and the header's COUNT and MODE. -/
structure MigLog where
  ptr : W128
  m : Nat
  count : Nat
  mode : Nat
  pages : List Nat
deriving DecidableEq, Repr, Inhabited

/-- A registry slot (R403, R405): generation, kernel, deregistered. -/
structure RegEnt where
  gen : Nat
  kern : Option Kern
  gone : Bool
deriving DecidableEq, Repr, Inhabited

/-- A context (R413 to R451). -/
structure Ctx where
  part : Nat := 0
  parent : Nat := 0
  depth : Nat := 0
  st : CSt := .stopped
  /-- Whether it was running when its parent stopped it (R437). -/
  wasRunning : Bool := false
  /-- A stop has been sent to it, or it waits for its time slice (R187, R460): its chains issue nothing. -/
  out : Bool := false
  s1root : Nat := 0
  frlim : Nat := 0
  ylimit : Nat := 0x4E20
  common : Bool := false
  surv : Nat := 0
  parc : Nat := 0
  nchild : Nat := 0
  port : W32 := 0xCFFF0100
  home : List Nat := []
  plat : List Plat := []
  /-- none: map 1 (R75); some: the 1,024 entries of the table loaded. -/
  dtab : Option (List W32) := none
  handles : Tab HEnt := []
  frames : Cells W64 := []
  mask : BitVec 256 := 0
  ring : Option Ring := none
  lease : Nat := 16
  lflags : Flags := 0
  lost : Cells Nat := []
  /-- Messages that took the route y first, by class * 2^16 + h * 2^8 + s of that route (R19). -/
  rerouted : Cells Nat := []
  /-- Contained errors reported to the context: cause, TVAL (R19, R51, R400). -/
  reports : List (Nat × Nat) := []
  reg : Tab RegEnt := []
  mig : Option MigLog := none
  startq : Option Nat := none
  /-- Surveys live and parcels placed that count against it (R415). -/
  nsurv : Nat := 0
  nparc : Nat := 0
  ndesc : Nat := 0
deriving DecidableEq, Repr, Inhabited

/-! ## Dispatch -/

/-- A queue object (R392 to R394): owner context, home, configuration word, data entries with the stamp of the release
that sent each, parked operations in arrival order, accepted surveys in order. -/
structure Queue where
  ctx : Nat
  vdie : Nat
  clu : Nat
  cfg : W32 := 0xF0010000
  data : List (W32 × Nat) := []
  parked : List Msg := []
  surveys : List Nat := []
deriving DecidableEq, Repr, Inhabited

/-- A barrier instance (R175): completed phase and, for a parcel barrier, the arrivals of its teams in order, each with its phase
(R42). -/
structure BarInst where
  c : Nat := 0
  arrivals : List (Nat × Nat) := []
deriving DecidableEq, Repr, Inhabited

/-- A stage ring (R273, R274): descriptor, counters, slot states V, P and T, parked acquisitions, pending .after. -/
structure StageRing where
  desc : W64
  ctx : Nat
  acqp : Nat := 0
  acqc : Nat := 0
  v : Cells Bool := []
  ph : Cells Bool := []
  t : Cells Nat := []
  /-- (operation number, chain, kind 0 prod 1 cons 2 full 3 empty, sequence, s register). -/
  wait : List (Nat × Nat × Nat × Nat × Nat) := []
  /-- (slot, chain, group, sequence number of the release): pending .after releases. -/
  after : List (Nat × Nat × Nat × Nat) := []
deriving DecidableEq, Repr, Inhabited

/-- A tensor handle (R372). -/
structure Tensor where
  ctx : Nat
  /-- 0 unbound, 1 binding, 2 bound, 3 freeing. -/
  st : Nat := 0
  desc : TDesc := {}
  tid : Nat := 0
deriving DecidableEq, Repr, Inhabited

/-- A survey from acceptance to completion (R386 to R400), by surveyKey; queue 0 once it runs on outside its queue (R407). -/
structure Survey where
  part : Nat
  ctx : Nat
  slot : Nat
  kern : Kern
  gx : Nat
  gy : Nat
  gz : Nat
  prio : Nat
  pairs : Bool
  chksb : Bool
  rm : Nat
  dep : Nat
  die0 : Nat
  ndie : Nat
  sregs : List (Nat × W32)
  kregs : List (Nat × W128)
  xbind : List (List Nat)
  done : Nat
  queue : Nat
  accept : Nat
  deps : List Nat := []
  metDeps : Nat := 0
  clock : Nat := 0
  next : Nat := 0
  ended : Nat := 0
  killed : Bool := false
  tc : Nat := 0
deriving DecidableEq, Repr, Inhabited

/-- A placed parcel (R396, R399): its cluster and the core and first slots of each team. -/
structure Parcel where
  sid : Nat
  pid : Nat
  cluster : Nat
  /-- (core, chain slots of the team, shadows included) in TEAMID order. -/
  teams : List (Nat × List Nat)
  started : Bool := false
  /-- Remaining prologue bindings (R315). -/
  bind : List (List Nat) := []
  cways : List Nat := []
  /-- Its context is pre-empted, and it stands on no core. -/
  out : Bool := false
deriving DecidableEq, Repr, Inhabited

/-! ## Traps, sweeps, partitions -/

/-- Where a record is (R429, R430); `later` has been resolved while its context was out, and acts when that context is
restored (R179, R187). -/
inductive RecAt where
  | engine
  | ring (ctx slot : Nat)
  | mailbox (fn : Nat)
  | resolved (act : Nat)
  | later (act : Nat)
deriving DecidableEq, Repr, Inhabited

/-- A trap record and what resolving it needs (R182, R429 to R431): the lanes parked, whether they stand at the
faulting word, and whether R431 routed it. -/
structure Rec where
  ctx : Nat
  part : Nat
  chain : Nat
  seq : Nat
  cause : W32
  tpc : W32
  tval : W64
  lanes : Mask
  detail : Nat
  log : Bool
  token : Option Nat := none
  loc : RecAt := .engine
  routed : Option Nat := none
  va : Nat := 0
  /-- An engine group or stream whose fault the record reports (R278, R312, R340, R362, R384): engine, index. -/
  grp : Option (Nat × Nat) := none
  /-- Load lanes parked past the load (R182), with the load's units to reissue. -/
  past : Mask := 0
  units : List LUnit := []
  redo : List Body := []
  /-- The lanes stand at an EXIT (R167). -/
  atExit : Bool := false
  startFrom : Nat := 0
deriving DecidableEq, Repr, Inhabited

/-- A sweep with its completion word (R426); none for a host sweep, whose function reads it done (R455). -/
structure Sweep where
  part : Nat
  num : Nat
  ctx : Nat
  done : Option W128
  frames : Nat
  fn : Option Nat := none
  core : Nat := 0
deriving DecidableEq, Repr, Inhabited

/-- A partition (R458, R459): clusters, memory list, limits, the counters of R386, R426 and R429, its root. -/
structure Part where
  clusters : List Nat
  memory : List Nat
  ylimit : Nat
  surv : Nat
  parc : Nat
  nchild : Nat
  port : W32
  root : Option Nat := none
  started : Bool := false
  nextSid : Nat := 1
  nextSweep : Nat := 1
  nextToken : Nat := 1
deriving DecidableEq, Repr, Inhabited

/-- A CXL function's window (R455) and its mailbox ring in host memory (R456). -/
structure Fn where
  part : Option Nat := none
  dbstat : Nat := 0
  mboxbase : Nat := 0
  mboxhead : Nat := 0
  mboxtail : Nat := 0
  rootstat : Nat := 0
  sweepNext : Nat := 1
  sweepNum : Nat := 0
  sweepDone : Bool := false
  badTokens : Nat := 0
  mbox : Cells (List Byte) := []
  msix : List Nat := []
deriving DecidableEq, Repr, Inhabited

/-- A context's bucket at a cluster port in one direction (R279 to R281), T in sixty-fourths of a beat. -/
structure Bucket where
  t : Nat := 0
  d : Nat := 0
  lent : Nat := 0
  borrowed : Nat := 0
  waited : Nat := 0
deriving DecidableEq, Repr, Inhabited

/-! ## Engines -/

/-- Whose command it is: the engine that keeps it. -/
inductive Eng where
  | copy | xform | matrix | quant | tensor
deriving DecidableEq, Repr, Inhabited

/-- An engine command (R148): the instruction with the pointers and s operands it held at issue, its progress (units,
lines, chunks, passes or steps that have landed), read time, largest stamp, counts, flags, the fault that stopped it
(cause, virtual address, DETAIL), and words that it keeps for itself. -/
structure Cmd where
  id : Nat
  chain : Nat
  ctx : Nat
  /-- Survey and parcel of the chain: a slot may be reused. -/
  sid : Nat
  pid : Nat
  core : Nat
  seq : Nat
  eng : Eng
  grp : Nat
  ins : Instr
  mode : Nat
  ks : List W128
  ss : List Nat
  next : Nat := 0
  /-- A copy's units that have started; those that landed above `next`, each with its count of indices out of range; those
  that faulted (R256, R278). In the quantise engine, `started` is 1 for a pass or a command that ran when its context was told to
  stop (R363). -/
  started : Nat := 0
  landed : List (Nat × Nat) := []
  bad : List Nat := []
  readTime : Nat
  stamp : Nat := 0
  cnt : Nat := 0
  cnt2 : Nat := 0
  flags : Flags := 0
  stopped : Option (Nat × Nat × Nat) := none
  keep : List Nat := []
  /-- An MMA's operand lines in staging, each with its 256 bytes as a number (R321). -/
  stage : List (Nat × Nat) := []
  /-- The command has completed and waits only for its .post (R285). -/
  done : Bool := false
deriving DecidableEq, Repr, Inhabited

/-! ## Units -/

/-- A core of a compute die. -/
structure Core where
  /-- Core cycles (R3). -/
  cc : Nat := 0
  seq : Nat := 0
  lclk : Nat := 0
  epoch : Bool := false
  base : Nat := 6
  offset : Int := 0
  denied : Nat := 0
  /-- First cycle in which the wide unit is free (R193). -/
  wideFree : Nat := 0
  fenced : Bool := false
  /-- Context whose state the core holds tables for is the chain's; nothing here is per context but monuments. -/
  l1 : Tab Copy := []
  lru : List Nat := []
  fbuf : Tab Copy := []
  /-- Final stamps of owned copies it has given up (R154). -/
  final : Tab (Nat × Nat) := []
  regions : List Region := []
  side : List SideEnt := []
  ease : List Ease := []
  wb : Cells Byte := []
  ab : Cells Byte := []
  /-- Lines whose presence bit is clear (R257), in each buffer. -/
  absW : List Nat := []
  absA : List Nat := []
  accm : Cells Byte := []
  copyq : List Cmd := []
  matq : List Cmd := []
  qntq : List Cmd := []
  tenq : List Cmd := []
  /-- Accumulator slots unmapped and not yet cleared (R331). -/
  clearing : List Nat := []
  /-- Exponent histograms (R342): bin b of histogram h at 257 * h + b, NAN at b = 256. -/
  hist : Cells Nat := []
  pools : Tab Pool := []
  mons : Tab Monument := []
deriving DecidableEq, Repr, Inhabited

structure Cluster where
  epoch : Bool := false
  l2 : Tab Copy := []
  lru : List Nat := []
  shared : Cells Byte := []
  /-- Ways given to cluster-shared space (R472). -/
  ways : Nat := 0
  bars : Tab BarInst := []
  /-- Buckets by context * 2 + direction. -/
  ports : Tab Bucket := []
  /-- The identifier last served in each class and direction (rotating order, R280). -/
  rotor : Cells Nat := []
  /-- Beats of engine, fetch and other traffic without a message of its own that wait at the port: direction, context and
  class (R280). -/
  beats : List (Nat × Nat × Nat) := []
  xfmq : List Cmd := []
deriving DecidableEq, Repr, Inhabited

/-- A memory die: its slice, TLB, page marks, retirement table and flag words. -/
structure Slice where
  epoch : Bool := false
  secs : Tab HomeSec := []
  /-- Lines in recency order, with their set: an address line's key, or a tensor line's (R368, R472). -/
  lru : List (Nat × Nat) := []
  tlb : List Tlb := []
  marks : Tab PMark := []
  flags : Cells Nat := []
  nextTicket : Nat := 0
  /-- The ticket of the designated module's sequence that the slice performs next. -/
  nextPod : Nat := 0
  /-- Stamps given by a flush to sectors of the page that were not resident (R132), by sector key, plus one. -/
  given : Cells Nat := []
  binds : List Bind := []
  /-- rts of the latest address-tagged sector evicted, and floors kept for freed bindings (R130, R376). -/
  floor : Nat := 0
  floors : List (Nat × Nat × Nat) := []
  retired : Tab Nat := []
  fencedPages : List Nat := []
  lost : List Nat := []
deriving DecidableEq, Repr, Inhabited

/-- A rebase in progress (R128): cores and caches still to take part. -/
structure Rebase where
  active : Bool := false
  queued : Bool := false
  /-- The epoch bit of the latest broadcast (R129). -/
  epoch : Bool := false
deriving DecidableEq, Repr, Inhabited

/-- An island (R14, R466 to R468). -/
structure Island where
  up : Bool := false
  fenced : Bool := false
  throttled : Bool := false
  sample : Nat := 0
  events : Nat := 0
  lockLost : Bool := false
deriving DecidableEq, Repr, Inhabited

/-- A link of the panel (R16, R19): failed rails, and classes with no rail left. -/
structure Link where
  failed : List Nat := []
  spareFor : Option Nat := none
  fenced : List Nat := []
deriving DecidableEq, Repr, Inhabited

/-- A Biant port's or CXL port's link state (R453, R462). -/
structure Port where
  lanes : Nat := 16
  rate : Nat := 128
  replays : Nat := 0
deriving DecidableEq, Repr, Inhabited

/-- The service controller (R469, R470): loaded images with their digests, security version, log entries, counts. -/
structure Uzosa where
  images : List (Nat × List Byte) := []
  secver : Nat := 0
  ownVerified : Bool := false
  log : List (Nat × Nat) := []
  replies : List (Nat × List Byte) := []
deriving DecidableEq, Repr, Inhabited

/-- The lane of sequencing an issue (the model's own): which chain performs, its word, its entry and active lanes, and
its first issue cycle. -/
structure Sel where
  chain : Nat := 0
  word : W64 := 0
  pc : Nat := 0
  prio : Nat := 0
  entry : Mask := 0
  act : Mask := 0
  /-- The active lanes as packed into lane groups (R30): act and the lanes that the scoreboard failed (R70). -/
  pack : Mask := 0
  t0 : Nat := 0
  seq : Nat := 0
  /-- The instruction found that it must wait, and did nothing (R35). -/
  waited : Bool := false
  /-- This issue is the class-demotion issue of R33 past this priority class. -/
  demote : Option Nat := none
deriving DecidableEq, Repr, Inhabited

end Sys2Proof.Machine
end

