-- ==== Sys2Proof/Machine/State.lean ====
section
/-!
DEFINITION. The whole state of the machine, why a step can stop, and the machine right after reset.
-/
namespace Sys2Proof.Machine

/-- Why the machine stops. -/
inductive Fault where
  /-- A physical address outside every HBM stack (R13: 48 GiB a stack); raised by HBM accesses; safe. -/
  | noSuchMemory (addr : Nat)
deriving DecidableEq, Repr

/-- Why a step has no meaning here. -/
inductive Refusal where
  /-- An instruction whose meaning is not written yet; raised by Dispatch alone; safe. -/
  | notModelled (mnemonic : String)
deriving DecidableEq, Repr

/-- Everything the spec gives the machine; `turns`, `tick`, `sel` and `nextId` are the model's own (log entry 3). -/
structure State where
  turns : List Turn := []
  tick : Nat := 0
  sel : Sel := default
  nextId : Nat := 1
  chains : Tab Chain := []
  cores : Tab Core := []
  clusters : Tab Cluster := []
  slices : Tab Slice := []
  /-- HBM of every stack by physical address, site * 2^36 + offset; an unlisted byte reads 0 (log entry 1). -/
  hbm : List Host.Cell := []
  /-- C bits beside HBM lines that are set (R288), by physical line. -/
  cbits : List Nat := []
  msgs : List Msg := []
  ctxs : Tab Ctx := []
  parts : Tab Part := []
  fns : Tab Fn := []
  queues : Tab Queue := []
  rings : Tab StageRing := []
  tensors : Tab Tensor := []
  surveys : Tab Survey := []
  parcels : List Parcel := []
  recs : Tab Rec := []
  sweeps : Tab Sweep := []
  /-- The meridian's next ticket of each slice (R140). -/
  tickets : Cells Nat := []
  /-- The same of the pod's designated module, where that is another one (R140, R463). -/
  podTickets : Cells Nat := []
  rebase : Rebase := {}
  islands : Cells Island := []
  links : Cells Link := []
  /-- Pairs of dies fenced for a class (R19): (class, site, site). -/
  fencedPairs : List (Nat × Nat × Nat) := []
  ports : Cells Port := []
  cxl : Cells Port := []
  /-- Saved state of pre-empted contexts (R187): its chains under the names they have while it is out,
  its part of each core and of each cluster. -/
  saved : Tab (List (Nat × Chain)) := []
  /-- By context * 2^20 + core, and by context * 2^20 + cluster. -/
  savedCores : Tab Core := []
  savedClusters : Tab Cluster := []
  module : Nat := 0
  designated : Nat := 0
  routes : Cells Nat := []
  aperture : List Nat := []
  /-- Peer modules' frames as reached through the links (R464), by module * 2^50 + frame * 2^21 + byte. -/
  peer : Cells Byte := []
  /-- wts and rts of peer sectors, by the same numbering (log entry 1). -/
  peerStamps : Cells (Nat × Nat) := []
  /-- Spin-park registrations (R39): level (0 L1, 1 cluster, 2 home), unit, sector key, chain, wts seen. -/
  spins : List (Nat × Nat × Nat × Nat × Nat) := []
  uzosa : Uzosa := {}
  /-- Contained errors not yet in a mailbox (R456, R471): partition, cause, TVAL. -/
  errors : List (Nat × Nat × Nat) := []
  offCores : List Nat := []
  offSites : List Nat := []
deriving DecidableEq, Repr, Inhabited

/-- Memory as a list of cells in its one canonical form: addresses strictly rising, no entry equal to what an unlisted
address reads as (log entry 1). -/
abbrev Memory.wf (m : List Host.Cell) : Bool := Cells.wf 0 m

/-- The machine at power-up: nothing brought up (R466), every field at its reset value. -/
def State.reset : State := {}

/-! ## Reading the tables -/

namespace State

def chain? (s : State) (i : Nat) : Option Chain := Tab.find s.chains i
def coreAt (s : State) (c : Nat) : Core := Tab.get {} s.cores c
def clusterAt (s : State) (c : Nat) : Cluster := Tab.get {} s.clusters c
def sliceAt (s : State) (m : Nat) : Slice := Tab.get {} s.slices m
def ctxAt (s : State) (c : Nat) : Ctx := Tab.get {} s.ctxs c

def setChain (s : State) (i : Nat) (c : Chain) : State := { s with chains := Tab.put s.chains i c }
def setCore (s : State) (i : Nat) (c : Core) : State := { s with cores := Tab.put s.cores i c }
def setCluster (s : State) (i : Nat) (c : Cluster) : State := { s with clusters := Tab.put s.clusters i c }
def setSlice (s : State) (i : Nat) (c : Slice) : State := { s with slices := Tab.put s.slices i c }
def setCtx (s : State) (i : Nat) (c : Ctx) : State := { s with ctxs := Tab.put s.ctxs i c }

end State
end Sys2Proof.Machine
end

