-- ==== Sys2Proof/Machine/Ops.lean ====
section
/-!
DEFINITION. The named operations over chains: register files with results on their way, the frontier, issue
accounting, monuments and their log, taking a trap, and what resolving one does to lanes.
-/
namespace Sys2Proof.Machine

/-! ## Keys -/

def coreOf (chain : Nat) : Nat := chain / 16
def slotOf (chain : Nat) : Nat := chain % 16
def siteOf (core : Nat) : Nat := core / 64
def clusterOf (core : Nat) : Nat := core / 8
def siteX (site : Nat) : Nat := site % 16
def siteY (site : Nat) : Nat := site / 16
def dist (a b : Nat) : Nat := if a ≤ b then b - a else a - b
/-- Hops between two sites (R18). -/
def hops (a b : Nat) : Nat := dist (siteX a) (siteX b) + dist (siteY a) (siteY b)
/-- Stitch crossings between two sites (R18). -/
def stitches (a b : Nat) : Nat := dist (siteX a / 4) (siteX b / 4) + dist (siteY a / 4) (siteY b / 4)
def islandOf (site : Nat) : Nat := 4 * (siteY site / 4) + siteX site / 4
def isCompute (site : Nat) : Bool := site < 256 && (siteX site + siteY site) % 2 = 0
def isMemory (site : Nat) : Bool := site < 256 && (siteX site + siteY site) % 2 = 1
/-- The compute dies that the part disables (R2): none, or on an FGD-7680 eight of those the fuses name (log entry 8). -/
def disabledSites : List Nat :=
  if Config.grade7680 then ((Config.fusedSites ++ List.range 256).eraseDups.filter isCompute).take 8 else []
/-- The memory die of a memory-die number (R457). -/
def dieSite (d : Nat) : Nat := if isMemory (2 * d) then 2 * d else 2 * d + 1

/-! ## State updates -/

namespace State

def modChain (s : State) (i : Nat) (f : Chain → Chain) : State :=
  match s.chain? i with
  | some c => s.setChain i (f c)
  | none => s

def modCore (s : State) (i : Nat) (f : Core → Core) : State := s.setCore i (f (s.coreAt i))
def modCluster (s : State) (i : Nat) (f : Cluster → Cluster) : State := s.setCluster i (f (s.clusterAt i))
def modSlice (s : State) (i : Nat) (f : Slice → Slice) : State := s.setSlice i (f (s.sliceAt i))
def modCtx (s : State) (i : Nat) (f : Ctx → Ctx) : State :=
  match Tab.find s.ctxs i with
  | some c => s.setCtx i (f c)
  | none => s

/-- The chain whose instruction is performing. -/
def selChain (s : State) : Chain := Tab.get {} s.chains s.sel.chain
def selCore (s : State) : Nat := coreOf s.sel.chain

/-- A fresh identifier of the model's own. -/
def fresh (s : State) : Nat × State := (s.nextId, { s with nextId := s.nextId + 1 })

end State

/-! ## Register files (R44, R67, R71) -/

namespace Chain

/-- What a register holds of the writes that have been committed. -/
def fileOf (c : Chain) : CellId → Nat
  | .g r l => (Cells.get 0 c.g (32 * r + l)).toNat
  | .s r => (Cells.get 0 c.s r).toNat
  | .k r => (Cells.get 0 c.k r).toNat
  | .p r l => if r = 7 then 1 else if Cells.get false c.p (32 * r + l) then 1 else 0
  | .fpst => c.fpst.toNat

/-- A write to a register; p7 discards it (R46), FPST takes the OR of flags (R106). -/
def setFile (c : Chain) (cell : CellId) (v : Nat) : Chain :=
  match cell with
  | .g r l => { c with g := Cells.set 0 c.g (32 * r + l) (BitVec.ofNat 32 v) }
  | .s r => { c with s := Cells.set 0 c.s r (BitVec.ofNat 32 v) }
  | .k r => { c with k := Cells.set 0 c.k r (BitVec.ofNat 128 v) }
  | .p r l => if r = 7 then c else { c with p := Cells.set false c.p (32 * r + l) (decide (v % 2 = 1)) }
  | .fpst => { c with fpst := c.fpst ||| BitVec.ofNat 32 v }

/-- The write to a cell that landed last at or before cycle t (R71: ties to the later issue). -/
def landed (ws : List PendW) (cell : CellId) (t : Nat) : Option PendW :=
  ws.foldl (fun a w =>
    if w.cell = cell ∧ w.land ≤ t then
      (match a with
       | some b => if b.land ≤ w.land then some w else some b
       | none => some w)
    else a) none

/-- A register read at cycle t (R71). -/
def readAt (c : Chain) (cell : CellId) (t : Nat) : Nat :=
  match landed c.pend cell t with
  | some w => w.val
  | none => c.fileOf cell

def readG (c : Chain) (r l t : Nat) : Nat := c.readAt (.g r l) t % 2 ^ 32
def readS (c : Chain) (r t : Nat) : Nat := c.readAt (.s r) t % 2 ^ 32
def readS64 (c : Chain) (r t : Nat) : Nat := c.readS r t + 2 ^ 32 * c.readS (r + 1) t
def readK (c : Chain) (r t : Nat) : W128 := BitVec.ofNat 128 (c.readAt (.k r) t)
def readP (c : Chain) (r l t : Nat) : Bool := r = 7 || c.readAt (.p r l) t = 1

/-- Adds results on their way. -/
def addPend (c : Chain) (ws : List PendW) : Chain := { c with pend := c.pend ++ ws }

end Chain

/-! ## The frontier (R31 to R33) -/

/-- The order of R31. -/
def entryBefore (a b : Entry) : Bool :=
  decide (b.prio < a.prio) ||
    (decide (a.prio = b.prio) && ((!a.rot && b.rot) || (a.rot == b.rot && decide (a.pc < b.pc))))

def sortEntry (fr : List Entry) (e : Entry) : List Entry :=
  match fr with
  | [] => [e]
  | x :: r => if entryBefore e x then e :: x :: r else x :: sortEntry r e

/-- An entry that lanes meet at their program counter (R32). -/
def meet (a x : Entry) : Entry := { prio := max x.prio a.prio, pc := a.pc, rot := x.rot && a.rot, lanes := x.lanes ||| a.lanes }

/-- Lanes enter the frontier; entries that meet at one program counter merge (R32). -/
def enter (fr : List Entry) (e : Entry) : List Entry :=
  if e.lanes = 0 then fr
  else sortEntry (fr.filter (fun y => y.pc ≠ e.pc)) ((fr.filter (fun y => y.pc = e.pc)).foldl meet e)

/-- Lanes leave their entries. -/
def leave (fr : List Entry) (m : Mask) : List Entry :=
  (fr.map (fun e => { e with lanes := e.lanes &&& ~~~m })).filter (fun e => e.lanes ≠ 0)

def entryAt (fr : List Entry) (pc : Nat) : Option Entry := fr.find? (fun e => e.pc = pc)

namespace Chain

/-- Moves lanes to a program counter and priority. -/
def move (c : Chain) (m : Mask) (pc prio : Nat) (rot : Bool := false) : Chain :=
  { c with frontier := enter (leave c.frontier m) { prio, pc, rot, lanes := m } }

/-- Parks lanes: they leave their entries (R32). -/
def park (c : Chain) (m : Mask) (why : ParkWhy) (pc prio : Nat) : Chain :=
  if m = 0 then c
  else { c with frontier := leave c.frontier m, parked := c.parked ++ [{ lanes := m, why, pc, prio }] }

/-- Takes lanes out of every park. -/
def unparkLanes (c : Chain) (m : Mask) : Chain :=
  { c with parked := (c.parked.map (fun q => { q with lanes := q.lanes &&& ~~~m })).filter (fun q => q.lanes ≠ 0) }

/-- Ends lanes (R167). -/
def endLanes (c : Chain) (m : Mask) : Chain :=
  { (c.unparkLanes m) with
    frontier := leave c.frontier m, live := c.live &&& ~~~m,
    latch := (c.latch.map (fun l => (l.1, l.2 &&& ~~~m))).filter (fun l => l.2 ≠ 0) }

end Chain

/-! ## Monuments (R184, R185) -/

def snapOf (i : Nat) (c : Chain) : ChainSnap :=
  { slot := slotOf i, frontier := c.frontier, parked := c.parked, callStacks := c.callStacks, live := c.live, latch := c.latch,
    bars := c.bars }

/-- The chains of a context resident on a core. -/
def chainsOn (s : State) (core ctx : Nat) : List (Nat × Chain) :=
  s.chains.filter (fun e => decide (coreOf e.1 = core) && decide (e.2.ctx = ctx))

/-- Takes a monument of a (core, context) pair (R184). -/
def monument (s : State) (core ctx : Nat) : State :=
  let k := s.coreAt core
  let m : Monument :=
    { seq := k.seq, chains := (chainsOn s core ctx).map (fun e => snapOf e.1 e.2), log := [], slots := 0 }
  s.setCore core { k with mons := Tab.put k.mons ctx m }

/-- Slots a log entry takes, given the log so far (R185). -/
def logSlots (log : List LogEnt) (e : LogEnt) : Nat :=
  match e with
  | .reg sl (.g r _) _ =>
    if log.any (fun x => match x with | .reg sl2 (.g r2 _) _ => sl = sl2 && r = r2 | _ => false) then 0 else 2
  | .reg sl (.p _ _) _ =>
    if log.any (fun x => match x with | .reg sl2 (.p _ _) _ => decide (sl = sl2) | _ => false) then 0 else 1
  | _ => 1

/-- Whether the log already holds the old value that an entry records. -/
def logged (log : List LogEnt) (e : LogEnt) : Bool :=
  log.any (fun x =>
    match e, x with
    | .reg a c _, .reg b d _ => decide (a = b ∧ c = d)
    | .fpst a _, .fpst b _ => decide (a = b)
    | .chksb a _, .chksb b _ => decide (a = b)
    | .sector a _, .sector b _ => decide (a = b)
    | .wbuf a _, .wbuf b _ => decide (a = b)
    | .abuf a _, .abuf b _ => decide (a = b)
    | .accm a _, .accm b _ => decide (a = b)
    | .stack a l _, .stack b m _ => decide (a = b ∧ l = m)
    | _, _ => false)

/-- Logs the old value at a first write after the monument (R185). -/
def Monument.add (m : Monument) (e : LogEnt) : Monument :=
  if logged m.log e then m else { m with log := e :: m.log, slots := m.slots + logSlots m.log e }

/-- Logs an old value for a context of a core, if it has a monument. -/
def logOld (s : State) (core ctx : Nat) (e : LogEnt) : State :=
  let k := s.coreAt core
  match Tab.find k.mons ctx with
  | some m => s.setCore core { k with mons := Tab.put k.mons ctx (m.add e) }
  | none => s

/-- The log entry of a register write. -/
def oldOf (i : Nat) (c : Chain) (cell : CellId) : LogEnt :=
  match cell with
  | .fpst => .fpst (slotOf i) c.fpst
  | x => .reg (slotOf i) x (c.fileOf x)

/-- A result of an instruction before the monument lands on a register whose old value is logged: that result is what a
rollback restores (R185, R186). -/
def Monument.renew (m : Monument) (slot : Nat) (cell : CellId) (v : Nat) : Monument :=
  { m with log := m.log.map (fun e => match e with
      | .reg sl x old => if sl = slot ∧ x = cell then .reg sl x v else .reg sl x old
      | .fpst sl old => if sl = slot ∧ cell = .fpst then .fpst sl (old ||| BitVec.ofNat 32 v) else .fpst sl old
      | e => e) }

/-- One result lands: the monument of its context logs the register, or what the register would have held (R185). -/
def noteLanding (i : Nat) (c : Chain) (seq : Nat) (cell : CellId) (v : Nat) (m : Monument) : Monument :=
  if m.seq ≤ seq then m.add (oldOf i c cell) else m.renew (slotOf i) cell v

/-- Results in the order in which they land; ties keep their issue order (R71). -/
def byLanding (ws : List PendW) : List PendW :=
  ws.foldr (fun w l => ins w l) []
where
  ins (w : PendW) : List PendW → List PendW
    | [] => [w]
    | x :: r => if w.land ≤ x.land then w :: x :: r else x :: ins w r

/-- Lands every result due at or before cycle t, logging the registers written by instructions after the monument
(R71, R185, R186). FPST ORs land when their cycle is before tf (R106). -/
def commitAt (s : State) (i : Nat) (t tf : Nat) : State :=
  match s.chain? i with
  | none => s
  | some c =>
    let due (w : PendW) : Bool := if w.cell = .fpst then decide (w.land < tf) else decide (w.land ≤ t)
    let ws := byLanding (c.pend.filter due)
    if ws.isEmpty then s
    else
      let k := s.coreAt (coreOf i)
      let r := ws.foldl (fun (a : Chain × Option Monument) w =>
        (a.1.setFile w.cell w.val, a.2.map (noteLanding i a.1 w.seq w.cell w.val))) (c, Tab.find k.mons c.ctx)
      let k' : Core := match r.2 with
        | none => k
        | some m => { k with mons := Tab.put k.mons c.ctx m }
      (s.setChain i { r.1 with pend := c.pend.filter (fun w => !(due w)) }).setCore (coreOf i) k'

/-- Lands what is due at the core's present cycle. -/
def commit (s : State) (i : Nat) : State :=
  let t := (s.coreAt (coreOf i)).cc
  commitAt s i t t

/-- Writes registers at once, after what has landed: for results whose arrival is the event itself (class V). A fixed
result that lands later still overwrites it (R71). -/
def writeOne (s0 : State) (i : Nat) (seq : Nat) (ws : List (CellId × Nat)) : State :=
  let s := commit s0 i
  match s.chain? i with
  | none => s
  | some c =>
    let k := s.coreAt (coreOf i)
    let k' : Core := match Tab.find k.mons c.ctx with
      | none => k
      | some m => { k with mons := Tab.put k.mons c.ctx (ws.foldl (fun m w => noteLanding i c seq w.1 w.2 m) m) }
    (s.setChain i (ws.foldl (fun a w => a.setFile w.1 w.2) c)).setCore (coreOf i) k'

/-- The shadow of a primary chain of a redundant pair (R188). -/
def shadowOf (s : State) (i : Nat) : Option Nat :=
  match s.chain? i with
  | some c => if c.shadow then none else c.pair
  | none => none

/-- The instruction of a number stands ahead of the partner. -/
def Ahead.isOpen (seq : Nat) (a : Ahead) : Bool := a.took.isNone && a.seqs.contains seq

/-- The partner of a chain of a pair, where it shares an instruction of the chain: not while it has yet to issue it (R188). -/
def mateOf (s : State) (i seq : Nat) : Option Nat :=
  match s.chain? i with
  | some c => if c.ahead.any (Ahead.isOpen seq) then none else c.pair
  | none => none

/-- Changes a chain and the partner that shares an instruction with it. -/
def modMate (s : State) (i seq : Nat) (f : Chain → Chain) : State :=
  let s1 := s.modChain i f
  match mateOf s i seq with
  | some j => s1.modChain j f
  | none => s1

/-- Changes both chains of a pair, or one chain alone. -/
def modBoth (s : State) (i : Nat) (f : Chain → Chain) : State :=
  let s1 := s.modChain i f
  match (s.chain? i).bind (·.pair) with
  | some j => s1.modChain j f
  | none => s1

/-- The chain of a pair that holds its writes: the primary (R188, R189). -/
def primaryOf (s : State) (i : Nat) : Nat :=
  match s.chain? i with
  | some c => if c.shadow then c.pair.getD i else i
  | none => i

/-- Results that come back for an instruction that the partner has yet to issue are kept for it (R188). -/
def keepAhead (s : State) (i seq : Nat) (ws : List (CellId × Nat)) : State :=
  s.modChain i (fun c => { c with ahead := c.ahead.map (fun a =>
    if a.seqs.contains seq then { a with vals := a.vals ++ ws.map (fun w => { cell := w.1, val := w.2, land := 0, start := 0, lat := 0, seq }) }
    else a) })

/-- Results of a pair are delivered to both chains (R188). -/
def writeNow (s : State) (i : Nat) (seq : Nat) (ws : List (CellId × Nat)) : State :=
  let s1 := keepAhead (writeOne s i seq ws) i seq ws
  match mateOf s i seq with
  | some j => writeOne s1 j seq ws
  | none => s1

/-! ## Issue accounting (R30, R33, R36, R66) -/

/-- The issue has happened: n issue cycles from the first, then the stall count (R66). -/
def account (s : State) (stall n : Nat) : State :=
  let s1 := s.modCore s.selCore (fun k => { k with cc := s.sel.t0 + n, seq := s.sel.seq + 1 })
  s1.modChain s.sel.chain (fun c =>
    { c with
      elig := s.sel.t0 + (n - 1) + max stall 1, lastIssue := s.sel.t0 + (n - 1), waiting := false,
      frontier := match s.sel.demote with
        | none => c.frontier
        | some p => (c.frontier.map (fun e => if e.prio = p then { e with rot := false } else e)).foldl sortEntry [] })

/-- The lanes of the issuing entry that still stand at its word. -/
def restLanes (s : State) : Mask :=
  match entryAt s.selChain.frontier s.sel.pc with
  | some e => e.lanes &&& s.sel.entry
  | none => 0

/-- The lanes that stand at the word go on to the next word, keeping priority and rotated flag. -/
def stepOn (s : State) : State :=
  let m := restLanes s
  s.modChain s.sel.chain (fun c =>
    let rot := match entryAt c.frontier s.sel.pc with
      | some e => e.rot
      | none => false
    c.move m (s.sel.pc + 8) s.sel.prio rot)

/-- The end of an instruction that occupies n issue cycles. -/
def advance (s : State) (h : Hdr) (n : Nat) : State := account (stepOn s) h.stall.toNat n

/-- The number of issue cycles of a per-lane instruction (R30). -/
def groupsOf (act : Mask) : Nat := max 1 (ceilDiv (countLanes act) 16)

/-- The issue cycle of the lane group that holds a lane (R30). -/
def laneCycle (s : State) (l : Nat) : Nat := s.sel.t0 + rankIn s.sel.pack l / 16

def advanceLanes (s : State) (h : Hdr) : State := advance s h (groupsOf s.sel.pack)
def advanceUniform (s : State) (h : Hdr) : State := advance s h 1

/-- The end of an instruction that forces a monument, taken at the boundary after it (R152, R184). -/
def withMonument (s : State) : State := monument s s.selCore s.selChain.ctx

/-- The instruction must wait: nothing happens now (R35, R68); swap says that the wait is one that swaps the chain out (R37).
The entry remembers when it first waited. -/
def waitFor (s : State) (swap : Bool) : State :=
  let s1 := s.modChain s.sel.chain (fun c =>
    { c with waiting := swap,
             frontier := c.frontier.map (fun e =>
               if e.pc = s.sel.pc ∧ e.since = none then { e with since := some s.sel.seq } else e) })
  { s1 with sel := { s.sel with waited := true } }

/-- A wait that leaves the chain in its set. -/
def waitIssue (s : State) : State := waitFor s false

/-- A wait on a load that missed the L1, or in CPWAIT, MWAIT, XWAIT or SWAIT, or for easement entries (R37, R149). -/
def waitLong (s : State) : State := waitFor s true

/-- The sequence number at which the issuing instruction first tried to issue (R148). -/
def sinceOf (s : State) : Nat :=
  match entryAt s.selChain.frontier s.sel.pc with
  | some e => e.since.getD s.sel.seq
  | none => s.sel.seq

/-- The rotated flag of the issuing entry (R33). -/
def setRot (s : State) (b : Bool) : State :=
  s.modChain s.sel.chain (fun c =>
    let mine := (c.frontier.filter (fun x => x.pc = s.sel.pc)).map (fun x => ({ x with rot := b } : Entry))
    { c with frontier := mine.foldl sortEntry (c.frontier.filter (fun x => x.pc ≠ s.sel.pc)) })

/-- A store, atomic or engine command clears the rotated flag and restarts the spin-park count (R33, R39). -/
def clearSpin (s : State) : State := (setRot s false).modChain s.sel.chain (fun c => { c with spin := [] })

/-! ## Taking a trap (R159 to R161, R182, R183) -/

/-- A lane's own first cause and the TVAL that belongs to it. -/
structure LaneFault where
  lane : Nat
  cause : Nat
  tval : Nat
deriving DecidableEq, Repr, Inhabited

/-- The rank of a cause (R183). -/
def causeRank (c : Nat) : Nat :=
  if c = 1 ∨ c = 2 ∨ c = 3 ∨ c = 4 ∨ c = 0x22 then 1
  else if c = 0x0C ∨ c = 0x21 then 2
  else if c = 8 ∨ c = 9 then 3
  else if c = 0x0A then 4
  else if c = 0x0B then 5
  else if c = 0x18 then 6
  else if c = 0x10 ∨ c = 0x11 then 7
  else if c = 0x12 ∨ c = 0x13 then 8
  else if c = 0x15 then 9
  else if c = 0x14 then 10
  else 11

/-- Of two lane faults, the one that is reported: higher rank, then lower lane (R183). -/
def worse (a b : LaneFault) : LaneFault :=
  if causeRank b.cause < causeRank a.cause ∨ (causeRank b.cause = causeRank a.cause ∧ b.lane < a.lane) then b else a

/-- The reported fault of a list. -/
def reported : List LaneFault → LaneFault
  | [] => default
  | f :: r => r.foldl worse f

def faultMask (fs : List LaneFault) : Mask := fs.foldl (fun m f => m ||| laneBit f.lane) 0

/-- The CAUSE register (R159). -/
def causeWord (log : Bool) (lanes : Mask) (f : LaneFault) : W32 :=
  BitVec.ofNat 32 (2 ^ 31 + (if log then 2 ^ 30 else 0) + countLanes lanes * 2 ^ 16 + f.lane * 2 ^ 8 + f.cause)

/-- The fault that a record reports. -/
def recFault (r : Rec) : LaneFault :=
  { lane := bits r.cause.toNat 12 8, cause := bits r.cause.toNat 7 0, tval := r.tval.toNat }

/-- LANECAUSE keeps a lane's first cause since it last re-entered the frontier (R161). -/
def noteCauses (c : Chain) (fs : List LaneFault) : Chain :=
  { c with lanecause := fs.foldl (fun m f => if Cells.get 0 m f.lane = 0 then Cells.set 0 m f.lane f.cause else m)
                          c.lanecause }

/-- The trap registers of the chain take a record's words. -/
def setTrapRegs (c : Chain) (r : Rec) : Chain := { c with cause := r.cause, tpc := r.tpc, tval := r.tval }

/-- A record of the same instruction that later causes may still join (R183). Faults of its issue check (LOG = 0) and of its
writes at the memory side (LOG = 1) keep a record each (DESIGN CHOICE, log entry 91). -/
def joinable (s : State) (chain seq : Nat) (log : Bool) : Option (Nat × Rec) :=
  s.recs.find? (fun e => decide (e.2.chain = chain ∧ e.2.seq = seq ∧ e.2.token = none ∧ e.2.log = log) &&
    decide (e.2.loc = .engine))

/-- Makes or extends the trap record of an instruction's faults: its identifier and the state. -/
def record (s : State) (chain seq pc : Nat) (log : Bool) (fs : List LaneFault) (detail : Nat) : Nat × State :=
  match s.chain? chain with
  | none => (0, s)
  | some c =>
    match joinable s chain seq log with
    | some (rid, r) =>
      let lanes := r.lanes ||| faultMask fs
      let f := worse (recFault r) (reported fs)
      let r' := { r with lanes, cause := causeWord log lanes f, tval := BitVec.ofNat 64 f.tval,
                         detail := if f = recFault r then r.detail else detail }
      (rid, { s with recs := Tab.put s.recs rid r' }.setChain chain (setTrapRegs (noteCauses c fs) r'))
    | none =>
      let f := reported fs
      let lanes := faultMask fs
      let rid := s.nextId
      let r : Rec :=
        { ctx := c.ctx, part := c.part, chain, seq, cause := causeWord log lanes f, tpc := BitVec.ofNat 32 pc,
          tval := BitVec.ofNat 64 f.tval, lanes, detail, log, startFrom := c.ctx }
      (rid, ({ s with nextId := rid + 1, recs := Tab.put s.recs rid r }).setChain chain
              (setTrapRegs (noteCauses c fs) r))

/-- Takes a trap at the issuing word: the faulting lanes form a parked sub-chain and a record is made (R182). -/
def trapLanes (s : State) (fs : List LaneFault) (detail : Nat := 0) : State :=
  if fs.isEmpty then s
  else
    let (rid, s1) := record s s.sel.chain s.sel.seq s.sel.pc false fs detail
    s1.modChain s.sel.chain (fun c => c.park (faultMask fs) (.trap rid) s.sel.pc s.sel.prio)

/-- Every active lane faults with one cause. -/
def trapAll (s : State) (cause tval : Nat) : State :=
  trapLanes s ((lanesOf s.sel.act).map (fun l => { lane := l, cause, tval }))

/-- An instruction all of whose active lanes fault: the trap, then the issue's end. -/
def trapIssue (s : State) (h : Hdr) (cause tval : Nat) : State := advanceUniform (trapAll s cause tval) h

/-! ## Lanes that come back -/

/-- Lanes of one chain re-enter its frontier from a park, unless a pending record takes them; those that do not re-enter keep
the records after it (R182). A lane that re-enters has no LANECAUSE (R161). -/
def reenterOne (s : State) (chain : Nat) (m : Mask) (pc prio : Nat) : State :=
  match s.chain? chain with
  | none => s
  | some c =>
    let c0 := c.unparkLanes m
    let step (acc : Chain × Mask × List (Nat × Mask)) (l : Nat × Mask) : Chain × Mask × List (Nat × Mask) :=
      let hit := l.2 &&& acc.2.1
      let rest := if l.2 &&& ~~~hit = 0 then acc.2.2 else acc.2.2 ++ [(l.1, l.2 &&& ~~~hit)]
      if hit = 0 then (acc.1, acc.2.1, rest)
      else match Tab.find s.recs l.1 with
        | some r =>
          match r.loc with
          | .resolved 2 => (acc.1.endLanes hit, acc.2.1 &&& ~~~hit, rest)
          | .resolved _ => (acc.1, acc.2.1, rest)
          | _ => (acc.1.park hit (.trap l.1) pc prio, acc.2.1 &&& ~~~hit, rest)
        | none => (acc.1, acc.2.1, rest)
    let r := c0.latch.foldl step (c0, m, [])
    let c2 : Chain := { r.1 with latch := r.2.2.map (fun l => (l.1, l.2 &&& r.1.live)) |>.filter (fun l => l.2 ≠ 0),
                                 lanecause := (lanesOf r.2.1).foldl (fun t l => Cells.erase t l) r.1.lanecause }
    s.setChain chain { (c2.move r.2.1 pc prio) with eligSince := max c2.eligSince (s.coreAt (coreOf chain)).cc }

/-- A park of a chain ends, and with it that of its partner's lanes which share the instruction that parked them (R188). -/
def reenter (s : State) (chain : Nat) (q : Parked) (pc : Nat) : State :=
  let s1 := reenterOne s chain q.lanes pc q.prio
  match (s.chain? chain).bind (·.pair) with
  | none => s1
  | some j => ((Tab.get {} s.chains j).parked.filter (fun x => decide (x.why = q.why ∧ x.pc = q.pc ∧ x.lanes &&& q.lanes ≠ 0))).foldl
      (fun s x => reenterOne s j (x.lanes &&& q.lanes) pc q.prio) s1

/-- Lanes of a chain join a record: those in the frontier park where they stand, parked ones when they are released. -/
def parkFor (s : State) (ch rid : Nat) (m : Mask) : State :=
  s.modChain ch (fun c =>
    let held := c.parked.foldl (fun a q => if q.why = .trap rid then a else a ||| (q.lanes &&& m)) 0
    let c1 := (c.frontier.filter (fun e => e.lanes &&& m ≠ 0)).foldl (fun c e => c.park (e.lanes &&& m) (.trap rid) e.pc e.prio) c
    { c1 with latch := if held = 0 then c1.latch else c1.latch ++ [(rid, held)] })

/-- A chain's arrival phase and pending bit at a barrier. -/
def arrival (c : Chain) (obj : Nat) : Nat × Bool := Cells.get (0, false) c.bars obj

/-- A usable core of a site (R51). -/
def usable (s : State) (core : Nat) : Bool := !(s.offCores.contains core) && !(s.offSites.contains (siteOf core)) && !(s.coreAt core).fenced

/-! ## The host -/

/-- The CXL ports present their devices: every island has finished its bring-up, or has been fenced in it (R466). Before that no
event of the host has any effect. -/
def hostUp (s : State) : Bool := (List.range 16).all (fun i => let x := Cells.get {} s.islands i; x.up || x.fenced)

end Sys2Proof.Machine
end

