-- ==== Sys2Proof/Machine/Tiles.lean ====
section
/-!
DEFINITION. The geometry of bound tensors (R364 to R368): descriptors from and to bytes, validity, and the tile and
tensor line of an address.
-/
namespace Sys2Proof.Machine

namespace TDesc

def ofNat (x : Nat) : TDesc × Nat :=
  let t := bits x 127 120
  ({ base := bits x 63 0, d1 := bits x 79 64, d2 := bits x 95 80, d3 := bits x 111 96, fmt := bits x 119 112,
     l1 := bits t 2 0, l2 := bits t 5 3, l3 := bits t 7 6, p2 := bits x 159 128, p3 := bits x 191 160,
     halo := bits x 199 192 }, bits x 255 200)

def t1 (d : TDesc) : Nat := 2 ^ d.l1
def t2 (d : TDesc) : Nat := 2 ^ d.l2
def t3 (d : TDesc) : Nat := 2 ^ d.l3
def size (d : TDesc) : Nat := Fmt.size d.fmt false
def n1 (d : TDesc) : Nat := ceilDiv d.d1 d.t1
def n2 (d : TDesc) : Nat := ceilDiv d.d2 d.t2
def n3 (d : TDesc) : Nat := ceilDiv d.d3 d.t3
def tiles (d : TDesc) : Nat := d.n1 * d.n2 * d.n3
def tileBytes (d : TDesc) : Nat := d.t1 * d.t2 * d.t3 * d.size
/-- Tensor lines of a tile. -/
def lines (d : TDesc) : Nat := d.tileBytes / 256
def rangeLen (d : TDesc) : Nat := d.n3 * d.t3 * d.p3
/-- The address of an element (R364). -/
def addr (d : TDesc) (i1 i2 i3 : Nat) : Nat := d.base + i1 * d.size + i2 * d.p2 + i3 * d.p3
/-- The coordinates of tile t. -/
def coords (d : TDesc) (t : Nat) : Nat × Nat × Nat := (t % d.n1, t / d.n1 % d.n2, t / d.n1 / d.n2)
/-- First and last byte of a tile. -/
def first (d : TDesc) (t : Nat) : Nat :=
  let (a, b, c) := d.coords t
  d.addr (a * d.t1) (b * d.t2) (c * d.t3)
def last (d : TDesc) (t : Nat) : Nat :=
  let (a, b, c) := d.coords t
  d.addr (a * d.t1) (b * d.t2 + d.t2 - 1) (c * d.t3 + d.t3 - 1) + d.t1 * d.size - 1

/-- The addresses of a tile's sectors in the order of R364. -/
def sectors (d : TDesc) (t : Nat) : List Nat :=
  let (a, b, c) := d.coords t
  (List.range d.t3).flatMap (fun j3 => (List.range d.t2).flatMap (fun j2 =>
    (List.range (d.t1 * d.size / 64)).map (fun q => d.addr (a * d.t1) (b * d.t2 + j2) (c * d.t3 + j3) + 64 * q)))

/-- The tile that holds an address, if any: the linear index and the sector's place in the tile. -/
def tileAt (d : TDesc) (va : Nat) : Option (Nat × Nat) :=
  if va < d.base ∨ d.p2 = 0 ∨ d.p3 = 0 then none
  else
    let o := va - d.base
    let i3 := o / d.p3
    let r := o % d.p3
    let i2 := r / d.p2
    let q := r % d.p2
    let c := i3 / d.t3
    let b := i2 / d.t2
    let a := q / (d.t1 * d.size)
    if c < d.n3 ∧ b < d.n2 ∧ a < d.n1 then
      some ((c * d.n2 + b) * d.n1 + a,
        ((i3 % d.t3) * d.t2 + i2 % d.t2) * (d.t1 * d.size / 64) + (q % (d.t1 * d.size)) / 64)
    else none

/-- The first rule of R366 that a descriptor breaks, 0 for none (0x68's TVAL); res holds the reserved bytes. -/
def check (d : TDesc) (res : Nat) : Nat :=
  let ts := d.tileBytes
  let big (n t : Nat) : Bool := decide (n = 1 ∧ t ≠ 1)
  if 2 ^ 57 ≤ d.base ∨ d.base % 64 ≠ 0 then 1
  else if d.d1 = 0 ∨ d.d2 = 0 ∨ d.d3 = 0 then 2
  else if !((1 ≤ d.fmt && d.fmt ≤ 10) || d.fmt = 14 || d.fmt = 15) then 3
  else if (d.t1 * d.size) % 64 ≠ 0 ∨ !([256, 512, 1024, 2048, 4096].contains ts) ∨ big d.d1 d.t1 ∨ big d.d2 d.t2 ∨
      big d.d3 d.t3 then 4
  else if d.p2 % 64 ≠ 0 ∨ d.p2 < d.n1 * d.t1 * d.size ∨ d.p3 % 64 ≠ 0 ∨ d.p3 < d.n2 * d.t2 * d.p2 then 5
  else if 8 < d.halo then 6
  else if 2 ^ 57 < d.base + d.rangeLen then 7
  else if res ≠ 0 then 8
  else if (List.range d.tiles).any (fun t => d.first t / 2 ^ 21 ≠ d.last t / 2 ^ 21) then 9
  else 0

end TDesc

/-- The binding of a slice whose tile holds a sector of a tag space (R369). -/
def bindOf (sl : Slice) (tag va : Nat) : Option (Bind × Nat × Nat) :=
  match sl.binds.find? (fun b => decide (b.tag = tag) && (b.desc.tileAt va).isSome) with
  | some b => (b.desc.tileAt va).map (fun t => (b, t.1, t.2))
  | none => none

/-- Whether the range of a binding of a slice covers bytes of a tag space (R366, R370). -/
def boundRange (sl : Slice) (tag a n : Nat) : Option Bind :=
  sl.binds.find? (fun b => decide (b.tag = tag) && decide (b.desc.base ≤ a) && decide (a + n ≤ b.desc.base + b.desc.rangeLen))

/-- The line a home slice holds a sector in, and its set (R368, R472). -/
def homeLine (sl : Slice) (key : Nat) : Nat × Nat :=
  let va := key % 2 ^ 51 * 64
  match bindOf sl (key / 2 ^ 51) va with
  | some (b, t, sec) =>
    (2 ^ 70 + (b.tid * 2 ^ 40 + t) * 2 ^ 8 + sec / 4, (t * b.desc.lines + sec / 4 + 769 * b.tid) % 12288)
  | none => (key / 4, va / 256 % 12288)

end Sys2Proof.Machine
end

