-- ==== Sys2Proof/Machine/Translate.lean ====
section
/-!
DEFINITION. Physical memory (HBM with page retirement, peer frames), tag spaces and homes (R119, R120), composition of
frame arrays (R421 to R423), the stage-1 walk (R418 to R420) and the memory-side TLB (R424).
A physical address is site * 2^36 + offset; a peer address is 2^62 + module * 2^50 + frame * 2^21 + offset.
-/
namespace Sys2Proof.Machine

/-! ## Keys of virtual lines -/

def vaOfKey (k : Nat) : Nat := k % 2 ^ 51 * 64
def tagOfKey (k : Nat) : Nat := k / 2 ^ 51
def pageOfKey (k : Nat) : Nat := k / 64

/-- The tag space of an address in a context (R119). -/
def tagFor (s : State) (ctx va : Nat) : Nat := if 2 ^ 56 ≤ va then 2 * (s.ctxAt ctx).part + 1 else 2 * ctx

def keyFor (s : State) (ctx va : Nat) : Nat := tagFor s ctx va * 2 ^ 51 + va / 64

/-- The root context of a partition. -/
def rootOf (s : State) (part : Nat) : Nat :=
  match Tab.find s.parts part with
  | some p => p.root.getD 0
  | none => 0

/-- The context whose tables and home list a tag space uses: the partition's root for a common half (R119, R419). -/
def tagCtx (s : State) (tag : Nat) : Nat := if tag % 2 = 0 then tag / 2 else rootOf s (tag / 2)

/-- The home slice of a region (R120). -/
def homeSite (s : State) (tag va : Nat) : Nat :=
  let l := (s.ctxAt (tagCtx s tag)).home
  l.getD (va / 2 ^ 21 % max 1 l.length) 0

def homeOfKey (s : State) (key : Nat) : Nat := homeSite s (tagOfKey key) (vaOfKey key)

/-! ## Physical memory -/

def isPeer (pa : Nat) : Bool := 2 ^ 62 ≤ pa
def paSite (pa : Nat) : Nat := pa / 2 ^ 36
/-- Spare page i of a stack stands beyond its 24,576 frames (log entry 10). -/
def sparePage (site i : Nat) : Nat := site * 2 ^ 36 + 24576 * 2 ^ 21 + i * 4096

/-- The page that stands for a physical page after retirement (R432). -/
def realPa (s : State) (pa : Nat) : Nat :=
  match Tab.find (s.sliceAt (paSite pa)).retired (pa / 4096) with
  | some i => sparePage (paSite pa) i + pa % 4096
  | none => pa

def cellsRead (m : Cells Byte) (a n : Nat) : Nat := ofBytes ((List.range n).map (fun i => Cells.get 0 m (a + i)))

def cellsWrite (m : Cells Byte) (a n v : Nat) : Cells Byte :=
  (List.range n).foldl (fun m i => Cells.set 0 m (a + i) (BitVec.ofNat 8 (v >>> (8 * i)))) m

/-- Bytes of a physical page or of a peer frame. -/
def physRead (s : State) (pa n : Nat) : Nat :=
  if isPeer pa then cellsRead s.peer (pa - 2 ^ 62) n else cellsRead s.hbm (realPa s pa) n

def physWrite (s : State) (pa n v : Nat) : State :=
  if isPeer pa then { s with peer := cellsWrite s.peer (pa - 2 ^ 62) n v }
  else { s with hbm := cellsWrite s.hbm (realPa s pa) n v }

/-- The C bit of a physical line (R288). -/
def cBit (s : State) (pa : Nat) : Bool := s.cbits.contains (realPa s pa / 256)

def setCBit (s : State) (pa : Nat) (b : Bool) : State :=
  let l := realPa s pa / 256
  { s with cbits := if b then (if s.cbits.contains l then s.cbits else l :: s.cbits) else s.cbits.filter (· ≠ l) }

/-! ## Frame arrays (R421, R422) -/

def frameV (e : W64) : Bool := e.getLsbD 63
def frameRA (e : W64) : Bool := e.getLsbD 62
def frameNum (e : W64) : Nat := (e.extractLsb' 0 22).toNat

/-- A composed entry: physical base, RA along the path, the deepest context whose own entry has RA = 0, and the path. -/
inductive Comp where
  | ok (pa : Nat) (ra : Bool) (raAt : Option (Nat × Nat)) (path : List (Nat × Nat))
  | unmapped (ctx gfn : Nat)
deriving DecidableEq, Repr, Inhabited

/-- The physical base a root entry names (R457); bit 61 marks a peer frame as in R422 (log entry 11). -/
def rootFrame (e : W64) : Nat :=
  if e.getLsbD 61 then 2 ^ 62 + (e.extractLsb' 32 6).toNat * 2 ^ 50 + (e.extractLsb' 0 15).toNat * 2 ^ 21
  else dieSite (e.extractLsb' 15 7).toNat * 2 ^ 36 + (e.extractLsb' 0 15).toNat * 2 ^ 21

/-- Composition from a context's frame down to a physical frame; the depth is at most 8 (R413). -/
def composeAt : Nat → State → Nat → Nat → Bool → Option (Nat × Nat) → List (Nat × Nat) → Comp
  | 0, _, ctx, f, _, _, _ => .unmapped ctx f
  | n + 1, s, ctx, f, ra, raAt, path =>
    let c := s.ctxAt ctx
    let e := Cells.get 0 c.frames f
    if !(frameV e) then .unmapped ctx f
    else
      let ra' := ra && frameRA e
      let raAt' := if raAt = none && !(frameRA e) then some (ctx, f) else raAt
      let path' := path ++ [(ctx, f)]
      if c.depth = 0 then .ok (rootFrame e) ra' raAt' path'
      else composeAt n s c.parent (frameNum e) ra' raAt' path'

def compose (s : State) (ctx f : Nat) : Comp := composeAt 9 s ctx f true none []

/-- The composed entry of R422 as a word. -/
def compWord (c : Comp) : W64 :=
  match c with
  | .unmapped _ _ => 0
  | .ok pa ra _ _ =>
    BitVec.ofNat 64 (2 ^ 63 + (if ra then 2 ^ 62 else 0) +
      (if isPeer pa then 2 ^ 61 + ((pa - 2 ^ 62) / 2 ^ 50) * 2 ^ 32 + (pa / 2 ^ 21) % 2 ^ 15
       else paSite pa * 2 ^ 24 + (pa % 2 ^ 36) / 2 ^ 21))

/-! ## The walk (R418 to R424, R431) -/

/-- DETAIL of R431. -/
def detailOf (lack : Nat) (walk : Bool) (level gfn : Nat) : Nat :=
  lack * 2 ^ 26 + (if walk then 2 ^ 25 + level * 2 ^ 22 else 0) + gfn % 2 ^ 22

/-- What translation answers: an entry, or a cause with its DETAIL. -/
inductive Tr where
  | ok (t : Tlb)
  | fault (cause detail : Nat)
deriving DecidableEq, Repr, Inhabited

/-- A leaf found by the walk: the CPA of the page, its permissions, and the frames on the paths of the tables. -/
inductive Leaf where
  | ok (cpa : Nat) (w x big : Bool) (tabs : List (Nat × Nat))
  | fault (cause detail : Nat)
deriving DecidableEq, Repr, Inhabited

/-- One level of the walk (R418, R419): level n - 1 of the table at a CPA. -/
def walkAt : Nat → State → Nat → Nat → Nat → List (Nat × Nat) → Leaf
  | 0, _, _, _, _, _ => .fault 0x10 0
  | n + 1, s, ctx, table, va, tabs =>
    let cpa := table + 8 * (va / 2 ^ (12 + 9 * n) % 512)
    match compose s ctx (cpa / 2 ^ 21) with
    | .unmapped l g => .fault 0x13 (detailOf l true n g)
    | .ok pa _ _ path =>
      let e := physRead s (pa + cpa % 2 ^ 21) 8
      let leaf := bit e 1
      let adr := bits e 42 12 * 4096
      if !(bit e 0) || bits e 63 43 ≠ 0 || bits e 11 4 ≠ 0 then .fault 0x10 0
      else if leaf then
        (if 2 ≤ n then .fault 0x10 0
         else if n = 1 then
           (if adr % 2 ^ 21 ≠ 0 then .fault 0x10 0
            else .ok (adr + va / 4096 % 512 * 4096) (bit e 2) (bit e 3) true (tabs ++ path))
         else .ok adr (bit e 2) (bit e 3) false (tabs ++ path))
      else if n = 0 || bits e 3 2 ≠ 0 then .fault 0x10 0
      else walkAt n s ctx adr va (tabs ++ path)

/-- The walk of a tag space's table (R419: a common-half address uses the root's). -/
def walk (s : State) (tag va : Nat) : Leaf :=
  let c := tagCtx s tag
  walkAt 5 s c (s.ctxAt c).s1root va []

/-- Whether a leaf permits an access (R418, R419). -/
def permits (w x wr ex : Bool) : Bool := (!wr || w) && (!ex || x)

/-- Walks and composes an address of a context for a write or an instruction fetch. -/
def translateWalk (s : State) (ctx va : Nat) (wr ex : Bool) : Tr :=
  let tag := tagFor s ctx va
  match walk s tag va with
  | .fault c d => .fault c d
  | .ok cpa w x big tabs =>
    if !(permits w x wr ex) then .fault 0x11 0
    else match compose s (tagCtx s tag) (cpa / 2 ^ 21) with
      | .unmapped l g => .fault 0x12 (detailOf l false 0 g)
      | .ok pa ra raAt path =>
        if !(isPeer pa) && paSite pa ≠ homeSite s tag va then .fault 0x79 0
        else .ok { page := tag * 2 ^ 45 + va / 4096, big, pa := pa + cpa % 2 ^ 21 / 4096 * 4096, w, x, ra,
                   raFail := raAt.map (fun r => detailOf r.1 false 0 r.2), ctxs := path, tabs }

/-- An entry translates a page: its own, or one of its 2 MiB leaf (R424). -/
def Tlb.covers (t : Tlb) (page : Nat) : Bool := if t.big then t.page / 512 = page / 512 else t.page = page

/-- An entry of a leaf stands for its first page. -/
def Tlb.leaf (t : Tlb) : Tlb := if t.big then { t with page := t.page / 512 * 512, pa := t.pa / 2 ^ 21 * 2 ^ 21 } else t

/-- An entry as one of its pages has it. -/
def Tlb.at (t : Tlb) (page : Nat) : Tlb := if t.big then { t with page, pa := t.pa + page % 512 * 4096 } else t

/-- Entries the memory-side TLB holds (R424); the oldest leaves first (log entry 12). -/
def tlbPut (l : List Tlb) (t : Tlb) : List Tlb := (t.leaf :: l.filter (fun x => !(x.covers t.page))).take 16384

/-- Translation at a home slice: COMMON (R419), then the TLB, then the walk, which fills the TLB. -/
def translate (s : State) (site ctx va : Nat) (wr ex : Bool) : State × Tr :=
  if 2 ^ 56 ≤ va ∧ (s.ctxAt ctx).common = false then (s, .fault 0x11 0)
  else
    let sl := s.sliceAt site
    let page := tagFor s ctx va * 2 ^ 45 + va / 4096
    match sl.tlb.find? (fun t => t.covers page) with
    | some t => (s, if permits t.w t.x wr ex then .ok (t.at page) else .fault 0x11 0)
    | none =>
      match translateWalk s ctx va wr ex with
      | .ok t => (s.setSlice site { sl with tlb := tlbPut sl.tlb t }, .ok t)
      | f => (s, f)

end Sys2Proof.Machine
end

