-- ==== Sys2Proof/Machine/Coherence.lean ====
section
/-!
DEFINITION. The caches and home slices (R119 to R132, R141, R145, R146, R154, R472): fills, evictions, recalls and the
coherent reads and writes of one sector that engines, the host and the dispatch and context engines make.
-/
namespace Sys2Proof.Machine

/-- What an access of one sector answers: done, a memory-side cause with its DETAIL, or not now. -/
inductive Res (α : Type) where
  | ok (s : State) (a : α)
  | fault (s : State) (cause detail : Nat)
  | wait
deriving Inhabited

/-- Where a home finds a sector: at the slice, or on a peer module (R423). -/
inductive At where
  | home (h : HomeSec)
  | peer (t : Tlb)
deriving DecidableEq, Repr, Inhabited

/-- The largest stamp (R123); an operation that would pass it is held (R128). -/
def stampMax : Nat := 0xFFFFFF

/-! ## Messages -/

/-- The core that a message leaves, with direction 0, or that it is for, with direction 1 (R279). -/
def bodyEnd : Body → Option (Nat × Nat)
  | .read acc _ _ _ _ _ _ => some (acc.core, 0)
  | .store acc _ _ _ _ _ _ _ _ _ _ => some (acc.core, 0)
  | .atom acc _ _ _ _ _ _ _ _ _ _ _ _ _ => some (acc.core, 0)
  | .ticket _ (.atom acc _ _ _ _ _ _ _ _ _ _ _ _ _) => some (acc.core, 0)
  | .writeBack _ core _ _ _ _ => some (core, 0)
  | .cleanReturn _ core _ => some (core, 0)
  | .freeze core _ _ => some (core, 0)
  | .publish core _ _ _ _ _ => some (core, 0)
  | .spinReg chain _ _ _ => some (coreOf chain, 0)
  | .readAns acc _ _ _ _ _ _ _ _ _ => some (acc.core, 1)
  | .grant _ core _ _ => some (core, 1)
  | .atomAns _ core _ _ _ _ _ _ _ _ _ _ => some (core, 1)
  | .forward _ owner => some (owner, 1)
  | .pageFlush _ core => some (core, 1)
  | .fault _ core _ _ _ _ _ _ _ => some (core, 1)
  | .logged core _ _ _ => some (core, 1)
  | .spinWake chain _ => some (coreOf chain, 1)
  | _ => none

/-- The cluster ports that a message between two dies passes: the one it leaves by or the one it comes in by. -/
def portsOf (src dst : Nat) (b : Body) : List (Nat × Nat) :=
  match bodyEnd b with
  | some (core, d) => if src ≠ dst ∧ siteOf core = (if d = 0 then src else dst) then [(clusterOf core, d)] else []
  | none => []

/-- Sends a message that has given ports to pass; its epoch is the sender's (R129). -/
def sendBy (s : State) (cls line src dst : Nat) (ep : Bool) (body : Body) (ports : List (Nat × Nat)) : State :=
  { s with nextId := s.nextId + 1,
           msgs := s.msgs ++ [{ id := s.nextId, cls, line, src, dst, ep, body, ports }] }

/-- Sends a message. -/
def send (s : State) (cls line src dst : Nat) (ep : Bool) (body : Body) : State :=
  sendBy s cls line src dst ep body (portsOf src dst body)

def dropMsg (s : State) (id : Nat) : State := { s with msgs := s.msgs.filter (fun m => m.id ≠ id) }

def findMsg (s : State) (id : Nat) : Option Msg := s.msgs.find? (fun m => m.id = id)

/-- Messages of one class about one line between two dies arrive in order (R17). -/
def inOrder (s : State) (m : Msg) : Bool :=
  !(s.msgs.any (fun x => decide (x.id < m.id) && decide (x.cls = m.cls) && decide (x.line = m.line) &&
      decide (x.src = m.src) && decide (x.dst = m.dst)))

/-! ## Routes (R18, R19) -/

/-- The link between two neighbours: 2 * site for the one to x + 1, 2 * site + 1 for the one to y + 1. -/
def linkOf (a b : Nat) : Nat := if siteY a = siteY b then 2 * min a b else 2 * min a b + 1

def linkFenced (s : State) (cls a b : Nat) : Bool := (Cells.get {} s.links (linkOf a b)).fenced.contains cls

/-- Sites along one axis from a coordinate to another, in order. -/
def along (a b : Nat) : List Nat := if a ≤ b then (List.range (b + 1 - a)).map (· + a) else ((List.range (a + 1 - b)).map (· + b)).reverse

/-- The sites of the route between two dies (R18), x first or y first. -/
def route (a b : Nat) (xFirst : Bool) : List Nat :=
  let xs (y : Nat) : List Nat := (along (siteX a) (siteX b)).map (fun x => 16 * y + x)
  let ys (x : Nat) : List Nat := (along (siteY a) (siteY b)).map (fun y => 16 * y + x)
  if xFirst then xs (siteY a) ++ (ys (siteX b)).drop 1 else ys (siteX a) ++ (xs (siteY b)).drop 1

def routeOpen (s : State) (cls : Nat) : List Nat → Bool
  | a :: b :: r => !(linkFenced s cls a b) && routeOpen s cls (b :: r)
  | _ => true

/-- Both routes between two dies are fenced for a class. -/
def pairFenced (s : State) (cls a b : Nat) : Bool := !(routeOpen s cls (route a b true)) && !(routeOpen s cls (route a b false))

/-- The links of a message's route. -/
def linksOf (s : State) (m : Msg) : List Nat :=
  let r := route m.src m.dst (routeOpen s m.cls (route m.src m.dst true))
  (r.zip (r.drop 1)).map (fun x => linkOf x.1 x.2)

/-- The sector key of a coherence message. -/
def bodyKey : Body → Option Nat
  | .forward k _ => some k
  | .ownerData k _ _ _ => some k
  | .gone k _ _ => some k
  | .writeBack k _ _ _ _ _ => some k
  | .cleanReturn k _ _ => some k
  | .pageFlush p _ => some (p * 64)
  | .freeze _ _ k => some k
  | .publish _ _ k _ _ _ => some k
  | .backInv k => some k
  | .absorb k _ _ => some k
  | _ => none

/-- The context whose message it is: that of a sector's tag space where no access of one stands behind it. -/
def bodyCtx (s : State) : Body → Option Nat
  | .read acc _ _ _ _ _ _ => some acc.ctx
  | .readAns acc _ _ _ _ _ _ _ _ _ => some acc.ctx
  | .store acc _ _ _ _ _ _ _ _ _ _ => some acc.ctx
  | .atom acc _ _ _ _ _ _ _ _ _ _ _ _ _ => some acc.ctx
  | .ticket _ (.atom acc _ _ _ _ _ _ _ _ _ _ _ _ _) => some acc.ctx
  | .grant ch _ _ _ => (s.chain? ch).map (·.ctx)
  | .atomAns ch _ _ _ _ _ _ _ _ _ _ _ => (s.chain? ch).map (·.ctx)
  | .fault ch _ _ _ _ _ _ _ _ => (s.chain? ch).map (·.ctx)
  | .logged _ e _ _ => some e.acc.ctx
  | .spinReg ch _ _ _ => (s.chain? ch).map (·.ctx)
  | .spinWake ch _ => (s.chain? ch).map (·.ctx)
  | .queueOp ch _ _ _ _ _ _ _ _ _ _ _ _ _ => (s.chain? ch).map (·.ctx)
  | b => (bodyKey b).map (fun k => tagCtx s (tagOfKey k))

/-- The host's answer to a back-invalidate snoop. -/
def Body.isHostWait : Body → Bool
  | .backInv _ => true
  | _ => false

/-- Another message of the class competes for a rail or the port where this one arrives (R17, R25); a wait for the host's
answer counts as contention on rail 12 in any case (R454). -/
def contended (s : State) (m : Msg) : Bool :=
  let n := if m.cls < 4 then 3 else 1
  m.body.isHostWait || s.msgs.any (fun x => decide (x.id ≠ m.id) && decide (x.cls = m.cls) &&
    (decide (x.dst = m.dst) || (decide (x.line % n = m.line % n) && (linksOf s x).any (fun l => (linksOf s m).contains l))))

/-- A message is taken at its end: the slots it lost on the way count for its context and class (R25), and a route taken y
first is reported (R19). -/
def received (s : State) (m : Msg) : State :=
  let s1 := dropMsg s m.id
  match bodyCtx s m.body with
  | none => s1
  | some ctx =>
    s1.modCtx ctx (fun c =>
      let c1 : Ctx := if contended s m then { c with lost := Cells.set 0 c.lost m.cls (Cells.get 0 c.lost m.cls + Config.lostSlots m.id) } else c
      let at_ := m.cls * 2 ^ 16 + hops m.src m.dst * 2 ^ 8 + stitches m.src m.dst
      if routeOpen s m.cls (route m.src m.dst true) then c1
      else { c1 with rerouted := Cells.set 0 c1.rerouted at_ (Cells.get 0 c1.rerouted at_ + 1) })

/-- A message may be taken: it has passed its ports, its ends are not fenced from each other, and those sent before it on
its rail have been taken (R17, R19, R279). -/
def due (s : State) (m : Msg) : Bool := inOrder s m && m.ports.isEmpty && !(s.fencedPairs.contains (m.cls, m.src, m.dst))

/-- The activity class of an access that needs no message of its own (R16). -/
def Acc.cls (acc : Acc) : Nat := if acc.tile then 3 else if acc.eng then 2 else 0

/-- No fence stands between a core's die and a home for an access. -/
def reaches (s : State) (acc : Acc) (site : Nat) : Bool :=
  !(s.fencedPairs.contains (acc.cls, siteOf acc.core, site) || s.fencedPairs.contains (acc.cls, site, siteOf acc.core))

/-- An access that needs no message passes its cluster's port both ways: its beats wait there (R279). -/
def viaPort (s : State) (acc : Acc) : State :=
  s.modCluster (clusterOf acc.core) (fun u => { u with beats := u.beats ++ [(0, acc.ctx, acc.cls), (1, acc.ctx, acc.cls)] })

/-! ## Wakes and reports -/

/-- Wakes the chains registered at a point for a sector (R39). -/
def wake (s : State) (level unit key : Nat) : State :=
  let hit (r : Nat × Nat × Nat × Nat × Nat) : Bool :=
    decide (r.1 = level) && decide (r.2.1 = unit) && decide (r.2.2.1 = key)
  (s.spins.filter hit).foldl (fun s r =>
      let site := siteOf (coreOf r.2.2.2.1)
      send s 4 (key / 4) (if level = 2 then homeOfKey s key else site) site s.rebase.epoch (.spinWake r.2.2.2.1 key)) { s with spins := s.spins.filter (fun r => !(hit r)) }

/-- A contained error is reported to a context (R19, R51, R400). -/
def noteReport (s : State) (ctx cause tval : Nat) : State := s.modCtx ctx (fun c => { c with reports := c.reports ++ [(cause, tval)] })

/-- Reports an error to the partition's host mailbox and to the controller's log (R432, R471). -/
def reportError (s : State) (part cause tval : Nat) : State :=
  { s with errors := s.errors ++ [(part, cause, tval)],
           uzosa := { s.uzosa with log := s.uzosa.log ++ [(cause, tval)] } }

/-- Reports a contained error to a context and its partition. -/
def reportTo (s : State) (ctx cause tval : Nat) : State := noteReport (reportError s (s.ctxAt ctx).part cause tval) ctx cause tval

def tagPart (s : State) (tag : Nat) : Nat := if tag % 2 = 0 then (s.ctxAt (tag / 2)).part else tag / 2

/-! ## Migration logging (R433): pages wait at the engine until the buffer is written -/

/-- Enters the written page in the log of every context of its path that logs. -/
def logWrite (s : State) (key : Nat) : State :=
  if s.ctxs.all (fun e => e.2.mig = none) then s
  else
    let va := vaOfKey key
    match walk s (tagOfKey key) va with
    | .fault _ _ => s
    | .ok cpa _ _ _ _ =>
      match compose s (tagCtx s (tagOfKey key)) (cpa / 2 ^ 21) with
      | .unmapped _ _ => s
      | .ok _ _ _ path =>
        path.foldl (fun s e => s.modCtx e.1 (fun c =>
          { c with mig := c.mig.map (fun g =>
              { g with pages := g.pages ++ [e.2 * 2 ^ 21 + cpa % 2 ^ 21 / 4096 * 4096] }) })) s

/-! ## Copies below the home -/

def l1Find (s : State) (core key : Nat) : Option Copy := Tab.find (s.coreAt core).l1 key
def l2Find (s : State) (clu key : Nat) : Option Copy := Tab.find (s.clusterAt clu).l2 key

def l1Set (s : State) (core key : Nat) (c : Copy) : State :=
  s.modCore core (fun k => { k with l1 := Tab.put k.l1 key c })
def l2Set (s : State) (clu key : Nat) (c : Copy) : State :=
  s.modCluster clu (fun k => { k with l2 := Tab.put k.l2 key c })

/-- Removes a sector copy; the line's tag goes with its last sector. -/
def l1Erase (s : State) (core key : Nat) : State :=
  s.modCore core (fun k =>
    let l1 := Tab.erase k.l1 key
    { k with l1, lru := if l1.any (fun e => e.1 / 4 = key / 4) then k.lru else k.lru.filter (· ≠ key / 4) })
def l2Erase (s : State) (clu key : Nat) : State :=
  s.modCluster clu (fun k =>
    let l2 := Tab.erase k.l2 key
    { k with l2, lru := if l2.any (fun e => e.1 / 4 = key / 4) then k.lru else k.lru.filter (· ≠ key / 4) })

def touch (l : List Nat) (x : Nat) : List Nat := x :: l.filter (· ≠ x)

/-- A cluster cache's line is used (R472). -/
def l2Touch (s : State) (clu key : Nat) : State := s.modCluster clu (fun k => { k with lru := touch k.lru (key / 4) })

/-- An access is served at a cluster-cache sector, which takes what it leaves there. -/
def l2Serve (s : State) (clu key : Nat) (c : Copy) : State := l2Touch (l2Set s clu key c) clu key

/-- Before a logged sector leaves the L1, the core takes a monument of the context (R152). -/
def exitMonument (s : State) (core key : Nat) : State :=
  (s.coreAt core).mons.foldl (fun s e =>
    if e.2.log.any (fun x => match x with | .sector k _ => decide (k = key) | _ => false)
    then monument s core e.1 else s) s

/-! ## The home slice -/

def homeFind (s : State) (site key : Nat) : Option HomeSec := Tab.find (s.sliceAt site).secs key

def homeSet (s : State) (site key : Nat) (h : HomeSec) : State :=
  s.modSlice site (fun sl => { sl with secs := Tab.put sl.secs key h })

/-! ## Epochs (R128, R129) -/

/-- What a rebase lowers every clock and stamp by. -/
def lowerT (t : Nat) : Nat := t - 0x400000

/-- The sweep of a cache below the home: stamps lowered, expired clean copies dropped. -/
def sweepCopies (l : Tab Copy) : Tab Copy :=
  (l.filter (fun e => !((e.2.st = .L || e.2.st = .LC) && !e.2.dirty && e.2.own.isNone && decide (e.2.umask = 0) &&
      decide (e.2.rts < 0x400000)))).map
    (fun e => if e.2.st = .Q then e else (e.1, { e.2 with wts := lowerT e.2.wts, rts := lowerT e.2.rts }))

def keepLines (lru : List Nat) (l : Tab Copy) : List Nat := lru.filter (fun x => l.any (fun e => e.1 / 4 = x))

/-- The sweep of a cluster cache. -/
def sweepL2 (s : State) (clu : Nat) : State :=
  s.modCluster clu (fun k =>
    let l2 := sweepCopies k.l2
    { k with l2, lru := keepLines k.lru l2, epoch := !k.epoch })

/-- The sweep of a last-level slice: its floors are stamps too. -/
def sweepSlice (s : State) (site : Nat) : State :=
  s.modSlice site (fun sl =>
    { sl with
      secs := sl.secs.map (fun e => (e.1, { e.2 with wts := lowerT e.2.wts, rts := lowerT e.2.rts })),
      binds := sl.binds.map (fun b => { b with fl := lowerT b.fl }),
      given := sl.given.map (fun e => (e.1, lowerT (e.2 - 1) + 1)),
      floor := lowerT sl.floor, floors := sl.floors.map (fun f => (f.1, f.2.1, lowerT f.2.2)),
      epoch := !sl.epoch })

/-- A unit that a message of the newer epoch reaches reads its entries as swept (R129). -/
def cluFor (s : State) (core : Nat) : State :=
  let ep := (s.coreAt core).epoch
  if (s.clusterAt (clusterOf core)).epoch != ep && ep == s.rebase.epoch then sweepL2 s (clusterOf core) else s

def homeFor (s : State) (site : Nat) (ep : Bool) : State :=
  if (s.sliceAt site).epoch != ep && ep == s.rebase.epoch then sweepSlice s site else s

/-- A stamp of a unit of one epoch as a unit of another, not older, reads it. -/
def stampTo (sent here : Bool) (t : Nat) : Nat := if sent == here then t else lowerT t

/-- The core and its cluster cache are of one epoch. -/
def cluOk (s : State) (core : Nat) : Bool := (s.clusterAt (clusterOf core)).epoch == (s.coreAt core).epoch

/-- The owner's answer to a recall: its data and stamps, taken from its L1, or from a write-back on its way (R154). The
owner keeps a clean L copy. -/
def recallOwner (s0 : State) (site key : Nat) (h0 : HomeSec) : State × HomeSec :=
  match h0.own with
  | none => (s0, h0)
  | some x =>
    let ep := (s0.coreAt x).epoch
    let s := homeFor s0 site ep
    let h := (homeFind s site key).getD h0
    match s.msgs.find? (fun m => match m.body with
        | .writeBack k c _ _ _ _ => decide (k = key ∧ c = x)
        | .cleanReturn k c _ => decide (k = key ∧ c = x)
        | _ => false) with
    | some m =>
      let cv := stampTo m.ep (s.sliceAt site).epoch
      let h' := match m.body with
        | .writeBack _ _ d w r _ =>
          { h with own := none, st := .L, data := d, wts := cv w, rts := max h.rts (cv r), dirty := true }
        | .cleanReturn _ _ r => { h with own := none, st := .L, rts := max h.rts (cv r) }
        | _ => h
      (homeSet (dropMsg s m.id) site key h', h')
    | none =>
      let cv := stampTo ep (s.sliceAt site).epoch
      match l1Find s x key with
      | some c =>
        if c.st = .O then
          let s1 := exitMonument s x key
          let h' := { h with own := none, st := .L, data := c.data, wts := cv c.wts, rts := max h.rts (cv c.rts),
                             dirty := h.dirty || c.dirty }
          (homeSet (l1Set s1 x key { c with st := if c.umask = 0 then SSt.L else SSt.U, dirty := false }) site key h', h')
        else
          let h' := { h with own := none, st := .L }
          (homeSet s site key h', h')
      | none =>
        let h' := { h with own := none, st := .L }
        (homeSet s site key h', h')

/-- A sector with nothing pending at its home. -/
def quiet (h : HomeSec) : Bool := h.st ≠ .F && h.st ≠ .X && h.st ≠ .Z && h.queue.isEmpty

/-- The fill floor remembers the stamps of a sector that leaves the slice (R130, R371). -/
def raiseFloor (sl : Slice) (key rts : Nat) : Slice :=
  match bindOf sl (tagOfKey key) (vaOfKey key) with
  | some (b, _, _) => { sl with binds := sl.binds.map (fun x => if x.obj = b.obj then { x with fl := max x.fl rts } else x) }
  | none =>
    -- a range that a TFREE left keeps a floor of its own (R376)
    if sl.floors.any (fun f => f.1 ≤ key ∧ key ≤ f.2.1) then
      { sl with floors := sl.floors.map (fun f => if f.1 ≤ key ∧ key ≤ f.2.1 then (f.1, f.2.1, max f.2.2 rts) else f) }
    else { sl with floor := max sl.floor rts }

/-- A sector leaves the slice: recalled, written to HBM if dirty, its stamps kept in the floor. -/
def homeEvict (s : State) (site key : Nat) : State :=
  match homeFind s site key with
  | none => s
  | some h =>
    let (s1, h1) := recallOwner s site key h
    let s2 := if h1.dirty then physWrite s1 h1.pa 64 h1.data.toNat else s1
    s2.modSlice site (fun sl => raiseFloor { sl with secs := Tab.erase sl.secs key } key h1.rts)

/-- Marks a line used and evicts the least recently used quiet line of a set of more than 16 (R472). -/
def homeTouch (s : State) (site key : Nat) : State :=
  let sl := s.sliceAt site
  let ln := homeLine sl key
  let lru := ln :: sl.lru.filter (fun x => x ≠ ln)
  let s1 := s.setSlice site { sl with lru }
  let same := lru.filter (fun x => x.2 = ln.2)
  if same.length ≤ 16 then s1
  else
    let secsOf (x : Nat × Nat) := (sl.secs.filter (fun e => homeLine sl e.1 = x))
    match same.reverse.find? (fun x => x ≠ ln && (secsOf x).all (fun e => quiet e.2)) with
    | none => s1
    | some v =>
      let s2 := (secsOf v).foldl (fun s e => homeEvict s site e.1) s1
      s2.modSlice site (fun sl => { sl with lru := sl.lru.filter (fun x => x ≠ v) })

/-- A line that is not resident finds no way of its set that it may take (R472): every line there has something pending. -/
def setFull (s : State) (site key : Nat) : Bool :=
  let sl := s.sliceAt site
  let ln := homeLine sl key
  let same := sl.lru.filter (fun x => x.2 = ln.2)
  !(same.contains ln) && decide (16 ≤ same.length) &&
    same.all (fun x => sl.secs.any (fun e => decide (homeLine sl e.1 = x) && !(quiet e.2)))

/-- The stamps of a sector filled from HBM: FL for a tensor line (R371), those that a flush of its page gave it (R132), the floor of
a freed binding's range (R376), else free above the floor (log entry 7). -/
def fillStamp (s : State) (site key : Nat) : Nat :=
  let sl := s.sliceAt site
  match bindOf sl (tagOfKey key) (vaOfKey key), Cells.get 0 sl.given key with
  | some (b, _, _), _ => b.fl
  | none, t + 1 => t
  | none, 0 =>
    match sl.floors.filter (fun f => f.1 ≤ key ∧ key ≤ f.2.1) with
    | [] => max sl.floor (Config.fillStamp s.tick % 2 ^ 24)
    | fs => fs.foldl (fun a f => max a f.2.2) 0

/-- The 256 stored bytes of the physical line of an address. -/
def lineBytes (s : State) (pa : Nat) : List Byte := toBytes 256 (physRead s (pa / 256 * 256) 256)

/-- Installs a sector filled from HBM. -/
def homeInstall (s : State) (site key pa : Nat) (data : Nat) (cmp : Option Nat) : State × HomeSec :=
  let t := fillStamp s site key
  let st := match cmp with
    | some xp => if 0 < xp ∧ (bindOf (s.sliceAt site) (tagOfKey key) (vaOfKey key)).isNone then .LC else .L
    | none => .L
  let h : HomeSec := { st, data := BitVec.ofNat 512 data, wts := t, rts := t, pa, cmp }
  let s1 := (homeSet { s with tick := s.tick + 1 } site key h).modSlice site (fun sl => { sl with given := Cells.erase sl.given key })
  (homeTouch s1 site key, h)

/-- Fills a sector from HBM (R121, R145, R293 to R295, R432): expanded when its line is an image. -/
def homeFill (s : State) (site key pa : Nat) (wr full : Bool) : Res At :=
  let sl := s.sliceAt site
  if sl.fencedPages.contains (pa / 4096) then .fault (reportError s (tagPart s (tagOfKey key)) 0x14 (vaOfKey key)) 0x14 0
  else if sl.lost.contains (pa / 64) && !(wr && full) then .fault s 0x14 0
  else if setFull s site key then .wait
  else
    let s0 := s.setSlice site { sl with lost := sl.lost.filter (· ≠ pa / 64) }
    if cBit s0 pa then
      let img := lineBytes s0 pa
      match imgDecode img with
      | some pl =>
        let (s1, h) := homeInstall s0 site key pa (field pl (pa % 256 / 64 * 64) 64) (some (imgHdr img).xp)
        .ok s1 (.home h)
      | none =>
        if wr then
          let s1 := setCBit (physWrite s0 (pa / 256 * 256) 256 0) pa false
          let (s2, h) := homeInstall s1 site key pa 0 none
          .ok (reportError s2 (tagPart s2 (tagOfKey key)) 0x51 (vaOfKey key / 256 * 256)) (.home h)
        else .fault s0 0x51 0
    else
      let (s1, h) := homeInstall s0 site key pa (physRead s0 pa 64) none
      .ok s1 (.home h)

/-- Sectors reached through a peer window have keys of their own: 2^100 + physical address / 64 (R464). -/
def peerKey (pa : Nat) : Nat := 2 ^ 100 + pa / 64
def isPeerKey (key : Nat) : Bool := 2 ^ 100 ≤ key
def peerKeyPa (key : Nat) : Nat := (key - 2 ^ 100) * 64

/-- The common half is closed to a context whose COMMON flag is clear, at every level (R419). -/
def barred (s : State) (ctx key : Nat) : Bool := decide (tagOfKey key % 2 = 1) && !(isPeerKey key) && !((s.ctxAt ctx).common)

/-- The home finds a sector for an access of a context: resident, filled, on a peer, or a cause (R121, R419, R423). -/
def homeGet (s : State) (ctx key : Nat) (wr ex full : Bool) : Res At :=
  if isPeerKey key then .ok s (.peer { big := false, page := 0, pa := peerKeyPa key, w := true, x := false, ra := true, raFail := none, ctxs := [] })
  else
  let va := vaOfKey key
  let site := homeOfKey s key
  if 2 ^ 56 ≤ va ∧ (s.ctxAt ctx).common = false then .fault s 0x11 0
  else match homeFind s site key with
    | some h => .ok (homeTouch s site key) (.home h)
    | none =>
      match translate s site ctx va wr ex with
      | (s1, .fault c d) => .fault s1 c d
      | (s1, .ok t) =>
        if isPeer t.pa then .ok s1 (.peer { t with pa := t.pa + va % 4096 })
        else homeFill s1 site key (t.pa + va % 4096) wr full

/-- Before a write lease, the whole line of an image is expanded for good (R146, R294). -/
def expandHome (s : State) (ctx site key : Nat) (h : HomeSec) : State × HomeSec :=
  match h.cmp with
  | none => (s, h)
  | some _ =>
    let base := key / 4 * 4
    let s1 := (List.range 4).foldl (fun s i =>
      match homeGet s ctx (base + i) false false false with
      | .ok s' (.home g) => homeSet s' site (base + i) { g with cmp := none, dirty := true, st := if g.st = .LC then .L else g.st }
      | .ok s' _ => s'
      | .fault s' _ _ => s'
      | .wait => s) s
    let s2 := setCBit s1 h.pa false
    (s2, { h with cmp := none, dirty := true, st := if h.st = .LC then .L else h.st })

/-! ## Peer sectors (R464) -/

/-- Stamps of a peer sector as its home keeps them. -/
def peerStamp (s : State) (pa : Nat) : Nat × Nat := Cells.get (0, 0) s.peerStamps pa
def setPeerStamp (s : State) (pa wts rts : Nat) : State :=
  { s with peerStamps := Cells.set (0, 0) s.peerStamps pa (wts, rts) }

/-! ## Private pages (R131, R132) -/

def pageMark (s : State) (site page : Nat) : Option PMark := Tab.find (s.sliceAt site).marks page

def setMark (s : State) (site page : Nat) (m : PMark) : State :=
  s.modSlice site (fun sl => { sl with marks := Tab.put sl.marks page m })

/-- Writes a Q sector's bytes to its home, with no stamp (R132). -/
def qWrite (s : State) (ctx key : Nat) (data : BitVec 512) : State :=
  match homeGet s ctx key true false true with
  | .ok s1 (.home h) =>
    let site := homeOfKey s1 key
    let (s2, h2) := expandHome s1 ctx site key h
    logWrite (homeSet s2 site key { h2 with data, dirty := true }) key
  | .ok s1 (.peer t) => physWrite s1 t.pa 64 data.toNat
  | .fault s1 _ _ => s1
  | .wait => s

/-- The flush of R132: the owner's dirty sectors are written back, every sector of the page takes the owner's LCLK as the
slice's epoch reads it (one that is not resident when it is filled next), its Q copies become L copies, and the page is
shared. -/
def flushPage (s00 : State) (site page owner : Nat) : State :=
  let s := homeFor s00 site (s00.coreAt owner).epoch
  let k := s.coreAt owner
  let t := k.lclk
  let th := stampTo k.epoch (s.sliceAt site).epoch t
  let away := ((List.range 64).map (fun i => 64 * page + i)).filter (fun x => (homeFind s site x).isNone)
  let qs := k.l1.filter (fun e => decide (pageOfKey e.1 = page) && decide (e.2.st = .Q))
  let s1 := qs.foldl (fun s e => exitMonument s owner e.1) s
  let s2 := qs.foldl (fun s e => if e.2.dirty then qWrite s (tagCtx s (tagOfKey e.1)) e.1 e.2.data else s) s1
  let s3 := qs.foldl (fun s e => l1Set s owner e.1 { e.2 with st := if e.2.umask = 0 then SSt.L else SSt.U, dirty := false, wts := t, rts := t }) s2
  let s4 := s3.modSlice site (fun sl =>
    { sl with secs := sl.secs.map (fun e => if pageOfKey e.1 = page then (e.1, { e.2 with wts := th, rts := th }) else e),
              given := away.foldl (fun g x => if (sl.secs.any (fun e => e.1 = x)) then g else Cells.set 0 g x (th + 1)) sl.given,
              binds := sl.binds.map (fun b =>
                if b.tag = page / 2 ^ 45 ∧ b.desc.base / 4096 ≤ page % 2 ^ 45 ∧
                    page % 2 ^ 45 * 4096 < b.desc.base + b.desc.rangeLen then { b with fl := max b.fl th } else b) })
  setMark s4 site page .shared

/-- The page class a unit's or core's access meets, marking a first access (R131): whether the sector is private to the
core. A page private to another core is flushed first. -/
def pageClass (s : State) (site key : Nat) (core : Option Nat) : State × Bool :=
  let page := pageOfKey key
  match pageMark s site page, core with
  | none, some c => (setMark s site page (.priv c), true)
  | none, none => (setMark s site page .shared, false)
  | some (.priv o), some c => if o = c then (s, true) else (flushPage s site page o, false)
  | some (.priv o), none => (flushPage s site page o, false)
  | some .shared, _ => (s, false)

/-! ## Writes that arrive at a level from below (R141) -/

/-- An evicted dirty sector as a write of the home's own, with the stamp of R126; none while it must be held. -/
def absorb? (s0 : State) (key : Nat) (data : BitVec 512) (ep : Bool) (wts0 : Nat) : Option State :=
  let ctx := tagCtx s0 (tagOfKey key)
  let s := homeFor s0 (homeOfKey s0 key) ep
  let wts := stampTo ep (s.sliceAt (homeOfKey s key)).epoch wts0
  match homeGet s ctx key true false true with
  | .ok s1 (.home h) =>
    let site := homeOfKey s1 key
    let (s2, h2) := recallOwner s1 site key h
    let (s3, h3) := expandHome s2 ctx site key h2
    let t := max wts (h3.rts + 1)
    if stampMax < t ∨ h.st = .F ∨ h.st = .X ∨ h.st = .Z then none
    else some (logWrite (wake (homeSet s3 site key { h3 with data, wts := t, rts := t, dirty := true }) 2 site key) key)
  | .ok s1 (.peer p) =>
    let (_, r) := peerStamp s1 p.pa
    let t := max wts (r + 1)
    if stampMax < t then none else some (setPeerStamp (physWrite s1 p.pa 64 data.toNat) p.pa t t)
  | .fault s1 _ _ => some s1
  | .wait => none

/-- The home takes an evicted dirty sector, at once or when it may: meanwhile it is on its way (R16, R128). -/
def homeAbsorb (s : State) (key : Nat) (data : BitVec 512) (ep : Bool) (wts : Nat) : State :=
  match absorb? s key data ep wts with
  | some s1 => s1
  | none => send s 4 (key / 4) (homeOfKey s key) (homeOfKey s key) ep (.absorb key data wts)

/-- A sector leaves the cluster cache (R472): what it owns goes to the home. -/
def l2Drop (s0 : State) (clu key : Nat) : State :=
  let s := match (l2Find s0 clu key).bind (·.own) with
    | some x => cluFor s0 x
    | none => s0
  match l2Find s clu key with
  | none => s
  | some c =>
    let c' := match c.own with
      | some x => match l1Find s x key with
        | some d =>
          let cv := stampTo (s.coreAt x).epoch (s.clusterAt clu).epoch
          if d.st = SSt.O ∧ d.pt = 1 then { c with data := d.data, wts := cv d.wts, rts := max c.rts (cv d.rts), dirty := true } else c
        | none => c
      | none => c
    let s1 := match c.own with
      | some x => match l1Find s x key with
        | some d => if d.st = .O ∧ d.pt = 1 then l1Set (exitMonument s x key) x key { d with st := .L, dirty := false } else s
        | none => s
      | none => s
    let s2 := l2Erase s1 clu key
    if c'.dirty then homeAbsorb s2 key c'.data (s.clusterAt clu).epoch (max c'.wts (c'.rts + 1)) else s2

/-- Fills or writes a sector of the cluster cache, replacing the least recently used way that may be chosen (R472). A
fill that finds no way is delivered without allocation. -/
def l2Insert (s : State) (clu key : Nat) (c : Copy) : State :=
  let k := s.clusterAt clu
  let ln := key / 4
  let room := 16 - k.ways
  let same := (k.lru.filter (fun x => x % 512 = ln % 512)).filter (· ≠ ln)
  if same.length < room then l2Set (s.setCluster clu { k with lru := touch k.lru ln }) clu key c
  else
    match same.reverse.find? (fun x => !(k.l2.any (fun e => e.1 / 4 = x && !e.2.pins.isEmpty))) with
    | none => s
    | some v =>
      let s1 := (List.range 4).foldl (fun s i => l2Drop s clu (v * 4 + i)) s
      let s2 := s1.modCluster clu (fun k => { k with lru := touch (k.lru.filter (· ≠ v)) ln })
      l2Set s2 clu key c

/-- A cluster cache recalls a sector that one of its cores owns at cluster scope (R154 within the cluster). -/
def l2Recall (s0 : State) (clu key : Nat) : State :=
  let s := match (l2Find s0 clu key).bind (·.own) with
    | some x => cluFor s0 x
    | none => s0
  match l2Find s clu key with
  | none => s
  | some c =>
    match c.own with
    | none => s
    | some x =>
      match l1Find s x key with
      | some d =>
        let cv := stampTo (s.coreAt x).epoch (s.clusterAt clu).epoch
        if d.st = .O ∧ d.pt = 1 then
          l2Set (l1Set (exitMonument s x key) x key { d with st := .L, dirty := false }) clu key
            { c with st := .O, data := d.data, wts := cv d.wts, rts := max c.rts (cv d.rts), dirty := c.dirty || d.dirty, own := none }
        else l2Set s clu key { c with own := none }
      | none => l2Set s clu key { c with own := none }

/-- The cluster cache takes an evicted dirty sector as a write of its own, recalling it first from a core that owns it
(R126, R141); a stamp too large, or a set with no way, sends it on to the home. -/
def l2Absorb (s0 : State) (core key : Nat) (c : Copy) : State :=
  let clu := clusterOf core
  let s := l2Recall (cluFor s0 core) clu key
  let own := stampTo (s.coreAt core).epoch (s.clusterAt clu).epoch (max (s.coreAt core).lclk (max c.wts (c.rts + 1)))
  match l2Find s clu key with
  | some d =>
    let t := max own (d.rts + 1)
    if stampMax < t then homeAbsorb (l2Erase s clu key) key c.data (s.clusterAt clu).epoch t
    else wake (l2Serve s clu key { d with st := .O, data := c.data, wts := t, rts := t, dirty := true, own := none }) 1 clu key
  | none =>
    let s1 := if stampMax < own then s else l2Insert s clu key { st := .O, data := c.data, wts := own, rts := own, dirty := true, pt := 1 }
    match l2Find s1 clu key with
    | some _ => wake s1 1 clu key
    | none => homeAbsorb s1 key c.data (s1.clusterAt clu).epoch own

/-- What leaving the L1 does with one sector (R132, R141, R154): a Q sector goes home without a stamp, an owned one
returns to the level that granted it. -/
def l1Leave (s : State) (core key : Nat) (c : Copy) : State :=
  let s0 := exitMonument s core key
  match c.st with
  | .Q => if c.dirty then qWrite s0 (tagCtx s0 (tagOfKey key)) key c.data else s0
  | .O =>
    if c.pt = 2 then
      let ep := (s0.coreAt core).epoch
      let site := homeOfKey s0 key
      let s1 := s0.modCore core (fun k => { k with final := Tab.put k.final key (c.wts, c.rts) })
      if c.dirty then send s1 4 (key / 4) (siteOf core) site ep (.writeBack key core c.data c.wts c.rts true)
      else send s1 4 (key / 4) (siteOf core) site ep (.cleanReturn key core c.rts)
    else if c.pt = 1 then
      let s1 := cluFor s0 core
      let cv := stampTo (s1.coreAt core).epoch (s1.clusterAt (clusterOf core)).epoch
      match l2Find s1 (clusterOf core) key with
      | some d =>
        l2Set s1 (clusterOf core) key
          { d with st := .O, data := c.data, wts := cv c.wts, rts := max d.rts (cv c.rts), dirty := d.dirty || c.dirty, own := none }
      | none => if c.dirty then l2Absorb s1 core key c else s1
    else if c.dirty then l2Absorb s0 core key c else s0
  | _ => if c.dirty then l2Absorb s0 core key c else s0

/-- Removes a sector from the L1, writing back what is dirty. -/
def l1Drop (s : State) (core key : Nat) : State :=
  match l1Find s core key with
  | none => s
  | some c => if c.umask ≠ 0 then s else l1Leave (l1Erase s core key) core key c

/-- Fills or writes a sector of the L1; the victim is the least recently used way with no U sector (R215). -/
def l1Insert (s : State) (core key : Nat) (c : Copy) : State :=
  let k := s.coreAt core
  let ln := key / 4
  let same := (k.lru.filter (fun x => x % 64 = ln % 64)).filter (· ≠ ln)
  if same.length < 4 then l1Set (s.setCore core { k with lru := touch k.lru ln }) core key c
  else
    match same.reverse.find? (fun x => !(k.l1.any (fun e => decide (e.1 / 4 = x) && decide (e.2.umask ≠ 0)))) with
    | none => l1Set (s.setCore core { k with lru := touch k.lru ln }) core key c
    | some v =>
      let s1 := (List.range 4).foldl (fun s i => l1Drop s core (v * 4 + i)) s
      let s2 := s1.modCore core (fun k => { k with lru := touch (k.lru.filter (· ≠ v)) ln })
      l1Set s2 core key c

def l1Touch (s : State) (core key : Nat) : State := s.modCore core (fun k => { k with lru := touch k.lru (key / 4) })

/-- A fill never replaces a copy in state O, U or Q (R125). -/
def l1Fill (s : State) (core key : Nat) (data : BitVec 512) (wts rts : Nat) (exp : Bool := false) : State :=
  match l1Find s core key with
  | some c =>
    if c.st = .O ∨ c.st = .Q ∨ c.dirty then s
    else l1Insert s core key { c with st := if c.st = SSt.U then SSt.U else SSt.L, data, wts, rts, bare := false, exp }
  | none => l1Insert s core key { st := .L, data, wts, rts, exp }

def l2Fill (s : State) (clu key : Nat) (data : BitVec 512) (wts rts : Nat) (cmp : Option Nat) : State :=
  let st : SSt := match cmp with
    | some xp => if 1 < xp then .LC else .L
    | none => .L
  match l2Find s clu key with
  | some c => if c.st = .O ∨ c.dirty ∨ c.own ≠ none then s else l2Insert s clu key { c with st, data, wts, rts, exp := cmp.isSome }
  | none => l2Insert s clu key { st, data, wts, rts, pt := 1, exp := cmp.isSome }

/-! ## Reading copies -/

/-- A copy that may serve an access through a compressed view, or a plain one: an expansion of an image serves no view (R147). -/
def viewServes (acc : Acc) (c : Copy) : Bool := !acc.cv || !c.exp || c.st = .O

/-- The bytes a core reads from its copy: U bytes over the copy (R143, R246). -/
def viewCopy (c : Copy) : BitVec 512 := sectorMerge c.data c.udata c.umask

/-- An L1 copy that may serve a load at a clock (R125); U bytes alone do not (R246). -/
def l1Serves (c : Copy) (clock : Nat) : Bool :=
  match c.st with
  | .O => true
  | .Q => true
  | .U => !c.bare
  | .L => clock ≤ c.rts
  | _ => false

/-- A cluster-cache copy that may serve a private or read-shared load (R125). -/
def l2Serves (c : Copy) (clock : Nat) : Bool :=
  match c.st with
  | .O => true
  | .L => clock ≤ c.rts
  | .LC => clock ≤ c.rts
  | _ => false

/-- The two units of one access agree on the epoch; otherwise it waits for the broadcast (R129). -/
def sameEpoch (s : State) (core site : Nat) : Bool := (s.coreAt core).epoch == (s.sliceAt site).epoch

/-- Stamps of peer sectors belong to the latest broadcast's epoch; a core that has not received it waits. -/
def peerEpoch (s : State) (core : Nat) : Bool := (s.coreAt core).epoch == s.rebase.epoch

/-- What a read returns: data, wts, and the clock a synchronising load takes. -/
structure Read where
  data : BitVec 512
  wts : Nat
  t : Nat
deriving DecidableEq, Repr, Inhabited

/-- A read served at the home slice for a clock: leases are extended to lease beyond it (R125); renew says the clock is
max(clock, wts) as for a synchronising load, whose L1 copy takes just that lease. The sector is not Q and its owner has been
recalled; the third is the rts of the copies filled. -/
def homeLease (s : State) (site key clock lease : Nat) (renew : Bool) (h : HomeSec) : State × Read × Nat :=
  let t := if renew then max clock h.wts else clock
  let rts := max h.rts (t + lease)
  (homeSet s site key { h with rts }, { data := h.data, wts := h.wts, t }, if renew then t + lease else rts)

/-- A lease that would pass the largest stamp is held (R128). -/
def leaseHeld (clock lease : Nat) (renew : Bool) (wts : Nat) : Bool :=
  decide (stampMax < (if renew then max clock wts else clock) + lease)

/-- A sector of the core's own private page enters its L1 as a Q copy, beneath U bytes that it already holds (R132, R143). -/
def qFill (s : State) (core key : Nat) (h : HomeSec) : State :=
  match l1Find s core key with
  | some c =>
    if c.st = .Q ∨ c.dirty then s
    else l1Set s core key { c with st := .Q, data := h.data, wts := h.wts, rts := h.rts, bare := false }
  | none => l1Insert s core key { st := .Q, data := h.data, wts := h.wts, rts := h.rts }

/-- The nearest fill of a private-class read beneath which nothing serves (R125, R230): from the cluster cache, else
from the home, filling the cluster cache and, if asked, the L1. -/
def fillPrivate (s : State) (acc : Acc) (key clock : Nat) (intoL1 : Bool) : Res Unit :=
  let clu := clusterOf acc.core
  let s0 := l2Recall (cluFor s acc.core) clu key
  if !(cluOk s0 acc.core) then .wait
  else match l2Find s0 clu key with
  | some c =>
    if l2Serves c clock then
      let s1 := l2Touch s0 clu key
      .ok (if intoL1 then l1Fill s1 acc.core key c.data c.wts c.rts c.exp else s1) ()
    else fromHome s0
  | none => fromHome s0
where
  fromHome (s : State) : Res Unit :=
    match homeGet s acc.ctx key false acc.fetch false with
    | .fault s1 c d => .fault s1 c d
    | .wait => .wait
    | .ok s1 (.peer _) => .ok s1 ()
    | .ok s1 (.home h) =>
      let site := homeOfKey s1 key
      if !(quiet h) || !(sameEpoch s1 acc.core site) || !(reaches s1 acc site) then .wait
      else
        let (s1', priv) := pageClass (viaPort s1 acc) site key (some acc.core)
        let h1 := (homeFind s1' site key).getD h
        if priv then .ok (qFill s1' acc.core key h1) ()
        else
          let (s2, h2) := recallOwner s1' site key h1
          if leaseHeld clock (s2.ctxAt acc.ctx).lease false h2.wts then .wait else
          let (s3, r, rts) := homeLease s2 site key clock (s2.ctxAt acc.ctx).lease false h2
          let s4 := l2Fill s3 (clusterOf acc.core) key r.data r.wts rts h2.cmp
          .ok (if intoL1 then l1Fill s4 acc.core key r.data r.wts rts h2.cmp.isSome else s4) ()

/-- The stored bytes of a sector of a line that is an image, where it stands (R147, R289, R294). -/
def imageNow (s : State) (ctx key : Nat) : Option (State × BitVec 512) :=
  let site := homeOfKey s key
  let sector (s : State) (pa : Nat) : BitVec 512 :=
    BitVec.ofNat 512 (field (storedView (lineBytes s pa)) (pa % 256 / 64 * 64) 64)
  match homeFind s site key with
  | some h => if h.cmp.isSome then some (s, sector s h.pa) else none
  | none =>
    match translate s site ctx (vaOfKey key) false false with
    | (s1, .ok t) =>
      let pa := t.pa + vaOfKey key % 4096
      if !(isPeer pa) && cBit s1 pa && !((s1.sliceAt site).fencedPages.contains (pa / 4096)) then some (s1, sector s1 pa) else none
    | _ => none

/-- A compressed-view read of a sector of an image: a private page's owner has written back first (R132, R147). -/
def imageAt (s : State) (ctx key : Nat) : Option (State × BitVec 512) :=
  match imageNow s ctx key with
  | none => none
  | some (s1, d) =>
    let site := homeOfKey s1 key
    match pageMark s1 site (pageOfKey key) with
    | some (.priv o) => imageNow (flushPage s1 site (pageOfKey key) o) ctx key
    | _ => some (s1, d)

/-- A coherent read of one sector for an engine or a fetch, at a read time (R148): through the L1, then at the coherence
point of the scope for renewing, else the nearest copy. LCLK is not moved. -/
def cohRead (s0 : State) (acc : Acc) (key clock : Nat) (renew : Bool) : Res Read :=
  let clu := clusterOf acc.core
  let s := cluFor s0 acc.core
  let low := !acc.nt && !acc.tns && acc.scope ≠ 4 && !acc.cv
  let hit := match l1Find s acc.core key with
    | some c => if low && l1Serves c clock then some c else none
    | none => none
  let img := if acc.cv then imageAt s acc.ctx key else none
  if barred s acc.ctx key then .fault s 0x11 0
  else if !(cluOk s acc.core) then .wait
  else match img with
  | some (s1, d) =>
    -- an image that decodes has its sector's stamps at the home, and is leased there (R146); one that does not is read
    -- as it stands (R295)
    match homeGet s1 acc.ctx key false false false with
    | .ok s2 (.home h) =>
      if !(quiet h) || !(sameEpoch s2 acc.core (homeOfKey s2 key)) || leaseHeld clock (s2.ctxAt acc.ctx).lease renew h.wts then .wait
      else
        let (s3, r, _) := homeLease s2 (homeOfKey s2 key) key clock (s2.ctxAt acc.ctx).lease renew h
        .ok s3 { r with data := d }
    | .wait => .wait
    | _ => .ok s1 { data := d, wts := 0, t := clock }
  | none =>
  match hit with
  | some c =>
    let t := max clock c.wts
    let s1 := l1Touch s acc.core key
    .ok (if renew && c.st = .O then l1Set s1 acc.core key { c with rts := max c.rts t } else s1) { data := viewCopy c, wts := c.wts, t }
  | none =>
    if low && renew && acc.scope = 0 then
      match fillPrivate s acc key clock true with
      | .fault s1 c d => .fault s1 c d
      | .wait => .wait
      | .ok s1 _ =>
        match l1Find s1 acc.core key with
        | some c =>
          let t := if c.st = .Q then clock else max clock c.wts
          if c.st = .Q then .ok s1 { data := viewCopy c, wts := c.wts, t }
          else if leaseHeld clock (s1.ctxAt acc.ctx).lease true c.wts then .wait else
          .ok (l1Set s1 acc.core key { c with rts := max c.rts (t + (s1.ctxAt acc.ctx).lease) })
            { data := viewCopy c, wts := c.wts, t }
        | none => atHome s1 low
    else if low && renew && acc.scope = 1 then atCluster s low
    else if low && !renew then
      let s0 := l2Recall s clu key
      match l2Find s0 clu key with
      | some c =>
        if l2Serves c clock then
          .ok (l1Fill (l2Touch s0 clu key) acc.core key c.data c.wts c.rts c.exp) { data := c.data, wts := c.wts, t := clock }
        else atHome s0 low
      | none => atHome s0 low
    else atHome s low
where
  atCluster (s : State) (low : Bool) : Res Read :=
    match fillPrivate s acc key clock false with
    | .fault s1 c d => .fault s1 c d
    | .wait => .wait
    | .ok s1 _ =>
      match l2Find s1 (clusterOf acc.core) key with
      | some c =>
        let t := max clock c.wts
        let rts := t + (s1.ctxAt acc.ctx).lease
        if stampMax < rts then .wait
        else .ok (l1Fill (l2Serve s1 (clusterOf acc.core) key { c with rts := max c.rts rts }) acc.core key c.data c.wts rts c.exp)
          { data := c.data, wts := c.wts, t }
      | none =>
        match l1Find s1 acc.core key with
        | some c => if c.st = .Q then .ok s1 { data := viewCopy c, wts := c.wts, t := clock } else atHome s1 low
        | none => atHome s1 low
  atHome (s : State) (low : Bool) : Res Read :=
    match homeGet s acc.ctx key false acc.fetch false with
    | .fault s1 c d => .fault s1 c d
    | .wait => .wait
    | .ok s1 (.peer t) =>
      let (w, r) := peerStamp s1 t.pa
      let c := if renew then max clock w else clock
      if !(peerEpoch s1 acc.core) || leaseHeld clock (s1.ctxAt acc.ctx).lease renew w then .wait else .ok (setPeerStamp s1 t.pa w (max r (c + (s1.ctxAt acc.ctx).lease)))
        { data := BitVec.ofNat 512 (physRead s1 t.pa 64), wts := w, t := c }
    | .ok s1 (.home h) =>
      let site := homeOfKey s1 key
      if !(quiet h) || !(sameEpoch s1 acc.core site) || !(reaches s1 acc site) then .wait
      else
        let s1 := viaPort s1 acc
        let (s2, priv) := if acc.tns then pageClass s1 site key none else pageClass s1 site key (some acc.core)
        let h1 := (homeFind s2 site key).getD h
        if priv then
          let s3 := if low then qFill s2 acc.core key h1 else s2
          match l1Find s3 acc.core key with
          | some c => .ok s3 { data := if c.bare then sectorMerge h1.data c.udata c.umask else viewCopy c, wts := c.wts, t := clock }
          | none => .ok s3 { data := h1.data, wts := h1.wts, t := clock }
        else
          let (s3, h3) := recallOwner s2 site key h1
          if leaseHeld clock (s3.ctxAt acc.ctx).lease renew h3.wts then .wait else
          let (s4, r, rts) := homeLease s3 site key clock (s3.ctxAt acc.ctx).lease renew h3
          let s5 := if !low then s4
            else if renew then l1Fill s4 acc.core key r.data r.wts rts h3.cmp.isSome
            else l1Fill (l2Fill s4 (clusterOf acc.core) key r.data r.wts rts h3.cmp) acc.core key r.data r.wts rts h3.cmp.isSome
          .ok s5 r

/-- The wait for the host's answer to a back-invalidate snoop is counted as contention on rail 12, a free number of lost slots (R25,
R454, log entry 86). -/
def hostWaited (s : State) (ctx : Nat) (h : HomeSec) : State :=
  if h.host then
    let n := Config.lostSlots s.nextId
    { s with nextId := s.nextId + 1 }.modCtx ctx (fun c => { c with lost := Cells.set 0 c.lost 4 (Cells.get 0 c.lost 4 + n) })
  else s

/-- A write performed at the home slice itself with a stamp, leaving no owned copy (R126, R148): engines, hosts, NT and
tensor-view stores, pod scope. -/
def homeWrite (s : State) (ctx : Nat) (core : Option Nat) (key : Nat) (data : BitVec 512) (mask : BitVec 64) (clock : Nat) :
    Res Nat :=
  match homeGet s ctx key true false (mask = BitVec.allOnes 64) with
  | .fault s1 c d => .fault s1 c d
  | .wait => .wait
  | .ok s1 (.peer t) =>
    let (_, r) := peerStamp s1 t.pa
    let st := max clock (r + 1)
    let new := sectorMerge (BitVec.ofNat 512 (physRead s1 t.pa 64)) data mask
    if !(match core with
         | some c => peerEpoch s1 c
         | none => true) || stampMax < st then .wait
    else .ok (setPeerStamp (physWrite s1 t.pa 64 new.toNat) t.pa st st) st
  | .ok s1 (.home h) =>
    let site := homeOfKey s1 key
    let epOk := match core with
      | some c => sameEpoch s1 c site && reaches s1 { ctx, core := c, share := 0, scope := 3, eng := true } site
      | none => true
    if !(quiet h) || !epOk then .wait
    else
      let s1 := match core with
        | some c => viaPort s1 { ctx, core := c, share := 0, scope := 3, eng := true }
        | none => s1
      let (s2, h2) := recallOwner (if core.isSome then hostWaited s1 ctx h else s1) site key h
      let (s3, h3) := expandHome s2 ctx site key h2
      let t := max clock (h3.rts + 1)
      if stampMax < t then .wait
      else
        .ok (logWrite (wake (homeSet s3 site key
              { h3 with host := false, data := sectorMerge h3.data data mask, wts := t, rts := t, dirty := true }) 2 site key) key) t

/-- A coherent write of bytes of one sector at the coherence point of a scope for an engine (R148): its stamp. -/
def cohWrite (s0 : State) (acc : Acc) (key : Nat) (data : BitVec 512) (mask : BitVec 64) (clock : Nat) : Res Nat :=
  let clu := clusterOf acc.core
  let s := cluFor s0 acc.core
  if barred s acc.ctx key then .fault s 0x11 0
  else if !(cluOk s acc.core) then .wait
  else match l1Find s acc.core key with
  | some c =>
    if c.st = .Q && !acc.tns then intoQ s c
    else if acc.scope = 0 && l1Serves c clock then stampL1 s c
    else away s clu
  | none => away s clu
where
  stampL1 (s : State) (c : Copy) : Res Nat :=
    let t := max clock (c.rts + 1)
    if stampMax < t then .wait
    else
      .ok (wake (l1Set (l1Touch s acc.core key) acc.core key
        { c with st := .O, pt := if c.st = .O then c.pt else 0, data := sectorMerge c.data data mask, wts := t, rts := t,
                 dirty := true }) 0 acc.core key) t
  intoQ (s : State) (c : Copy) : Res Nat :=
    .ok (l1Set s acc.core key { c with data := sectorMerge c.data data mask, dirty := true }) 0
  away (s : State) (clu : Nat) : Res Nat :=
    if acc.scope = 0 then
      match fillPrivate s acc key clock true with
      | .fault s1 c d => .fault s1 c d
      | .wait => .wait
      | .ok s1 _ =>
        match l1Find s1 acc.core key with
        | some c => if c.st = .Q then intoQ s1 c else stampL1 s1 c
        | none => homeWrite s1 acc.ctx (some acc.core) key data mask clock
    else if acc.scope = 1 then
      match fillPrivate s acc key clock false with
      | .fault s1 c d => .fault s1 c d
      | .wait => .wait
      | .ok s1 _ =>
        match l2Find (l2Recall s1 clu key) clu key with
        | some c =>
          let t := max clock (c.rts + 1)
          if stampMax < t then .wait
          else
            .ok (wake (l2Serve (l2Recall s1 clu key) clu key
              { c with st := .O, data := sectorMerge c.data data mask, wts := t, rts := t, dirty := true }) 1 clu key) t
        | none =>
          match l1Find s1 acc.core key with
          | some c => if c.st = .Q then intoQ s1 c else homeWrite s1 acc.ctx (some acc.core) key data mask clock
          | none => homeWrite s1 acc.ctx (some acc.core) key data mask clock
    else
      let site := homeOfKey s key
      match homeGet s acc.ctx key true false (mask = BitVec.allOnes 64) with
      | .ok s1 (.home _) =>
        let (s2, priv) := if acc.tns then pageClass s1 site key none else pageClass s1 site key (some acc.core)
        if priv then
          match homeFind s2 site key with
          | some h =>
            let s3 := qFill s2 acc.core key h
            match l1Find s3 acc.core key with
            | some c => intoQ s3 c
            | none => .wait
          | none => .wait
        else homeWrite s2 acc.ctx (some acc.core) key data mask clock
      | .ok s1 (.peer _) => homeWrite s1 acc.ctx (some acc.core) key data mask clock
      | .fault s1 c d => .fault s1 c d
      | .wait => .wait

end Sys2Proof.Machine
end

