-- ==== Sys2Proof/Machine/Access.lean ====
section
/-!
DEFINITION. What every access goes through: locations (R51), the issue checks of R116 to R118 with R319 and R464, the
easement table (R149, R150), typed buffers, cluster-shared space and presence bits (R115, R257), peer windows (R464) and
the ordering waits of R135, R136 and R148.
-/
namespace Sys2Proof.Machine

/-! ## Location (R51, R117) -/

/-- The virtual die of a core in a context's plat. -/
def vdieOf (s : State) (ctx core : Nat) : Nat :=
  (firstBelow (s.ctxAt ctx).plat.length (fun i => decide (((s.ctxAt ctx).plat.getD i default).site = siteOf core))).getD 0

/-- Dense core count of a virtual die. -/
def ncoreOf (s : State) (ctx v : Nat) : Nat := ((s.ctxAt ctx).plat.getD v default).cores.length

/-- The context-dense number of a virtual die's core 0 (R51). -/
def firstCore (s : State) (ctx v : Nat) : Nat := (List.range v).foldl (fun a i => a + ncoreOf s ctx i) 0

/-- The index of a core within its die's dense numbering. -/
def denseOf (s : State) (ctx core : Nat) : Nat :=
  let l := ((s.ctxAt ctx).plat.getD (vdieOf s ctx core) default).cores
  (firstBelow l.length (fun i => decide (l.getD i 0 = core % 64))).getD 0

/-- The CORE register (R51). -/
def coreReg (s : State) (ctx core : Nat) : Nat :=
  core % 8 * 2 ^ 16 + (firstCore s ctx (vdieOf s ctx core) + denseOf s ctx core) % 2 ^ 14

/-- The home check of R117 for a core of a context. -/
def homeOk (s : State) (ctx core : Nat) (p : Ptr) : Bool :=
  let die := decide (p.hdie = vdieOf s ctx core)
  let clu := decide (p.hclu = core / 8 % 8)
  match p.scope with
  | 0 => die && clu && decide (p.hcore = core % 8)
  | 1 => die && clu
  | 2 => die
  | _ => decide (p.hdie < (s.ctxAt ctx).plat.length)

/-- A pointer with its home set to a core's location (R217, R219). -/
def atHere (s : State) (ctx core : Nat) (p : Ptr) : Ptr :=
  { p with hdie := vdieOf s ctx core, hclu := core / 8 % 8, hcore := core % 8 }

/-! ## Spaces -/

/-- Whether a space holds cached, stamped sectors. -/
def isGlobal (space : Nat) : Bool := space = 0 || space = 6

/-- The tag space that an access is matched under (R119, R150). -/
def tagIn (s : State) (ctx space a : Nat) : Nat := if isGlobal space then tagFor s ctx a else 2 * ctx

/-- The physical address of a logical accumulator address of a chain (R319). -/
def accAddr (c : Chain) (a : Nat) : Option Nat := (Tab.find c.accs (a / 16384)).map (fun sl => sl * 16384 + a % 16384)

/-- The bytes of an access to spaces 1 to 4 where they stand: address, number, and place in the access. A block in accumulator
memory may lie in two slots (R118, R319). -/
def localParts (c : Chain) (space a n : Nat) : List (Nat × Nat × Nat) :=
  if space ≠ 3 then [(a, n, 0)]
  else
    let n0 := min n (16384 - a % 16384)
    ((accAddr c a).getD 0, n0, 0) :: (if n0 = n then [] else [((accAddr c (a + n0)).getD 0, n - n0, n0)])

/-- A logical accumulator range in pieces of one accumulator: address and bytes. -/
def accPieces (a n : Nat) : List (Nat × Nat) :=
  if n = 0 then []
  else (List.range ((a + n - 1) / 16384 + 1 - a / 16384)).map (fun i =>
    let lo := max a (16384 * (a / 16384 + i))
    (lo, min (a + n) (16384 * (a / 16384 + i + 1)) - lo))

/-- What a handle of a context names (R47). -/
def handleObj (s : State) (ctx h : Nat) : HObj := (Tab.get {} (s.ctxAt ctx).handles h).obj

/-- The peer window of a space-5 address: the handle's fields, and the offset from the window's start (R464). -/
def peerWindow (s : State) (ctx base a : Nat) : Option (Nat × Nat × Nat × Nat) :=
  match handleObj s ctx (base / 2 ^ 48 % 2 ^ 8) with
  | .peer w => some (bits w 5 0, bits w 31 16, bits w 47 32, a - base / 2 ^ 48 * 2 ^ 48)
  | _ => none

/-- The physical address of a space-5 address: a peer frame, or the module's own published frame. -/
def peerAddr (s : State) (ctx base a : Nat) : Option Nat :=
  match peerWindow s ctx base a with
  | none => none
  | some (m, first, _, o) =>
    let f := first + o / 2 ^ 21
    if m = s.module ∧ f < s.aperture.length then some (s.aperture.getD f 0 + o % 2 ^ 21)
    else some (2 ^ 62 + m * 2 ^ 50 + f * 2 ^ 21 + o % 2 ^ 21)

/-- Whether a binding's range covers every byte of an access (R115, R370). -/
def tensorCovers (s : State) (ctx a size : Nat) : Bool :=
  let tag := tagFor s ctx a
  (boundRange (s.sliceAt (homeSite s tag a)) tag a size).isSome

/-! ## Easements (R149, R150) -/

/-- Easement entries of one tag space and space that overlap a byte range. -/
def easeHits (k : Core) (tag space lo hi : Nat) : List Ease :=
  k.ease.filter (fun e => decide (e.tag = tag) && decide (e.space = space) && decide (e.lo ≤ hi) && decide (lo ≤ e.hi))

/-- Whether a lane access meets an easement. -/
def easeStops (k : Core) (tag space lo hi : Nat) (write : Bool) : Bool :=
  (easeHits k tag space lo hi).any (fun e => e.dst || write)

/-! ## Issue checks (R116 to R118) -/

/-- TVAL of the checks that name an address (R160). -/
def addrTval (a : Int) : Nat := wrapN a 57

/-- Check 4: the space's own limits, R319 and R464 (cause, TVAL). -/
def spaceFault (s : State) (c : Chain) (p : Ptr) (a size : Nat) : Option (Nat × Nat) :=
  let ctx := c.ctx
  match Ptr.spaceSize p.space with
  | some n =>
    if n < a + size then some (0x0A, addrTval a)
    else if p.space = 3 ∧ ((accAddr c a).isNone ∨ (accAddr c (a + size - 1)).isNone) then some (0x59, addrTval a)
    else none
  | none =>
    if p.space = 5 then
      match peerWindow s ctx p.base a with
      | none => some (0x21, p.base / 2 ^ 48 % 2 ^ 8)
      | some (_, _, count, o) => if 2 ^ 21 * count < o + size then some (0x0A, addrTval a) else none
    else if p.space = 6 ∧ !(tensorCovers s ctx a size) then some (0x0A, addrTval a)
    else none

/-- Checks 2 to 5 on one access unit: the first cause that applies, with its TVAL. For a BS format, bs says whether the
element index is misplaced in its block (R228). -/
def unitCheck (s : State) (c : Chain) (core : Nat) (p : Ptr) (write sync : Bool) (bs : Option Bool) (a : Int) (size : Nat) :
    Option (Nat × Nat) :=
  if write ∧ p.share = 1 then some (0x08, addrTval a)
  else if !(homeOk s c.ctx core p) then some (0x09, addrTval a)
  else if a < (p.base : Int) ∨ (p.base + p.len : Nat) < a + size then some (0x0A, addrTval a)
  else match spaceFault s c p a.toNat size with
    | some f => some f
    | none =>
      if bs.getD (decide (a.toNat % size ≠ 0)) then some (0x0B, addrTval a)
      else if sync && decide (a.toNat / 64 ≠ (a.toNat + size - 1) / 64) then some (0x0B, addrTval a)
      else none

/-- Check 6 on one access unit. -/
def easeCheck (s : State) (c : Chain) (core : Nat) (p : Ptr) (write : Bool) (a size : Nat) : Option (Nat × Nat) :=
  if (localParts c p.space a size).any (fun x =>
      easeStops (s.coreAt core) (tagIn s c.ctx p.space a) p.space x.1 (x.1 + x.2.1 - 1) write) then some (0x18, addrTval a)
  else none

/-- All the checks of R116 on a pointer from register kreg; ill is what R227 or R237 makes illegal after check 1. -/
def accessCheck (s : State) (c : Chain) (core kreg : Nat) (p : Ptr) (ill write sync : Bool) (bs : Option Bool) (a : Int) (size : Nat)
    (word : Nat) : Option (Nat × Nat) :=
  if !p.valid then some (0x0C, kreg)
  else if ill then some (0x01, word)
  else match unitCheck s c core p write sync bs a size with
    | some f => some f
    | none => easeCheck s c core p write a.toNat size

/-! ## Typed buffers and cluster-shared space -/

/-- Bytes of spaces 1 to 4 as a core sees them; space 3 by physical slot address. -/
def localRead (s : State) (core space a n : Nat) : Nat :=
  match space with
  | 1 => cellsRead (s.coreAt core).wb a n
  | 2 => cellsRead (s.coreAt core).ab a n
  | 3 => cellsRead (s.coreAt core).accm a n
  | _ => cellsRead (s.clusterAt (clusterOf core)).shared a n

def localWrite (s : State) (core space a n v : Nat) : State :=
  match space with
  | 1 => s.modCore core (fun k => { k with wb := cellsWrite k.wb a n v })
  | 2 => s.modCore core (fun k => { k with ab := cellsWrite k.ab a n v })
  | 3 => s.modCore core (fun k => { k with accm := cellsWrite k.accm a n v })
  | _ => s.modCluster (clusterOf core) (fun k => { k with shared := cellsWrite k.shared a n v })

/-- An access of a chain to spaces 1 to 4, part by part. -/
def partsRead (s : State) (c : Chain) (core space a n : Nat) : Nat :=
  (localParts c space a n).foldl (fun v x => v + localRead s core space x.1 x.2.1 * 2 ^ (8 * x.2.2)) 0

/-- Logs the old bytes of the 64-byte sectors that an instruction's write touches (R185). -/
def logLocal (s : State) (core ctx seq space a n : Nat) : State :=
  match Tab.find (s.coreAt core).mons ctx with
  | none => s
  | some m =>
    if seq < m.seq then s
    else
      (List.range ((a + n - 1) / 64 + 1 - a / 64)).foldl (fun s i =>
        let l := a / 64 + i
        let old := toBytes 64 (localRead s core space (64 * l) 64)
        match space with
        | 1 => logOld s core ctx (.wbuf l old)
        | 2 => logOld s core ctx (.abuf l old)
        | 3 => logOld s core ctx (.accm l old)
        | _ => s) s

/-- A write of a chain to spaces 1 to 4, part by part, its old bytes logged. -/
def partsWrite (s : State) (c : Chain) (core seq space a n v : Nat) : State :=
  (localParts c space a n).foldl (fun s x =>
    localWrite (logLocal s core c.ctx seq space x.1 x.2.1) core space x.1 x.2.1 (v / 2 ^ (8 * x.2.2))) s

/-- Whether the line of an address of a typed buffer is absent (R257). -/
def absent (k : Core) (space a : Nat) : Bool :=
  match space with
  | 1 => k.absW.contains (a / 256)
  | 2 => k.absA.contains (a / 256)
  | _ => false

/-- The 256-byte lines of a byte range. -/
def linesOf (lo n : Nat) : List Nat := if n = 0 then [] else (List.range ((lo + n - 1) / 256 + 1 - lo / 256)).map (fun i => lo / 256 + i)

def clearPresent (s : State) (core space lo n : Nat) : State :=
  match space with
  | 1 => s.modCore core (fun k => { k with absW := k.absW ++ (linesOf lo n).filter (fun l => !(k.absW.contains l)) })
  | 2 => s.modCore core (fun k => { k with absA := k.absA ++ (linesOf lo n).filter (fun l => !(k.absA.contains l)) })
  | _ => s

/-- Lanes parked at an absent line come back to their instruction (R232). -/
def wakeLines (s : State) (core : Nat) : State :=
  (s.chains.filter (fun e => coreOf e.1 = core)).foldl (fun s e =>
    (e.2.parked.filter (fun q => q.why = .line)).foldl (fun s q => reenterOne s e.1 q.lanes q.pc q.prio) s) s

def setPresent (s : State) (core space lo n : Nat) : State :=
  match space with
  | 1 => wakeLines (s.modCore core (fun k => { k with absW := k.absW.filter (fun l => !((linesOf lo n).contains l)) })) core
  | 2 => wakeLines (s.modCore core (fun k => { k with absA := k.absA.filter (fun l => !((linesOf lo n).contains l)) })) core
  | _ => s

/-! ## LCLK (R123, R130) -/

def raiseLclk (s : State) (core t : Nat) : State := s.modCore core (fun k => { k with lclk := max k.lclk t })

/-- The LCLK register as SGET reads it (R123). -/
def lclkReg (k : Core) : Nat := (if k.epoch then 2 ^ 24 else 0) + k.lclk % 2 ^ 24

/-! ## Ordering (R133 to R136, R140, R148, R250) -/

/-- Earlier writes of a chain through pointers of a scope or wider (R135). -/
def earlierWrites (c : Chain) (scope : Nat) : List Nat := (c.writes.filter (fun w => scope ≤ w.scope)).map (·.id)

/-- Whether writes that a release must follow are still outstanding. -/
def writesOpen (s : State) (chain : Nat) (ids : List Nat) : Bool :=
  match s.chain? chain with
  | some c => ids.any (fun i => c.writes.any (fun w => w.id = i))
  | none => false

/-- An earlier acquire or .sc atomic of the chain holds its later accesses (R136, R140). -/
def acquireOpen (c : Chain) : Bool := c.outs.any (·.acq)

/-- A write of the chain to a sector is still on its way (R133); what stands in the side log has retired (R249). -/
def sectorOpen (s : State) (ch key : Nat) : Bool :=
  match s.chain? (primaryOf s ch) with
  | some c => c.writes.any (fun w => decide (w.key = key) && !((s.coreAt (coreOf ch)).side.any (fun e => e.wid = w.id)))
  | none => false

/-- Loads of the chain issued before an instruction that have not returned (R134). -/
def loadsOpen (c : Chain) (seq : Nat) : Bool := c.outs.any (fun o => o.load && decide (o.seq < seq))

/-! ## Latencies of R22 -/

/-- The last-level latency from a core to a home, with the HBM access when the sector is not resident. -/
def homeLat (s : State) (core site key : Nat) : Nat :=
  let a := siteOf core
  (if (homeFind s site key).isSome then 40 else 140) + 3 * hops a site + stitches a site

end Sys2Proof.Machine
end

