-- ==== Sys2Proof/Machine/Flags.lean ====
section
/-!
DEFINITION. The FPST register (R105, R106): the dynamic rounding mode, how an instruction's flags reach it, and its
write rule.
-/
namespace Sys2Proof.Machine

/-- `mode_of` (R65, R111): code 5 is the mode that FPST.RM holds when the instruction issues. -/
def modeOf (c : Chain) (rnd : BitVec 3) : Nat := if rnd = 5 then bits c.fpst.toNat 11 9 else rnd.toNat

/-- The OR of an instruction's flags into FPST in the cycle its last lane group lands (R106). -/
def flagWrite (s : State) (fl : Flags) (land lat : Nat) : List PendW :=
  if fl = 0 then []
  else [{ cell := .fpst, val := fl.toNat, land, start := s.sel.t0, lat, seq := s.sel.seq }]

/-- FPST after an SSET of a value: reserved bits read zero, and RM codes 5 to 7 leave RM unchanged (R105). -/
def fpstSet (old : W32) (v : Nat) : W32 :=
  let rm := bits v 11 9
  BitVec.ofNat 32 ((if rm ≤ 4 then rm else bits old.toNat 11 9) * 512 + v % 64)

/-- Flags raised by a list of results. -/
def orFlags (l : List Flags) : Flags := l.foldl (· ||| ·) 0

end Sys2Proof.Machine
end

