-- ==== Sys2Proof/Machine/Fields.lean ====
section
/-!
DEFINITION. The static field rules of every instruction (R55, R56, R64, R65, R72 and each entry): whether a word's
fields raise reserved-field (0x02) or illegal instruction (0x01) whatever the registers hold. Reserved-field comes
first (R79).
-/
namespace Sys2Proof.Machine

/-- What the fields of a word raise by themselves. -/
inductive FieldErr where
  | ok
  | reserved   -- 0x02
  | illegal    -- 0x01
deriving DecidableEq, Repr, Inhabited

/-- R79: reserved-field before illegal instruction. -/
def judge (res ill : Bool) : FieldErr := if res then .reserved else if ill then .illegal else .ok

/-- A nonzero field. -/
def nz {n : Nat} (x : BitVec n) : Bool := x != 0

/-- Field names of F0. -/
inductive Fld where
  | d | a | b | c | ua | ub | sub | ty | rnd
deriving DecidableEq, Repr

/-- Some field outside the list is nonzero (R55). -/
def f0Unused (f : F0) (used : List Fld) : Bool :=
  let off (x : Fld) (v : Bool) := v && !(used.contains x)
  off .d (nz f.d) || off .a (nz f.a) || off .b (nz f.b) || off .c (nz f.c) || off .ua f.ua || off .ub f.ub ||
    off .sub (nz f.sub) || off .ty (nz f.ty) || off .rnd (nz f.rnd)

/-- An s register field has bit 6 zero (R56). -/
def sBad (r : BitVec 7) : Bool := 64 ≤ r.toNat
/-- A field that names a predicate has bits 6:3 zero (R162). -/
def pBad (r : BitVec 7) : Bool := 8 ≤ r.toNat
/-- A field that names a k register has bits 6:5 zero (R216). -/
def kBad (r : BitVec 7) : Bool := 32 ≤ r.toNat
/-- An odd register in a 64-bit position (R46). -/
def odd (r : BitVec 7) : Bool := r.toNat % 2 = 1

/-- Types held in a register pair (R64). -/
def wideTy (ty : Nat) : Bool := ty = 3 || ty = 4 || ty = 12 || ty = 14

/-- A source that names a g register, or an s register when u is set; an even one when wide. -/
def srcBad (u wide : Bool) (r : BitVec 7) : Bool := (u && sBad r) || (wide && odd r)

/-- TYPE 15 and RND 6 and 7 are reserved in every F0 instruction that uses the field (R64, R65). -/
def tyRes (f : F0) : Bool := f.ty = 15
def rndRes (f : F0) : Bool := 6 ≤ f.rnd.toNat

def tyIn (f : F0) (l : List Nat) : Bool := l.contains f.ty.toNat
def subIn (f : F0) (l : List Nat) : Bool := l.contains f.sub.toNat

/-- No field used but those of the header. -/
def f0None (f : F0) : FieldErr := judge (f0Unused f []) false

/-- Lane integer and bit operations (R198, R199). -/
def f0Alu (f : F0) (types subs : List Nat) (useB useC bSingle : Bool) (dSingle : Bool) : FieldErr :=
  let w := wideTy f.ty.toNat
  judge
    (f0Unused f ([.d, .a, .ua, .sub, .ty] ++ (if useB then [.b, .ub] else []) ++ (if useC then [.c] else [])) ||
      tyRes f || (w && !dSingle && odd f.d) || srcBad f.ua w f.a ||
      (useB && srcBad f.ub (w && !bSingle) f.b) || (useC && w && odd f.c))
    (!(tyIn f types) || !(subIn f subs))

/-- Floating instructions of R202 and R205; subs lists the SUB values, subRes says that others are reserved bits. -/
def f0Flt (f : F0) (types subs : List Nat) (useB useC rounds dSingle subRes : Bool) : FieldErr :=
  let w := wideTy f.ty.toNat
  judge
    (f0Unused f ([.d, .a, .ua, .ty, .sub] ++ (if useB then [.b, .ub] else []) ++ (if useC then [.c] else []) ++
        (if rounds then [.rnd] else [])) ||
      tyRes f || rndRes f || (w && !dSingle && odd f.d) || srcBad f.ua w f.a || (useB && srcBad f.ub w f.b) ||
      (useC && w && odd f.c) || (subRes && !(subIn f subs)))
    (!(tyIn f types) || !(subIn f subs))

/-- Uniform integer operations (R173). -/
def f0Uni (f : F0) (types subs : List Nat) (bSingle : Bool) : FieldErr :=
  let w := wideTy f.ty.toNat
  judge
    (f0Unused f [.d, .a, .b, .sub, .ty] || tyRes f || sBad f.d || sBad f.a || sBad f.b ||
      (w && (odd f.d || odd f.a || (!bSingle && odd f.b))))
    (!(tyIn f types) || !(subIn f subs))

/-- The comparison forms PSET and FCMP (R169, R204): predicates in D and C, a comparison and a combination. -/
def f0Cmp (f : F0) (types : List Nat) (maxRel : Nat) : FieldErr :=
  let w := wideTy f.ty.toNat
  let sb := f.sub.toNat
  let comb := bits sb 4 3
  judge
    (f0Unused f [.d, .a, .b, .c, .ua, .ub, .sub, .ty] || tyRes f || pBad f.d || pBad f.c ||
      (comb = 0 && nz f.c) || srcBad f.ua w f.a || srcBad f.ub w f.b)
    (!(tyIn f types) || maxRel < sb % 8 || 32 ≤ sb)

/-- Conversion pairs of R207: destination type and source type. -/
def cvtPair (d s : Nat) : Bool :=
  match d with
  | 11 => [1, 2, 3, 4, 11, 12].contains s
  | 12 => [1, 2, 3, 4, 11, 12].contains s
  | 9 => [9, 10].contains s
  | 10 => [9, 10].contains s
  | 13 => [11, 12, 13, 14].contains s
  | 14 => [11, 12, 13, 14].contains s
  | _ => false

/-- Conversion pairs of R208. -/
def cvtiPair (d s : Nat) : Bool :=
  match d with
  | 1 => [1, 2, 3, 4, 11, 12].contains s
  | 2 => [1, 2, 3, 4, 11, 12].contains s
  | 3 => [1, 2, 3, 4, 11, 12].contains s
  | 4 => [1, 2, 3, 4, 11, 12].contains s
  | 5 => [5, 6].contains s
  | 6 => [5, 6].contains s
  | 7 => [7, 8].contains s
  | 8 => [7, 8].contains s
  | _ => false

def packPair (d s : Nat) : Bool :=
  match d with
  | 5 => [1, 2].contains s
  | 6 => [1, 2].contains s
  | 7 => [5, 6].contains s
  | 8 => [5, 6].contains s
  | 9 => s = 11
  | 10 => s = 11
  | _ => false

def unpackPair (d s : Nat) : Bool :=
  match d with
  | 1 => [5, 6].contains s
  | 2 => [5, 6].contains s
  | 5 => [7, 8].contains s
  | 6 => [7, 8].contains s
  | 11 => [9, 10].contains s
  | _ => false

/-- Whether a source type code is an integer type (R208). -/
def intTy (s : Nat) : Bool := 1 ≤ s && s ≤ 8

/-- CVT, CVTI, PACK and UNPACK (R207 to R209); resBits says which SUB bits must be zero. -/
def f0Cvt (f : F0) (pair : Bool) (useB : Bool) (noRnd : Bool) (resBits : Bool) (ill : Bool) : FieldErr :=
  let src := f.sub.toNat % 16
  judge
    (f0Unused f ([.d, .a, .ua, .sub, .ty, .rnd] ++ (if useB then [.b, .ub] else [])) || tyRes f || rndRes f ||
      (noRnd && nz f.rnd) || resBits || (wideTy f.ty.toNat && odd f.d) || srcBad f.ua (wideTy src) f.a ||
      (useB && srcBad f.ub (wideTy src) f.b))
    (!pair || ill)

/-- SHFL and SHFLX (R210). -/
def f0Shfl (f : F0) : FieldErr :=
  let w := wideTy f.ty.toNat
  judge
    (f0Unused f [.d, .a, .b, .ub, .sub, .ty] || tyRes f || 4 ≤ f.sub.toNat || (w && (odd f.d || odd f.a)) ||
      srcBad f.ub false f.b)
    (!(tyIn f [0, 4]))

/-- Types of a reduction operation (R211). -/
def redTypes (op : Nat) : List Nat := if op ≤ 2 then [1, 2, 3, 4, 11, 12] else if op ≤ 5 then [0, 4] else []

/-- LRED and LSCAN (R211). -/
def f0Red (f : F0) (scan : Bool) : FieldErr :=
  let sb := f.sub.toNat
  let op := sb % 8
  let w := wideTy f.ty.toNat
  let uni := bit sb 5
  let fpAdd := op = 0 && (f.ty = 11 || f.ty = 12)
  judge
    (f0Unused f [.d, .a, .sub, .ty, .rnd] || tyRes f || rndRes f || (!fpAdd && nz f.rnd) ||
      (w && (odd f.d || odd f.a)) || (uni && !scan && sBad f.d))
    (!(tyIn f (redTypes op)) || bit sb 4 || (scan && uni) || (!scan && bit sb 3))

/-- BCAST (R212). -/
def f0Bcast (f : F0) : FieldErr :=
  let sb := f.sub.toNat
  let w := wideTy f.ty.toNat
  let first := bit sb 0
  judge
    (f0Unused f [.d, .a, .b, .ub, .sub, .ty] || tyRes f || 4 ≤ sb || (first && (nz f.b || f.ub)) ||
      (!first && f.ub && sBad f.b) || (w && (odd f.d || odd f.a)) || (bit sb 1 && sBad f.d))
    (!(tyIn f [0, 4]) || (!first && !f.ub))

/-! ## Memory forms -/

def vcCount (vc : Nat) : Nat := 2 ^ vc

/-- The last data register of a run (R56). -/
def runBad (f : F2) (n : Nat) : Bool :=
  (if f.udata then 64 else 128) < f.data.toNat + n

/-- LD and ST (R229, R226). -/
def f2LdSt (f : F2) : FieldErr :=
  judge
    ((!f.loff && nz f.lane) || (f.udata && sBad f.data) || (f.dw && odd f.data))
    ((f.udata && f.loff) || runBad f (vcCount f.vc.toNat * (if f.dw then 2 else 1)))

/-- LDX and STX (R233, R60). -/
def f2Ldx (f : F2) : FieldErr :=
  judge
    (f.loff || f.udata || f.nt || sBad f.lane || (f.dw && odd f.data))
    (61 < f.lane.toNat || bit f.off.toNat 19 || runBad f (vcCount f.vc.toNat * (if f.dw then 2 else 1)))

/-- AOP, ORD and the offset of R60. -/
def aopOf (f : F2) : Nat := f.off.toNat / 2 ^ 14
def ordOf (f : F2) : Nat := f.off.toNat / 2 ^ 12 % 4

/-- ATOM, ACAS and AMRED (R236, R237, R239). -/
def f2Atom (f : F2) (aops regs : Nat) : FieldErr :=
  judge
    (f.nt || 2 ≤ ordOf f || (!f.loff && nz f.lane) || (f.udata && sBad f.data) || (f.dw && odd f.data))
    (nz f.vc || aops ≤ aopOf f || (f.udata && f.loff) || runBad f (regs * (if f.dw then 2 else 1)))

/-- LDPRS (R234). -/
def f2Ldprs (f : F2) : FieldErr :=
  judge (!f.loff && nz f.lane) (f.vc != 2 || f.dw || f.udata || f.nt || runBad f 4)

/-- Only PTR is used (R181, R244, R245). -/
def f2Ptr (f : F2) : FieldErr :=
  judge (f.nt || f.udata || f.loff || f.dw || nz f.vc || nz f.off || nz f.lane || nz f.data) false

/-! ## Engine forms -/

/-- An F4 instruction: which operands it uses, reserved and undefined bits of SUB and IMM17, its runs of k and s
registers, whether it has a non-blocking form (R72), and whether SOP must be even. -/
def f4Form (f : F4) (hnd pb sop nb : Bool) (subRes subIll immRes immIll : Bool) (kRun sRun : Nat)
    (even : Bool) : FieldErr :=
  judge
    ((!hnd && nz f.hnd) || (!pb && nz f.pb) || (!sop && nz f.sop) || subRes || immRes ||
      (nz f.pw && (!f.nb || !nb)) || (even && f.sop.toNat % 2 = 1))
    ((f.nb && !nb) || subIll || immIll || 32 < f.pb.toNat + kRun || 64 < f.sop.toNat + sRun)

/-- The context engine's forms: NB must be zero too, under 0x02 (R435). -/
def f4Ctx (f : F4) (hnd pb sop : Bool) (subRes subIll : Bool) (sRun : Nat) (even : Bool) : FieldErr :=
  judge
    ((!hnd && nz f.hnd) || (!pb && nz f.pb) || (!sop && nz f.sop) || subRes || nz f.imm || f.nb || nz f.pw ||
      (even && f.sop.toNat % 2 = 1))
    (subIll || 64 < f.sop.toNat + sRun)

/-- An F5 queue or barrier instruction (R175, R176). -/
def f5Form (f : F5) (data nb : Bool) : FieldErr :=
  judge
    ((!data && (nz f.data || f.ds)) || (f.ds && sBad f.data) || (nz f.pw && (!f.nb || !nb)))
    (f.nb && !nb)

def immBits (f : F4) (hi lo : Nat) : Nat := bits f.imm.toNat hi lo
def subBits (f : F4) (hi lo : Nat) : Nat := bits f.sub.toNat hi lo

/-- Copy commands (R263, R267): rounding code, .wrap, group. -/
def f4Copy (f : F4) (kRun sRun : Nat) (scat : Bool) : FieldErr :=
  f4Form f false true true false (if scat then subBits f 5 5 ≠ 0 else subBits f 5 4 ≠ 0) (6 ≤ subBits f 2 0)
    (immBits f 16 3 ≠ 0) false kRun sRun false

/-- The static rules of every instruction; an event has no fields. -/
def fieldErr : Instr → FieldErr
  | .bra _ _ => .ok
  | .bru _ f => judge (nz f.fp) false
  | .call _ _ => .ok
  | .brx _ f => judge (f0Unused f [.a, .ua] || srcBad f.ua false f.a) false
  | .ret _ f => f0None f
  | .join _ f => f0None f
  | .exit _ f => f0None f
  | .yield _ f => f0None f
  | .nop _ f => f0None f
  | .pset _ f => f0Cmp f [1, 2, 3, 4] 5
  | .plogLut _ f => judge (f0Unused f [.d, .a, .b, .sub] || pBad f.d || pBad f.a || pBad f.b) (32 ≤ f.sub.toNat || bits f.sub.toNat 5 4 ≠ 0)
  | .plogFroms _ f => judge (f0Unused f [.d, .a, .sub] || pBad f.d || sBad f.a || f.sub.toNat % 16 ≠ 0) (bits f.sub.toNat 5 4 ≠ 1)
  | .voteBallot _ f => judge (f0Unused f [.d, .a, .sub] || sBad f.d || pBad f.a) (f.sub ≠ 0)
  | .voteAny _ f => judge (f0Unused f [.d, .a, .sub] || pBad f.d || pBad f.a) (f.sub ≠ 1)
  | .voteAll _ f => judge (f0Unused f [.d, .a, .sub] || pBad f.d || pBad f.a) (f.sub ≠ 2)
  | .voteEq _ f => judge (f0Unused f [.d, .a, .sub] || pBad f.d || pBad f.a) (f.sub ≠ 3)
  | .elect _ f => judge (f0Unused f [.d, .a, .sub] || pBad f.d || (f.sub = 0 && nz f.a) || sBad f.a) (2 ≤ f.sub.toNat)
  | .sadd _ f => f0Uni f [1, 2, 3, 4] [0, 1] false
  | .ssub _ f => f0Uni f [1, 2, 3, 4] [0, 1] false
  | .smul _ f => f0Uni f [1, 2, 3, 4] [0, 1] false
  | .smin _ f => f0Uni f [1, 2, 3, 4] [0] false
  | .smax _ f => f0Uni f [1, 2, 3, 4] [0] false
  | .sand _ f => f0Uni f [0, 4] [0] false
  | .sor _ f => f0Uni f [0, 4] [0] false
  | .sxor _ f => f0Uni f [0, 4] [0] false
  | .sshl _ f => f0Uni f [0, 4] [0] true
  | .sshr _ f => f0Uni f [0, 4] [0] true
  | .ssra _ f => f0Uni f [0, 4] [0] true
  | .sldi _ f => judge (nz f.a || sBad f.d) false
  | .smov _ f =>
    judge (f0Unused f [.d, .a, .sub, .ty] || tyRes f || sBad f.d || sBad f.a || (wideTy f.ty.toNat && (odd f.d || odd f.a)))
      (!(tyIn f [0, 4]) || !(subIn f [0]))
  | .gacq _ f => judge (nz f.a || sBad f.d) (f.imm = 0 || 6 < f.imm.toNat)
  | .grel _ f => judge (nz f.a || nz f.d) false
  | .bara _ f => f5Form f false false
  | .barw _ f => f5Form f false true
  | .qsend _ f => f5Form f true true
  | .qrecv _ f => f5Form f true true
  | .qpeek _ f => f5Form f true true
  | .sget _ f => judge (nz f.a || 17 < f.imm.toNat || (f.imm ≠ 6 && sBad f.d) || (f.imm = 5 && odd f.d)) false
  | .sset _ f => judge (nz f.d || 17 < f.imm.toNat || sBad f.a) false
  | .trap _ f => judge (nz f.d || sBad f.a || 256 ≤ f.imm.toNat) (f.imm.toNat % 256 < 128)
  | .tretRetry _ f => judge (f0Unused f [.a, .sub] || sBad f.a) (f.sub ≠ 0)
  | .tretSkip _ f => judge (f0Unused f [.a, .sub] || sBad f.a) (f.sub ≠ 1)
  | .tretKill _ f => judge (f0Unused f [.a, .sub] || sBad f.a) (f.sub ≠ 2)
  | .hops _ f => judge (f0Unused f [.d, .a, .b] || sBad f.d || sBad f.a || sBad f.b) false
  | .topoGrade _ f => judge (f0Unused f [.d, .sub] || sBad f.d) (f.sub ≠ 0)
  | .topoCores _ f => judge (f0Unused f [.d, .sub] || sBad f.d) (f.sub ≠ 1)
  | .topoDies _ f => judge (f0Unused f [.d, .sub] || sBad f.d) (f.sub ≠ 2)
  | .topoIsland _ f => judge (f0Unused f [.d, .a, .sub] || sBad f.d || sBad f.a) (f.sub ≠ 3)
  | .topoNcore _ f => judge (f0Unused f [.d, .a, .sub] || sBad f.d || sBad f.a) (f.sub ≠ 4)
  | .topoFirst _ f => judge (f0Unused f [.d, .a, .sub] || sBad f.d || sBad f.a) (f.sub ≠ 5)
  | .isync _ f => f2Ptr f
  | .iadd _ f => f0Alu f [1, 2, 3, 4, 5, 6, 7, 8] [0, 1] true false false false
  | .isub _ f => f0Alu f [1, 2, 3, 4, 5, 6, 7, 8] [0, 1] true false false false
  | .imul _ f => f0Alu f [1, 2, 3, 4, 5, 6, 7, 8] [0, 1] true false false false
  | .imulh _ f => f0Alu f [1, 2, 3, 4] [0] true false false false
  | .imad _ f => f0Alu f [1, 2, 3, 4, 5, 6, 7, 8] [0, 1] true true false false
  | .imin _ f => f0Alu f [1, 2, 3, 4, 5, 6, 7, 8] [0] true false false false
  | .imax _ f => f0Alu f [1, 2, 3, 4, 5, 6, 7, 8] [0] true false false false
  | .iabs _ f => f0Alu f [1, 3, 5, 7] [0, 1] false false false false
  | .and _ f => f0Alu f [0, 4] [0, 1] true false false false
  | .or _ f => f0Alu f [0, 4] [0, 1] true false false false
  | .xor _ f => f0Alu f [0, 4] [0, 1] true false false false
  | .shl _ f => f0Alu f [0, 4] [0] true false true false
  | .shr _ f => f0Alu f [0, 4] [0] true false true false
  | .sra _ f => f0Alu f [0, 4] [0] true false true false
  | .popc _ f => f0Alu f [0, 4] [0] false false false true
  | .clz _ f => f0Alu f [0, 4] [0] false false false true
  | .bfx _ f => f0Alu f [0, 4] [0, 1] true false true false
  | .bfi _ f => f0Alu f [0, 4] [0] true true true false
  | .sel _ f =>
    let w := wideTy f.ty.toNat
    judge (f0Unused f [.d, .a, .b, .c, .ua, .ub, .ty] || tyRes f || pBad f.c || (w && odd f.d) || srcBad f.ua w f.a || srcBad f.ub w f.b)
      (!(tyIn f [0, 4]))
  | .mov _ f =>
    let w := wideTy f.ty.toNat
    judge (f0Unused f [.d, .a, .ua, .ty] || tyRes f || (w && odd f.d) || srcBad f.ua w f.a) (!(tyIn f [0, 4]))
  | .ldi _ f => judge (nz f.a) false
  | .fadd _ f => f0Flt f [9, 10, 11, 12] [0, 1] true false true false false
  | .fsub _ f => f0Flt f [9, 10, 11, 12] [0, 1] true false true false false
  | .fmul _ f => f0Flt f [9, 10, 11, 12] [0, 1] true false true false false
  | .ffma _ f => f0Flt f [9, 10, 11, 12] [0, 1, 2, 3] true true true false false
  | .fmin _ f => f0Flt f [9, 10, 11, 12] [0, 1] true false false false false
  | .fmax _ f => f0Flt f [9, 10, 11, 12] [0, 1] true false false false false
  | .fcmp _ f => f0Cmp f [11, 12] 7
  | .frcp _ f => f0Flt f [11, 12] [0] false false true false true
  | .frsq _ f => f0Flt f [11, 12] [0] false false true false true
  | .fsqrt _ f => f0Flt f [11, 12] [0] false false true false true
  | .fdiv _ f => f0Flt f [11, 12] [0] true false true false true
  | .fexp2 _ f => f0Flt f [11, 12] [0] false false true false true
  | .flog2 _ f => f0Flt f [11, 12] [0] false false true false true
  | .fclass _ f => f0Flt f [9, 10, 11, 12] [0] false false false true true
  | .cvt _ f => f0Cvt f (cvtPair f.ty.toNat (f.sub.toNat % 16)) false false (16 ≤ f.sub.toNat) false
  | .cvti _ f =>
    let src := f.sub.toNat % 16
    f0Cvt f (cvtiPair f.ty.toNat src) false (intTy src) (32 ≤ f.sub.toNat || (!(intTy src) && bit f.sub.toNat 4)) false
  | .pack _ f =>
    let flt := f.ty = 9 || f.ty = 10
    f0Cvt f (packPair f.ty.toNat (f.sub.toNat % 16)) true (!flt) (32 ≤ f.sub.toNat) (flt && bit f.sub.toNat 4)
  | .unpack _ f => f0Cvt f (unpackPair f.ty.toNat (f.sub.toNat % 16)) false true (32 ≤ f.sub.toNat) false
  | .shfl _ f => f0Shfl f
  | .shflx _ f => f0Shfl f
  | .lred _ f => f0Red f false
  | .lscan _ f => f0Red f true
  | .bcast _ f => f0Bcast f
  | .cmul _ f => f0Flt f [13, 14] [0, 1] true false true false true
  | .pmake _ f =>
    judge (f0Unused f [.d, .a, .b, .c, .sub] || kBad f.d || sBad f.a || sBad f.b || sBad f.c || odd f.a || odd f.b || 2 ≤ f.sub.toNat) false
  | .pnarrow _ f => judge (f0Unused f [.d, .a, .sub] || kBad f.d || kBad f.a || 8 ≤ f.sub.toNat) false
  | .pwiden _ f => judge (f0Unused f [.d, .a, .sub] || kBad f.d || kBad f.a) (24 ≤ f.sub.toNat)
  | .pslice _ f =>
    judge (f0Unused f [.d, .a, .b, .c] || kBad f.d || kBad f.a || sBad f.b || sBad f.c || odd f.b || odd f.c) false
  | .ptype _ f => judge (f0Unused f [.d, .a, .sub] || kBad f.d || kBad f.a) false
  | .pget _ f => judge (f0Unused f [.d, .a, .sub] || sBad f.d || kBad f.a || (f.sub.toNat ≤ 1 && odd f.d)) (3 ≤ f.sub.toNat)
  | .pchk _ f =>
    judge (f0Unused f [.d, .a, .b, .sub] || pBad f.d || kBad f.a || sBad f.b || 8 ≤ f.sub.toNat) (f.sub.toNat % 4 = 3)
  | .ld _ f => f2LdSt f
  | .st _ f => f2LdSt f
  | .ldx _ f => f2Ldx f
  | .stx _ f => f2Ldx f
  | .atom _ f => f2Atom f 7 1
  | .acas _ f => f2Atom f 1 2
  | .amred _ f => f2Atom f 6 1
  | .pubopen _ f => f2Ptr f
  | .publish _ f => f2Ptr f
  | .lcadv _ f => judge (nz f.d || (if bit f.imm.toNat 8 then sBad f.a else nz f.a)) (512 ≤ f.imm.toNat)
  | .ldprs _ f => f2Ldprs f
  | .cpy _ f => f4Copy f 2 1 false
  | .cpyx _ f => f4Copy f 2 4 true
  | .cpyw _ f => f4Copy f 1 2 false
  | .cpyg _ f => f4Copy f 3 1 false
  | .cpwait _ f => f4Form f false false true true (2 ≤ f.sub.toNat) false (immBits f 16 3 ≠ 0) false 0 1 false
  | .ringacqProd _ f => f4Form f true false true true false (f.sub ≠ 0) (nz f.imm) false 0 2 false
  | .ringacqCons _ f => f4Form f true false true true false (f.sub ≠ 1) (nz f.imm) false 0 2 false
  | .ringrelProd _ f => f4Form f true false true false false (f.sub ≠ 0) (nz f.imm) false 0 1 false
  | .ringrelProdAfter _ f => f4Form f true false true false false (f.sub ≠ 2) (immBits f 16 3 ≠ 0) false 0 1 false
  | .ringrelCons _ f => f4Form f true false true false false (f.sub ≠ 1) (nz f.imm) false 0 1 false
  | .ringwtFull _ f => f4Form f true false true true false (f.sub ≠ 0) (nz f.imm) false 0 1 false
  | .ringwtEmpty _ f => f4Form f true false true true false (f.sub ≠ 1) (nz f.imm) false 0 1 false
  | .easeqCount _ f => f4Form f false false true false false (f.sub ≠ 0) (nz f.imm) false 0 1 false
  | .easeqProbe _ f => f4Form f false true true false false (f.sub ≠ 1) (nz f.imm) false 1 1 false
  | .easeqWait _ f => f4Form f false true false true false (f.sub ≠ 2) (nz f.imm) false 1 0 false
  | .xhdrRd _ f => f4Form f false true true false false (f.sub ≠ 0) (nz f.imm) false 1 8 false
  | .xhdrXp _ f => f4Form f true true false false false (f.sub ≠ 1) (immBits f 15 2 ≠ 0) false 1 0 false
  | .xhdrChk _ f => f4Form f true true false false false (f.sub ≠ 2) (immBits f 15 0 ≠ 0) false 1 0 false
  | .xhdrAdopt _ f => f4Form f true true false false false (f.sub ≠ 3) (immBits f 15 0 ≠ 0) false 2 0 false
  | .xexp _ f => f4Form f true true true false (nz f.sub) false (immBits f 15 0 ≠ 0) false 1 2 false
  | .xcmp _ f =>
    f4Form f true true true false (4 ≤ f.sub.toNat) (f.sub = 3) (immBits f 15 7 ≠ 0)
      (immBits f 6 2 = 0 || 16 < immBits f 6 2) 2 1 false
  | .xdec _ f => f4Form f true true true false (nz f.sub) false (immBits f 15 0 ≠ 0) false 2 2 false
  | .xstat _ f => f4Form f true false true false (nz f.sub) false (nz f.imm) false 0 2 false
  | .xwait _ f => f4Form f true false false true (nz f.sub) false (nz f.imm) false 0 0 false
  | .mma _ f => f4Form f false true true false (2 ≤ f.sub.toNat) false (immBits f 16 13 ≠ 0) false 2 3 false
  | .mmac _ f => f4Form f false true true false (2 ≤ f.sub.toNat) false (immBits f 16 13 ≠ 0) false 2 3 false
  | .arel _ f => f4Form f false false false false (nz f.sub) false (immBits f 16 8 ≠ 0) (immBits f 7 0 = 0) 0 0 false
  | .aread _ f => f4Form f false true true false (subBits f 5 4 ≠ 0) (6 ≤ subBits f 2 0) (immBits f 6 0 ≠ 0 || immBits f 16 13 ≠ 0) false 1 2 false
  | .awrite _ f => f4Form f false true true false (subBits f 5 4 ≠ 0) (6 ≤ subBits f 2 0) (immBits f 6 0 ≠ 0 || immBits f 16 13 ≠ 0) false 1 2 false
  | .azero _ f => f4Form f false false false false (nz f.sub) false (immBits f 9 8 ≠ 0 || immBits f 16 13 ≠ 0) (immBits f 7 0 = 0) 0 0 false
  | .mwait _ f => f4Form f false false false true (2 ≤ f.sub.toNat) false (immBits f 9 0 ≠ 0 || immBits f 16 13 ≠ 0 || (f.sub = 1 && nz f.imm)) false 0 0 false
  | .mstatGrp _ f => f4Form f false false true false false (f.sub ≠ 0) (immBits f 9 0 ≠ 0 || immBits f 16 13 ≠ 0) false 0 1 false
  | .mstatAcc _ f => f4Form f false false true false false (f.sub ≠ 1) (nz f.imm) false 0 1 false
  | .hclr _ f => f4Form f false false false false (nz f.sub) false (immBits f 16 5 ≠ 0) false 0 0 false
  | .hacc _ f => f4Form f false true true false (nz f.sub) false (immBits f 16 5 ≠ 0) false 1 1 false
  | .hpct _ f => f4Form f false false true false (nz f.sub) false (immBits f 16 5 ≠ 0) false 0 2 false
  | .sfold _ f => f4Form f false true true false (nz f.sub) false (immBits f 16 5 ≠ 0 || immBits f 1 0 ≠ 0) false 1 1 false
  | .qnt _ f => f4Form f false true true false (8 ≤ f.sub.toNat) (6 ≤ subBits f 2 0) (immBits f 16 5 ≠ 0 || immBits f 1 0 ≠ 0) false 3 1 false
  | .dqnt _ f => f4Form f false true true false (8 ≤ f.sub.toNat) (6 ≤ subBits f 2 0) (immBits f 16 5 ≠ 0 || immBits f 1 0 ≠ 0) false 2 1 false
  | .qstatGrp _ f => f4Form f false false true true false (f.sub ≠ 0) (immBits f 16 5 ≠ 0 || immBits f 1 0 ≠ 0) false 0 2 false
  | .qstatAll _ f => f4Form f false false true true false (f.sub ≠ 1) (nz f.imm) false 0 2 false
  | .qstatBin _ f => f4Form f false false true false false (f.sub ≠ 2) (immBits f 16 2 ≠ 0) false 0 1 false
  | .tbind _ f => f4Form f true false true false (nz f.sub) false (immBits f 16 3 ≠ 0) false 0 8 false
  | .tfree _ f => f4Form f true false false false (nz f.sub) false (immBits f 16 3 ≠ 0) false 0 0 false
  | .tlook _ f => f4Form f true false true false (nz f.sub) false (nz f.imm) false 0 6 false
  | .tnear _ f => f4Form f true false true false (4 ≤ f.sub.toNat) (f.sub = 3) (immBits f 16 3 ≠ 0) false 0 2 false
  | .thalo _ f => f4Form f true true true false (2 ≤ f.sub.toNat) false (immBits f 16 3 ≠ 0) false 1 2 false
  | .tdropWb _ f => f4Form f true false false false false (f.sub ≠ 0) (immBits f 16 3 ≠ 0) false 0 0 false
  | .tdropDiscard _ f => f4Form f true false false false false (f.sub ≠ 1) (immBits f 16 3 ≠ 0) false 0 0 false
  | .twrb _ f => f4Form f true false false false false (f.sub ≠ 0) (immBits f 16 3 ≠ 0) false 0 0 false
  | .tqryGrp _ f => f4Form f false false true true false (f.sub ≠ 0) (immBits f 16 3 ≠ 0) false 0 2 false
  | .tqryAll _ f => f4Form f false false true true false (f.sub ≠ 1) (nz f.imm) false 0 2 false
  | .tqryBind _ f => f4Form f true false true false false (f.sub ≠ 2) (nz f.imm) false 0 4 false
  | .launch _ f => f4Form f true true true true (nz f.sub) false (nz f.imm) false 1 2 false
  | .kreg _ f => f4Form f false true true false (nz f.sub) false (nz f.imm) false 1 2 false
  | .kdereg _ f => f4Form f false false true false (nz f.sub) false (nz f.imm) false 0 2 false
  | .swait _ f => f4Form f false true true true (nz f.sub) false (nz f.imm) false 1 2 false
  | .qcfg _ f => f4Form f true false true false (nz f.sub) false (nz f.imm) false 0 1 false
  | .depadd _ f => f4Form f false false true false (nz f.sub) false (nz f.imm) false 0 2 false
  | .budgqIsland _ f => f4Form f false false true false false (f.sub ≠ 0) (nz f.imm) false 0 2 false
  | .budgqCtx _ f => f4Form f false false true false false (f.sub ≠ 1) (nz f.imm) false 0 2 false
  | .pairq _ f => f4Form f false false true false (nz f.sub) false (nz f.imm) false 0 1 false
  | .cxnew _ f => f4Ctx f true true true (nz f.sub) false 2 false
  | .cxgrantBudget _ f => f4Ctx f true false true false (f.sub ≠ 0) 3 false
  | .cxgrantPort _ f => f4Ctx f true false true false (f.sub ≠ 1) 3 false
  | .cxgrantHandle _ f => f4Ctx f true false true false (f.sub ≠ 2) 3 false
  | .cxgrantCommon _ f => f4Ctx f true false true false (f.sub ≠ 3) 3 false
  | .cxrevokeHandle _ f => f4Ctx f true true true false (f.sub ≠ 0) 3 false
  | .cxrevokeCommon _ f => f4Ctx f true true true false (f.sub ≠ 1) 3 false
  | .cxrevokeAll _ f => f4Ctx f true true true false (f.sub ≠ 2) 3 false
  | .cxrun _ f => f4Ctx f true false false false (f.sub ≠ 0) 0 false
  | .cxrunLaunch _ f => f4Ctx f true true true false (f.sub ≠ 1) 2 false
  | .cxstop _ f => f4Ctx f true false false false (f.sub ≠ 0) 0 false
  | .cxstatState _ f => f4Ctx f (f.sub = 0) false true (f.sub.toNat ≥ 32) (f.sub.toNat % 16 ≠ 0) 2 false
  | .cxstatFlags _ f => f4Ctx f (f.sub = 1) false true (f.sub.toNat ≥ 32) (f.sub.toNat % 16 ≠ 1) 2 false
  | .cxstatCont _ f => f4Ctx f (f.sub = 2) false true (f.sub.toNat ≥ 32) (f.sub.toNat % 16 ≠ 2) 2 false
  | .cxstatPort _ f => f4Ctx f (f.sub = 3) false true (f.sub.toNat ≥ 32) (f.sub.toNat % 16 ≠ 3) 2 false
  | .cxstatPword _ f => f4Ctx f (f.sub = 4) false true (f.sub.toNat ≥ 32) (f.sub.toNat % 16 ≠ 4) 2 false
  | .cxdel _ f => f4Ctx f true false false (nz f.sub) false 0 false
  | .frmap _ f => f4Ctx f true true true (2 ≤ f.sub.toNat) false 3 false
  | .frunmap _ f => f4Ctx f true true true (nz f.sub) false 3 false
  | .frqryChild _ f => f4Ctx f true false true false (f.sub ≠ 0) 2 true
  | .frqryComp _ f => f4Ctx f true false true false (f.sub ≠ 1) 2 true
  | .frqrySelf _ f => f4Ctx f false false true false (f.sub ≠ 2) 2 true
  | .platset _ f => f4Ctx f true false true (nz f.sub) false 4 true
  | .dtld _ f => f4Ctx f (f.sub = 1) true true (2 ≤ f.sub.toNat) false 1 false
  | .htset _ f => f4Ctx f true false true (8 ≤ f.sub.toNat) (f.sub = 7) 2 true
  | .trdlgMask _ f => f4Ctx f false false true false (f.sub ≠ 0) 2 false
  | .trdlgMaskChild _ f => f4Ctx f true false true false (f.sub ≠ 1) 2 false
  | .trdlgRing _ f => f4Ctx f true true false false (f.sub ≠ 2) 0 false
  | .trdlgOff _ f => f4Ctx f false false false false (f.sub ≠ 3) 0 false
  | .trflt _ f => f4Ctx f false false true (nz f.sub) false 1 false
  | .pgret _ f => f4Ctx f false false true (nz f.sub) false 2 true
  | .miglogOn _ f => f4Ctx f true true false false (f.sub ≠ 0) 0 false
  | .miglogTake _ f => f4Ctx f true true true false (f.sub ≠ 1) 1 false
  | .miglogOff _ f => f4Ctx f true false true false (f.sub ≠ 2) 1 false
  | .migmov _ f => f4Ctx f true true true (nz f.sub) false 3 false
  | .invpg _ f => f4Ctx f false true true false (f.sub ≠ 0) 1 false
  | .invpgTlb _ f => f4Ctx f false true true false (f.sub ≠ 1) 1 false
  | .invcxAll _ f => f4Ctx f (f.sub = 8) false true false (f.sub.toNat % 8 ≠ 0 || 16 ≤ f.sub.toNat) 1 false
  | .invcxTlb _ f => f4Ctx f (f.sub = 9) false true false (f.sub.toNat % 8 ≠ 1 || 16 ≤ f.sub.toNat) 1 false
  | .invcxRoot _ f => f4Ctx f (f.sub = 10) false true false (f.sub.toNat % 8 ≠ 2 || 16 ≤ f.sub.toNat) 2 true
  | _ => .ok

end Sys2Proof.Machine
end

