-- ==== Sys2Proof/Machine/Uses.lean ====
section
/-!
DEFINITION. What each instruction reads and writes, its latency class (R67), whether it acts per lane (R90) and its
engine class (R40): the tables that the interlock (R68), the checking scoreboard (R70) and the register checks (R45)
go by.
-/
namespace Sys2Proof.Machine

/-- A register of one file. -/
inductive Reg where
  | g (r : Nat)
  | s (r : Nat)
  | k (r : Nat)
  | p (r : Nat)
deriving DecidableEq, Repr, Inhabited

/-- Registers read and written; lat is the fixed latency, 0 for class V or for no register result. -/
structure Uses where
  reads : List Reg := []
  writes : List Reg := []
  lat : Nat := 0
deriving DecidableEq, Repr, Inhabited

def gRun (r n : Nat) : List Reg := (List.range n).map (fun i => .g (r + i))
def sRun (r n : Nat) : List Reg := (List.range n).map (fun i => .s (r + i))
def kRun (r n : Nat) : List Reg := (List.range n).map (fun i => .k (r + i))

/-- Registers of an operand of a type: a pair when the type is 64 bits wide (R46). -/
def span (wide : Bool) : Nat := if wide then 2 else 1

/-- A source that is a g register, or an s register when u is set (R57). -/
def srcRegs (u wide : Bool) (r : BitVec 7) : List Reg := if u then sRun r.toNat (span wide) else gRun r.toNat (span wide)

def wide0 (f : F0) : Bool := wideTy f.ty.toNat

/-- Lane operations: D of width dw, A, and B and C when used (R196). -/
def laneUses (f : F0) (lat dn : Nat) (useB useC bSingle : Bool) : Uses :=
  let w := wide0 f
  { reads := srcRegs f.ua w f.a ++ (if useB then srcRegs f.ub (w && !bSingle) f.b else []) ++
      (if useC then gRun f.c.toNat (span w) else []),
    writes := gRun f.d.toNat dn, lat }

def intUses (f : F0) (useB useC bSingle dSingle : Bool) : Uses :=
  laneUses f 2 (if dSingle then 1 else span (wide0 f)) useB useC bSingle

/-- Class L4, or L8 with type F64 or CF32 (R67). -/
def l4 (f : F0) : Nat := if f.ty = 12 || f.ty = 14 then 8 else 4

def fltUses (f : F0) (lat : Nat) (useB useC : Bool) : Uses := laneUses f lat (span (wide0 f)) useB useC false

/-- Comparisons into a predicate (R169, R204). -/
def cmpUses (f : F0) (lat : Nat) : Uses :=
  let w := wide0 f
  { reads := srcRegs f.ua w f.a ++ srcRegs f.ub w f.b ++
      (if bits f.sub.toNat 4 3 = 0 then [] else [Reg.p f.c.toNat]),
    writes := [.p f.d.toNat], lat }

/-- Conversions: the source type is in SUB[3:0] (R207 to R209). -/
def cvtUses (f : F0) (lat : Nat) (useB : Bool) : Uses :=
  let w := wideTy (f.sub.toNat % 16)
  { reads := srcRegs f.ua w f.a ++ (if useB then srcRegs f.ub w f.b else []),
    writes := gRun f.d.toNat (span (wide0 f)), lat }

/-- Uniform integer operations (R173). -/
def uniUses (f : F0) (bSingle : Bool) : Uses :=
  let n := span (wide0 f)
  { reads := sRun f.a.toNat n ++ sRun f.b.toNat (if bSingle then 1 else n), writes := sRun f.d.toNat n, lat := 2 }

def shflUses (f : F0) (lat : Nat) : Uses :=
  let n := span (wide0 f)
  { reads := gRun f.a.toNat n ++ srcRegs f.ub false f.b, writes := gRun f.d.toNat n, lat }

/-- Data registers of an access: one a unit, two with DW (R226). -/
def dataRun (f : F2) (n : Nat) : List Reg :=
  let m := n * (if f.dw then 2 else 1)
  if f.udata then sRun f.data.toNat m else gRun f.data.toNat m

def laneOff (f : F2) : List Reg := if f.loff then [.g f.lane.toNat] else []

def ptrOf (f : F2) : Reg := .k f.ptr.toNat

def pwOf4 (f : F4) : List Reg := if f.nb then [.p f.pw.toNat] else []
def pwOf5 (f : F5) : List Reg := if f.nb then [.p f.pw.toNat] else []

/-- An engine command: k registers read from PB on, s registers read and written from SOP on. -/
def f4Uses (f : F4) (k : Nat) (ins outs : List Nat) : Uses :=
  { reads := kRun f.pb.toNat k ++ ins.map (fun i => Reg.s (f.sop.toNat + i)),
    writes := outs.map (fun i => Reg.s (f.sop.toNat + i)) ++ pwOf4 f }

/-- The format register of a matrix command is read too (R323). -/
def withFmtReg (u : Uses) (f : F4) : Uses := { u with reads := Reg.g (bits f.imm.toNat 6 0) :: u.reads }

def f5Data (f : F5) : Reg := if f.ds then .s f.data.toNat else .g f.data.toNat

/-- Registers of every instruction; an event has none. -/
def usesOf : Instr → Uses
  | .bra _ _ => {}
  | .brx _ f => { reads := srcRegs f.ua false f.a }
  | .bru _ _ => {}
  | .call _ _ => {}
  | .ret _ _ => {}
  | .join _ _ => {}
  | .exit _ _ => {}
  | .yield _ _ => {}
  | .nop _ _ => {}
  | .pset _ f => cmpUses f 2
  | .plogLut _ f => { reads := [.p f.a.toNat, .p f.b.toNat], writes := [.p f.d.toNat], lat := 2 }
  | .plogFroms _ f => { reads := [.s f.a.toNat], writes := [.p f.d.toNat], lat := 2 }
  | .voteBallot _ f => { reads := [.p f.a.toNat], writes := [.s f.d.toNat], lat := 2 }
  | .voteAny _ f => { reads := [.p f.a.toNat], writes := [.p f.d.toNat], lat := 2 }
  | .voteAll _ f => { reads := [.p f.a.toNat], writes := [.p f.d.toNat], lat := 2 }
  | .voteEq _ f => { reads := [.p f.a.toNat], writes := [.p f.d.toNat], lat := 2 }
  | .elect _ f => { writes := .p f.d.toNat :: (if f.sub = 1 then [.s f.a.toNat] else []), lat := 2 }
  | .sadd _ f => uniUses f false
  | .ssub _ f => uniUses f false
  | .smul _ f => uniUses f false
  | .smin _ f => uniUses f false
  | .smax _ f => uniUses f false
  | .sand _ f => uniUses f false
  | .sor _ f => uniUses f false
  | .sxor _ f => uniUses f false
  | .sshl _ f => uniUses f true
  | .sshr _ f => uniUses f true
  | .ssra _ f => uniUses f true
  | .sldi _ f => { writes := [.s f.d.toNat], lat := 2 }
  | .smov _ f => { reads := sRun f.a.toNat (span (wide0 f)), writes := sRun f.d.toNat (span (wide0 f)), lat := 2 }
  | .gacq _ f => { writes := [.s f.d.toNat] }
  | .grel _ _ => {}
  | .bara _ _ => {}
  | .barw _ f => { writes := pwOf5 f }
  | .qsend _ f => { reads := [f5Data f], writes := pwOf5 f }
  | .qrecv _ f => { writes := f5Data f :: pwOf5 f }
  | .qpeek _ f => { writes := f5Data f :: pwOf5 f }
  | .sget _ f =>
    { writes := if f.imm = 6 then [.g f.d.toNat] else sRun f.d.toNat (span (f.imm = 5)), lat := 4 }
  | .sset _ f => { reads := [.s f.a.toNat] }
  | .trap _ f => { reads := [.s f.a.toNat] }
  | .tretRetry _ f => { reads := [.s f.a.toNat] }
  | .tretSkip _ f => { reads := [.s f.a.toNat] }
  | .tretKill _ f => { reads := [.s f.a.toNat] }
  | .hops _ f => { reads := [.s f.a.toNat, .s f.b.toNat], writes := [.s f.d.toNat], lat := 4 }
  | .topoGrade _ f => { writes := [.s f.d.toNat], lat := 4 }
  | .topoCores _ f => { writes := [.s f.d.toNat], lat := 4 }
  | .topoDies _ f => { writes := [.s f.d.toNat], lat := 4 }
  | .topoIsland _ f => { reads := [.s f.a.toNat], writes := [.s f.d.toNat], lat := 4 }
  | .topoNcore _ f => { reads := [.s f.a.toNat], writes := [.s f.d.toNat], lat := 4 }
  | .topoFirst _ f => { reads := [.s f.a.toNat], writes := [.s f.d.toNat], lat := 4 }
  | .isync _ f => { reads := [ptrOf f] }
  | .iadd _ f => intUses f true false false false
  | .isub _ f => intUses f true false false false
  | .imul _ f => intUses f true false false false
  | .imulh _ f => intUses f true false false false
  | .imad _ f => intUses f true true false false
  | .imin _ f => intUses f true false false false
  | .imax _ f => intUses f true false false false
  | .iabs _ f => intUses f false false false false
  | .and _ f => intUses f true false false false
  | .or _ f => intUses f true false false false
  | .xor _ f => intUses f true false false false
  | .shl _ f => intUses f true false true false
  | .shr _ f => intUses f true false true false
  | .sra _ f => intUses f true false true false
  | .popc _ f => intUses f false false false true
  | .clz _ f => intUses f false false false true
  | .bfx _ f => intUses f true false true false
  | .bfi _ f => intUses f true true true false
  | .sel _ f =>
    let u := intUses f true false false false
    { u with reads := u.reads ++ [.p f.c.toNat] }
  | .mov _ f => intUses f false false false false
  | .ldi _ f => { writes := [.g f.d.toNat], lat := 2 }
  | .fadd _ f => fltUses f (l4 f) true false
  | .fsub _ f => fltUses f (l4 f) true false
  | .fmul _ f => fltUses f (l4 f) true false
  | .ffma _ f => fltUses f (l4 f) true true
  | .fmin _ f => fltUses f (l4 f) true false
  | .fmax _ f => fltUses f (l4 f) true false
  | .fcmp _ f => cmpUses f (l4 f)
  | .frcp _ f => fltUses f 10 false false
  | .frsq _ f => fltUses f 10 false false
  | .fsqrt _ f => fltUses f 10 false false
  | .fdiv _ f => fltUses f 10 true false
  | .fexp2 _ f => fltUses f 10 false false
  | .flog2 _ f => fltUses f 10 false false
  | .fclass _ f => laneUses f (l4 f) 1 false false false
  | .cvt _ f => cvtUses f (l4 f) false
  | .cvti _ f => cvtUses f (l4 f) false
  | .pack _ f => cvtUses f (l4 f) true
  | .unpack _ f => cvtUses f (l4 f) false
  | .shfl _ f => shflUses f 2
  | .shflx _ f => shflUses f 4
  | .lred _ f =>
    let n := span (wide0 f)
    { reads := gRun f.a.toNat n, writes := if bit f.sub.toNat 5 then sRun f.d.toNat n else gRun f.d.toNat n, lat := 8 }
  | .lscan _ f =>
    let n := span (wide0 f)
    { reads := gRun f.a.toNat n, writes := gRun f.d.toNat n, lat := 8 }
  | .bcast _ f =>
    let n := span (wide0 f)
    { reads := gRun f.a.toNat n ++ (if bit f.sub.toNat 0 then [] else [.s f.b.toNat]),
      writes := if bit f.sub.toNat 1 then sRun f.d.toNat n else gRun f.d.toNat n, lat := 4 }
  | .cmul _ f => fltUses f (l4 f) true false
  | .pmake _ f =>
    { reads := sRun f.a.toNat 2 ++ sRun f.b.toNat 2 ++ [.s f.c.toNat], writes := [.k f.d.toNat], lat := 2 }
  | .pnarrow _ f => { reads := [.k f.a.toNat], writes := [.k f.d.toNat], lat := 2 }
  | .pwiden _ f => { reads := [.k f.a.toNat], writes := [.k f.d.toNat] }
  | .pslice _ f =>
    { reads := .k f.a.toNat :: (sRun f.b.toNat 2 ++ sRun f.c.toNat 2), writes := [.k f.d.toNat], lat := 2 }
  | .ptype _ f => { reads := [.k f.a.toNat], writes := [.k f.d.toNat], lat := 2 }
  | .pget _ f => { reads := [.k f.a.toNat], writes := sRun f.d.toNat (if f.sub.toNat ≤ 1 then 2 else 1), lat := 2 }
  | .pchk _ f => { reads := [.k f.a.toNat, .s f.b.toNat], writes := [.p f.d.toNat], lat := 2 }
  | .ld _ f => { reads := ptrOf f :: laneOff f, writes := dataRun f (2 ^ f.vc.toNat) }
  | .st _ f => { reads := (ptrOf f :: laneOff f) ++ dataRun f (2 ^ f.vc.toNat) }
  | .ldx _ f => { reads := ptrOf f :: sRun f.lane.toNat 3, writes := dataRun f (2 ^ f.vc.toNat) }
  | .stx _ f => { reads := (ptrOf f :: sRun f.lane.toNat 3) ++ dataRun f (2 ^ f.vc.toNat) }
  | .atom _ f => { reads := (ptrOf f :: laneOff f) ++ dataRun f 1, writes := dataRun f 1 }
  | .acas _ f => { reads := (ptrOf f :: laneOff f) ++ dataRun f 2, writes := dataRun f 1 }
  | .amred _ f => { reads := (ptrOf f :: laneOff f) ++ dataRun f 1 }
  | .pubopen _ f => { reads := [ptrOf f] }
  | .publish _ f => { reads := [ptrOf f] }
  | .lcadv _ f => { reads := if bit f.imm.toNat 8 then [.s f.a.toNat] else [] }
  | .ldprs _ f => { reads := ptrOf f :: laneOff f, writes := gRun f.data.toNat 4 }
  | .cpy _ f => f4Uses f 2 [0] []
  | .cpyx _ f => f4Uses f 2 [0, 1, 2, 3] []
  | .cpyw _ f => f4Uses f 1 [0, 1] []
  | .cpyg _ f => f4Uses f 3 [0] []
  | .cpwait _ f => f4Uses f 0 [] [0]
  | .ringacqProd _ f => f4Uses f 0 [] [0, 1]
  | .ringacqCons _ f => f4Uses f 0 [] [0, 1]
  | .ringrelProd _ f => f4Uses f 0 [0] []
  | .ringrelProdAfter _ f => f4Uses f 0 [0] []
  | .ringrelCons _ f => f4Uses f 0 [0] []
  | .ringwtFull _ f => f4Uses f 0 [0] []
  | .ringwtEmpty _ f => f4Uses f 0 [0] []
  | .easeqCount _ f => f4Uses f 0 [] [0]
  | .easeqProbe _ f => f4Uses f 1 [] [0]
  | .easeqWait _ f => f4Uses f 1 [] []
  | .xhdrRd _ f => f4Uses f 1 [] [0, 1, 2, 3, 4, 5, 6, 7]
  | .xhdrXp _ f => f4Uses f 1 [] []
  | .xhdrChk _ f => f4Uses f 1 [] []
  | .xhdrAdopt _ f => f4Uses f 2 [] []
  | .xexp _ f => f4Uses f 1 [0, 1] []
  | .xcmp _ f => f4Uses f 2 [0] []
  | .xdec _ f => f4Uses f 2 [0, 1] []
  | .xstat _ f => f4Uses f 0 [] [0, 1]
  | .xwait _ f => f4Uses f 0 [] []
  | .mma _ f => withFmtReg (f4Uses f 2 [0, 1, 2] []) f
  | .mmac _ f => withFmtReg (f4Uses f 2 [0, 1, 2] []) f
  | .arel _ f => f4Uses f 0 [] []
  | .aread _ f => f4Uses f 1 [0, 1] []
  | .awrite _ f => f4Uses f 1 [0, 1] []
  | .azero _ f => f4Uses f 0 [] []
  | .mwait _ f => f4Uses f 0 [] []
  | .mstatGrp _ f => f4Uses f 0 [] [0]
  | .mstatAcc _ f => f4Uses f 0 [] [0]
  | .hclr _ f => f4Uses f 0 [] []
  | .hacc _ f => f4Uses f 1 [0] []
  | .hpct _ f => f4Uses f 0 [0] [0, 1]
  | .sfold _ f => f4Uses f 1 [0] []
  | .qnt _ f => f4Uses f 3 [0] []
  | .dqnt _ f => f4Uses f 2 [0] []
  | .qstatGrp _ f => f4Uses f 0 [] [0, 1]
  | .qstatAll _ f => f4Uses f 0 [] [0, 1]
  | .qstatBin _ f => f4Uses f 0 [0] [0]
  | .tbind _ f => f4Uses f 0 [0, 1, 2, 3, 4, 5, 6, 7] []
  | .tfree _ f => f4Uses f 0 [] []
  | .tlook _ f => f4Uses f 0 [0, 1] [2, 3, 4, 5]
  | .tnear _ f => f4Uses f 0 [0, 1] []
  | .thalo _ f => f4Uses f 1 [0, 1] []
  | .tdropWb _ f => f4Uses f 0 [] []
  | .tdropDiscard _ f => f4Uses f 0 [] []
  | .twrb _ f => f4Uses f 0 [] []
  | .tqryGrp _ f => f4Uses f 0 [] [0, 1]
  | .tqryAll _ f => f4Uses f 0 [] [0, 1]
  | .tqryBind _ f => f4Uses f 0 [] [0, 1, 2, 3]
  | .launch _ f => f4Uses f 1 [] [0, 1]
  | .kreg _ f => f4Uses f 1 [] [0, 1]
  | .kdereg _ f => f4Uses f 0 [0] [1]
  | .swait _ f => f4Uses f 1 [0] [1]
  | .qcfg _ f => f4Uses f 0 [0] []
  | .depadd _ f => f4Uses f 0 [0, 1] []
  | .budgqIsland _ f => f4Uses f 0 [0] [0, 1]
  | .budgqCtx _ f => f4Uses f 0 [] [0, 1]
  | .pairq _ f => f4Uses f 0 [] [0]
  | .cxnew _ f => f4Uses f 1 [] [0, 1]
  | .cxgrantBudget _ f => f4Uses f 0 [0, 1] []
  | .cxgrantPort _ f => f4Uses f 0 [0, 1] []
  | .cxgrantHandle _ f => f4Uses f 0 [0, 1] []
  | .cxgrantCommon _ f => f4Uses f 0 [0, 1] []
  | .cxrevokeHandle _ f => f4Uses f 1 [0, 1] [2]
  | .cxrevokeCommon _ f => f4Uses f 1 [0, 1] [2]
  | .cxrevokeAll _ f => f4Uses f 1 [0, 1] [2]
  | .cxrun _ f => f4Uses f 0 [] []
  | .cxrunLaunch _ f => f4Uses f 1 [] [0, 1]
  | .cxstop _ f => f4Uses f 0 [] []
  | .cxstatState _ f => f4Uses f 0 [] [0]
  | .cxstatFlags _ f => f4Uses f 0 [0] [0]
  | .cxstatCont _ f => f4Uses f 0 [0] [0, 1]
  | .cxstatPort _ f => f4Uses f 0 [0] [0, 1]
  | .cxstatPword _ f => f4Uses f 0 [] [0]
  | .cxdel _ f => f4Uses f 0 [] []
  | .frmap _ f => f4Uses f 1 [0, 1] [2]
  | .frunmap _ f => f4Uses f 1 [0, 1] [2]
  | .frqryChild _ f => f4Uses f 0 [0] [0, 1]
  | .frqryComp _ f => f4Uses f 0 [0] [0, 1]
  | .frqrySelf _ f => f4Uses f 0 [0] [0, 1]
  | .platset _ f => f4Uses f 0 [0, 1, 2] []
  | .dtld _ f => f4Uses f 1 [] [0]
  | .htset _ f => f4Uses f 0 [0, 1] []
  | .trdlgMask _ f => f4Uses f 0 [0, 1] []
  | .trdlgMaskChild _ f => f4Uses f 0 [0, 1] []
  | .trdlgRing _ f => f4Uses f 1 [] []
  | .trdlgOff _ f => f4Uses f 0 [] []
  | .trflt _ f => f4Uses f 0 [0] []
  | .pgret _ f => f4Uses f 0 [0, 1] [0]
  | .miglogOn _ f => f4Uses f 1 [] []
  | .miglogTake _ f => f4Uses f 1 [] [0]
  | .miglogOff _ f => f4Uses f 0 [] [0]
  | .migmov _ f => f4Uses f 1 [0, 1] [2]
  | .invpg _ f => f4Uses f 1 [] [0]
  | .invpgTlb _ f => f4Uses f 1 [] [0]
  | .invcxAll _ f => f4Uses f 0 [] [0]
  | .invcxTlb _ f => f4Uses f 0 [] [0]
  | .invcxRoot _ f => f4Uses f 0 [0, 1] [0]
  | _ => {}

/-- Whether an instruction acts per lane and so packs lane groups (R30, R90). -/
def perLane : Nat → Bool := fun op =>
  (0x100 ≤ op && op < 0x200) || op = 0x001 || (0x009 ≤ op && op ≤ 0x00C) || (0x207 ≤ op && op ≤ 0x20D) || op = 0x211

/-- Whether a role may issue an opcode's engine class (R40). -/
def roleAllows (role op : Nat) : Bool :=
  if op < 0x100 || (0x200 ≤ op && op < 0x280) || 0x320 ≤ op then true
  else if op < 0x200 then role = 2 || role = 3
  else if op < 0x2C0 || 0x300 ≤ op then role = 0 || role = 3
  else role = 1 || role = 3

/-- Cross-lane instructions read their source in every lane at the first issue cycle (R194). -/
def crossLane (iop : Nat) : Bool := (0x127 ≤ iop && iop ≤ 0x12B)

/-- Whether a word goes to the wide unit (R192). -/
def wideUnit (iop ty : Nat) : Bool := 0x115 ≤ iop && iop ≤ 0x12C && (ty = 12 || ty = 14)

end Sys2Proof.Machine
end

