-- ==== Sys2Proof/Machine/Operands.lean ====
section
/-!
DEFINITION. Operand forms: element layouts of the TYPE field (R64), lane and uniform sources (R57, R67, R196), and the
delivery of results with their latencies (R67).
-/
namespace Sys2Proof.Machine

/-! ## Types (R64) -/

/-- Elements of a type and their width. -/
def tyCount (ty : Nat) : Nat :=
  match ty with
  | 5 => 2 | 6 => 2 | 7 => 4 | 8 => 4 | 9 => 2 | 10 => 2
  | _ => 1

def tyWidth (ty : Nat) : Nat :=
  match ty with
  | 3 => 64 | 4 => 64 | 12 => 64 | 14 => 64
  | 5 => 16 | 6 => 16 | 9 => 16 | 10 => 16
  | 7 => 8 | 8 => 8
  | _ => 32

/-- Signed integer types; UI64 as TYPE 4 is unsigned. -/
def tySigned (ty : Nat) : Bool := ty = 1 || ty = 3 || ty = 5 || ty = 7

/-- The floating format of a type. -/
def tyFmt (ty : Nat) : FFmt := match ty with | 9 => .f16 | 10 => .bf16 | 11 => .f32 | 13 => .bf16 | 14 => .f32 | _ => .f64

/-- The elements of a value of n elements of w bits, element 0 lowest (R196). -/
def splitN (n w x : Nat) : List Nat := (List.range n).map (fun i => bits x (w * i + w - 1) (w * i))

def joinN (w : Nat) : List Nat → Nat
  | [] => 0
  | x :: r => x % 2 ^ w + 2 ^ w * joinN w r

def elemsOf (ty x : Nat) : List Nat := splitN (tyCount ty) (tyWidth ty) x

/-- An integer element read with the type's signedness. -/
def intElem (ty x : Nat) : Int := if tySigned ty then sextN x (tyWidth ty) else ((x % 2 ^ tyWidth ty : Nat) : Int)

/-! ## Sources -/

/-- The value of a g register, or of a pair, in a lane at a cycle. -/
def gVal (c : Chain) (wide : Bool) (r lane t : Nat) : Nat :=
  c.readG r lane t + (if wide then 2 ^ 32 * c.readG (r + 1) lane t else 0)

def sVal (c : Chain) (wide : Bool) (r t : Nat) : Nat := c.readS r t + (if wide then 2 ^ 32 * c.readS (r + 1) t else 0)

/-- A source of the performing instruction in a lane: read in that lane's group cycle, or once when it is an s register
(R67). -/
def srcVal (s : State) (u wide : Bool) (r : BitVec 7) (lane : Nat) : Nat :=
  if u then sVal s.selChain wide r.toNat s.sel.t0 else gVal s.selChain wide r.toNat lane (laneCycle s lane)

def predVal (s : State) (r lane : Nat) : Bool := s.selChain.readP r lane (laneCycle s lane)

/-! ## Results -/

/-- One result on its way. -/
def pendOf (s : State) (cell : CellId) (val start lat : Nat) : PendW :=
  { cell, val, land := start + lat, start, lat, seq := s.sel.seq }

/-- The writes of a value to a lane's register or pair. -/
def gWrites (s : State) (wide : Bool) (r lane val start lat : Nat) : List PendW :=
  pendOf s (.g r lane) (val % 2 ^ 32) start lat ::
    (if wide then [pendOf s (.g (r + 1) lane) (val / 2 ^ 32 % 2 ^ 32) start lat] else [])

def sWrites (s : State) (wide : Bool) (r val start lat : Nat) : List PendW :=
  pendOf s (.s r) (val % 2 ^ 32) start lat ::
    (if wide then [pendOf s (.s (r + 1)) (val / 2 ^ 32 % 2 ^ 32) start lat] else [])

/-- Adds results of the performing instruction. -/
def deliver (s : State) (ws : List PendW) : State := s.modChain s.sel.chain (fun c => c.addPend ws)

/-- The cycle in which the last lane group of the instruction issues. -/
def lastGroup (s : State) : Nat := s.sel.t0 + groupsOf s.sel.pack - 1

/-- A per-lane result in g registers with its flags (R67, R106), and the end of the instruction. -/
def laneResult (s : State) (h : Hdr) (lat : Nat) (wide : Bool) (d : BitVec 7) (f : Nat → Nat × Flags) :
    Host.Outcome State Fault Refusal :=
  let rs := (lanesOf s.sel.act).map (fun l => (l, f l))
  let ws := rs.flatMap (fun r => gWrites s wide d.toNat r.1 r.2.1 (laneCycle s r.1) lat)
  .next (advanceLanes (deliver s (ws ++ flagWrite s (orFlags (rs.map (·.2.2))) (lastGroup s + lat) lat)) h)

/-- A per-lane predicate result (R46: p7 discards it). -/
def predResult (s : State) (h : Hdr) (lat : Nat) (d : BitVec 7) (f : Nat → Bool × Flags) :
    Host.Outcome State Fault Refusal :=
  let rs := (lanesOf s.sel.act).map (fun l => (l, f l))
  let ws := rs.map (fun r => pendOf s (.p d.toNat r.1) (if r.2.1 then 1 else 0) (laneCycle s r.1) lat)
  .next (advanceLanes (deliver s (ws ++ flagWrite s (orFlags (rs.map (·.2.2))) (lastGroup s + lat) lat)) h)

/-- A result in an s register of an instruction that occupies one issue cycle. -/
def uniResult (s : State) (h : Hdr) (lat : Nat) (wide : Bool) (d : BitVec 7) (r : Nat × Flags) :
    Host.Outcome State Fault Refusal :=
  .next (advanceUniform (deliver s (sWrites s wide d.toNat r.1 s.sel.t0 lat ++ flagWrite s r.2 (s.sel.t0 + lat) lat)) h)

end Sys2Proof.Machine
end

