-- ==== Sys2Proof/Machine/Engines.lean ====
section
/-!
DEFINITION. What every engine command goes through: operands and results of F4 words, queues, easements (R149), the
ordering of R148, non-blocking forms (R72), completion, group status, and the fault of a stopped command (R278, R312,
R340, R362, R384).
-/
namespace Sys2Proof.Machine

/-! ## Operands and results -/

/-- The k register of an operand run, and its pointer. -/
def kOp (s : State) (f : F4) (i : Nat) : W128 := s.selChain.readK (f.pb.toNat + i) s.sel.t0
def kPtr (s : State) (f : F4) (i : Nat) : Ptr := Ptr.ofBits (kOp s f i)
/-- The s register of an operand run. -/
def sOp (s : State) (f : F4) (i : Nat) : Nat := s.selChain.readS (f.sop.toNat + i) s.sel.t0
def sOp64 (s : State) (f : F4) (i : Nat) : Nat := sOp s f i + 2 ^ 32 * sOp s f (i + 1)
/-- The pointer from a k register of 128 bits. -/
def ptrAt (ks : List W128) (i : Nat) : Ptr := Ptr.ofBits (ks.getD i 0)

/-- Results of class V that land n cycles after issue (R67, R68). -/
def landV (s : State) (n : Nat) (ws : List (CellId × Nat)) : State :=
  deliver s (ws.map (fun w => { cell := w.1, val := w.2, land := s.sel.t0 + n, start := s.sel.t0, lat := 0, seq := s.sel.seq }))

/-- An s register result. -/
def sCell (f : F4) (i v : Nat) : CellId × Nat := (.s (f.sop.toNat + i), v % 2 ^ 32)

/-- The predicate PW in every active lane (R72); p7 discards it (R46). -/
def pwCells (s : State) (pw : BitVec 3) (b : Bool) : List (CellId × Nat) :=
  if pw = 7 then [] else (lanesOf s.sel.act).map (fun l => (.p pw.toNat l, if b then 1 else 0))

/-- A non-blocking form that would wait: PW is false and nothing else happens (R72). -/
def nbFail (s : State) (h : Hdr) (pw : BitVec 3) (n : Nat) : State := advanceUniform (landV s n (pwCells s pw false)) h

/-- A wait that is not met: a non-blocking form performs nothing, a blocking one waits (R72, R37). -/
def orWait (s : State) (h : Hdr) (nb : Bool) (pw : BitVec 3) (n : Nat) : State :=
  if nb then nbFail s h pw n else waitLong s

/-- The end of an engine instruction that forces a monument and restarts the spin counts (R33, R39, R152). -/
def finish (s : State) (h : Hdr) : State := withMonument (advanceUniform (clearSpin s) h)

/-- A free value where the spec states none. -/
def freeVal (s : State) : Nat × State := (Config.freeNat s.tick, { s with tick := s.tick + 1 })

/-! ## Pointer checks (R116, R261) -/

/-- Checks 1 to 5 on an engine's operand range. -/
def engCheck (s : State) (kreg : Nat) (p : Ptr) (write : Bool) (align size : Nat) : Option (Nat × Nat) :=
  if !p.valid then some (0x0C, kreg)
  else if write ∧ p.share = 1 then some (0x08, p.base)
  else if !(homeOk s s.selChain.ctx s.selCore p) then some (0x09, p.base)
  else if p.len < size then some (0x0A, p.base)
  else match spaceFault s s.selChain p p.base size with
    | some f => some f
    | none => if p.base % max 1 align ≠ 0 then some (0x0B, p.base) else none

/-- The first failure among checks in order. -/
def firstFault (l : List (Option (Nat × Nat))) : Option (Nat × Nat) := l.findSome? id

/-! ## Ranges and easements (R149) -/

/-- A byte range of a tag space and a space. -/
structure Rng where
  tag : Nat
  space : Nat
  lo : Nat
  hi : Nat
deriving DecidableEq, Repr, Inhabited

/-- The range of n bytes from an address of a pointer's space; none for no bytes. -/
def rngOf (s : State) (ctx : Nat) (p : Ptr) (a n : Nat) : List Rng :=
  if n = 0 then [] else [{ tag := tagIn s ctx p.space a, space := p.space, lo := a, hi := a + n - 1 }]

/-- R259 and its likes: a destination meets any entry, or a source meets a destination. -/
def easeBusy (k : Core) (srcs dsts : List Rng) : Bool :=
  dsts.any (fun r => !(easeHits k r.tag r.space r.lo r.hi).isEmpty) ||
    srcs.any (fun r => (easeHits k r.tag r.space r.lo r.hi).any (·.dst))

/-- Registers a command's entries. -/
def addEases (s : State) (core id : Nat) (srcs dsts : List Rng) : State :=
  s.modCore core (fun k =>
    { k with ease := k.ease ++ dsts.map (fun r => { id, tag := r.tag, space := r.space, lo := r.lo, hi := r.hi, dst := true }) ++
        srcs.map (fun r => { id, tag := r.tag, space := r.space, lo := r.lo, hi := r.hi, dst := false }) })

def dropEases (s : State) (core id : Nat) : State := s.modCore core (fun k => { k with ease := k.ease.filter (fun e => e.id ≠ id) })

/-- A destination that overlaps an open publication region of the core (R246). -/
def inRegion (k : Core) (dsts : List Rng) : Bool :=
  dsts.any (fun r => isGlobal r.space && k.regions.any (fun g =>
    decide (g.tag = r.tag) && decide (g.lo ≤ r.hi) && decide (r.lo < g.lo + g.len)))

/-! ## Queues -/

def engQueue (s : State) (e : Eng) (core : Nat) : List Cmd :=
  match e with
  | .copy => (s.coreAt core).copyq
  | .matrix => (s.coreAt core).matq
  | .quant => (s.coreAt core).qntq
  | .tensor => (s.coreAt core).tenq
  | .xform => (s.clusterAt (clusterOf core)).xfmq

def setEngQueue (s : State) (e : Eng) (core : Nat) (q : List Cmd) : State :=
  match e with
  | .copy => s.modCore core (fun k => { k with copyq := q })
  | .matrix => s.modCore core (fun k => { k with matq := q })
  | .quant => s.modCore core (fun k => { k with qntq := q })
  | .tensor => s.modCore core (fun k => { k with tenq := q })
  | .xform => s.modCluster (clusterOf core) (fun k => { k with xfmq := q })

def engines : List Eng := [.copy, .xform, .matrix, .quant, .tensor]

/-- A number for each engine, as records name it. -/
def engNum : Eng → Nat
  | .copy => 0
  | .xform => 1
  | .matrix => 2
  | .quant => 3
  | .tensor => 4

/-- The commands of a chain that have not completed. -/
def chainCmds (s : State) (ch : Nat) : List Cmd :=
  engines.flatMap (fun e => (engQueue s e (coreOf ch)).filter (fun c => decide (c.chain = ch) && !c.done))

def putCmd (s : State) (c : Cmd) : State :=
  setEngQueue s c.eng c.core ((engQueue s c.eng c.core).map (fun x => if x.id = c.id then c else x))

def dropCmd (s : State) (c : Cmd) : State := setEngQueue s c.eng c.core ((engQueue s c.eng c.core).filter (fun x => x.id ≠ c.id))

/-! ## Group status -/

namespace Chain

def grps (c : Chain) : Eng → Cells Grp
  | .copy => c.cpy
  | .xform => c.xfm
  | .matrix => c.mat
  | .quant => c.qnt
  | .tensor => c.ten

def setGrps (c : Chain) (e : Eng) (m : Cells Grp) : Chain :=
  match e with
  | .copy => { c with cpy := m }
  | .xform => { c with xfm := m }
  | .matrix => { c with mat := m }
  | .quant => { c with qnt := m }
  | .tensor => { c with ten := m }

def grp (c : Chain) (e : Eng) (g : Nat) : Grp := Cells.get {} (c.grps e) g

def setGrp (c : Chain) (e : Eng) (g : Nat) (x : Grp) : Chain := c.setGrps e (Cells.set {} (c.grps e) g x)

end Chain

/-- The chain that issued a command, if it has not ended. -/
def ownerOf (s : State) (c : Cmd) : Option Chain :=
  match s.chain? c.chain with
  | some x => if x.ctx = c.ctx ∧ x.sid = c.sid ∧ x.pid = c.pid then some x else none
  | none => none

def modOwner (s : State) (c : Cmd) (f : Chain → Chain) : State :=
  match ownerOf s c with
  | some x => s.setChain c.chain (f x)
  | none => s

/-- The key of a survey. -/
def surveyKey (part sid : Nat) : Nat := part * 2 ^ 32 + sid

/-- A stamp of a write of a survey enters its completion stamp (R400). -/
def noteSurvey (s : State) (part sid t : Nat) : State :=
  match Tab.find s.surveys (surveyKey part sid) with
  | some v => { s with surveys := Tab.put s.surveys (surveyKey part sid) { v with tc := max v.tc t } }
  | none => s

/-- A stamp of a release at package scope of a chain: of its own writes, or of commands whose completion it waited for
(R135, R151). -/
def noteTop (s : State) (ch part sid t : Nat) : State :=
  s.modChain ch (fun c => if c.part = part ∧ c.sid = sid then { c with top := max c.top t } else c)

/-- A write of a chain through a pointer of a scope, stamped by a unit of an epoch, has been performed: from die scope on the releases
of R151 and R400 cover it, with stamps of the epoch of the latest broadcast (R128). -/
def noteWrite (s : State) (ep : Bool) (ch part sid scope t : Nat) : State :=
  if scope < 2 then s
  else noteTop (noteSurvey s part sid (stampTo ep s.rebase.epoch t)) ch part sid (stampTo ep s.rebase.epoch t)

/-- A command's writes go through a pointer of die scope or wider: every engine but the tensor store's writes at its first pointer. -/
def Cmd.wide (c : Cmd) : Bool := decide (c.eng ≠ .tensor ∧ 2 ≤ (ptrAt c.ks 0).scope)

/-- The stamp that a command gives a release (R151, R400). -/
def Cmd.top (c : Cmd) : Nat := if c.wide then c.stamp else 0

/-- A command's writes enter the completion stamp of its survey (R400). -/
def noteCmd (s : State) (c : Cmd) : State :=
  noteSurvey s (s.ctxAt c.ctx).part c.sid (stampTo (s.coreAt c.core).epoch s.rebase.epoch c.top)

/-! ## Accepting a command (R148, R149) -/

/-- The ordering of R148 and R134: earlier writes at the scope, earlier loads, and no acquire open. -/
def ordered (c : Chain) (scope : Nat) : Bool := (earlierWrites c scope).isEmpty && c.outs.all (fun o => !o.load && !o.acq)

/-- A command for the issuing chain. -/
def newCmd (s : State) (e : Eng) (i : Instr) (grp : Nat) (ks : List W128) (ss : List Nat) : Cmd :=
  let c := s.selChain
  { id := s.nextId, chain := s.sel.chain, ctx := c.ctx, sid := c.sid, pid := c.pid, core := s.selCore, seq := s.sel.seq,
    eng := e, grp, ins := i, mode := 0, ks, ss, readTime := (s.coreAt s.selCore).lclk }

/-- A core's easements without those of one engine's own commands: an engine that runs its commands in order (R325, R350,
R379) waits for the others' only. -/
def othersOf (s : State) (e : Eng) (core : Nat) : Core :=
  let k := s.coreAt core
  { k with ease := k.ease.filter (fun x => !((engQueue s e core).any (fun c => c.id = x.id))) }

/-- What an engine instruction asks for at issue: the first fault of its checks, the command, the scope whose earlier
writes it follows, its source and destination ranges, the commands its queue holds, whether its engine's own easements
hold it not, whether its destination lines lose their presence bits, and whether it must wait for more than these. -/
structure Offer where
  fault : Option (Nat × Nat)
  cmd : Cmd
  scope : Nat
  srcs : List Rng
  dsts : List Rng
  cap : Nat := 8
  own : Bool := false
  clear : Bool := true
  /-- The destination lines it touches, where these are not its whole ranges (R326). -/
  touch : Option (List Nat) := none
  held : Bool := false

/-- A command may be accepted now: order (R148), room in its queue, 32 easements (R149), no easement against it (R259). -/
def offerReady (s : State) (o : Offer) : Bool :=
  let k := s.coreAt o.cmd.core
  !o.held && ordered s.selChain o.scope && decide ((engQueue s o.cmd.eng o.cmd.core).length < o.cap) &&
    decide (k.ease.length + o.srcs.length + o.dsts.length ≤ 32) &&
    !(easeBusy (if o.own then othersOf s o.cmd.eng o.cmd.core else k) o.srcs o.dsts)

/-- The command joins its queue, its easements are registered, its destination lines lose their presence bits (R256, R257). -/
def takeIn (s : State) (o : Offer) : State :=
  let s1 := { s with nextId := s.nextId + 1 }
  let s2 := addEases (setEngQueue s1 o.cmd.eng o.cmd.core (engQueue s1 o.cmd.eng o.cmd.core ++ [o.cmd])) o.cmd.core o.cmd.id o.srcs o.dsts
  if !o.clear then s2
  else o.dsts.foldl (fun s r => match o.touch with
    | some ls => ls.foldl (fun s l => clearPresent s o.cmd.core r.space (256 * l) 256) s
    | none => clearPresent s o.cmd.core r.space r.lo (r.hi + 1 - r.lo)) s2

/-- Traps with the first fault of an offer, or goes on with it. -/
def orTrap (s : State) (h : Hdr) (o : Offer) (k : Host.Outcome State Fault Refusal) : Host.Outcome State Fault Refusal :=
  match o.fault with
  | some (c, t) => .next (trapIssue s h c t)
  | none => k

/-- A command that cannot be accepted waits: for the queue, for entries or for another engine's easements as a long-latency
dependence (R149, R256, R259), for its order alone within its set. -/
def offerWait (s : State) (o : Offer) : State := if ordered s.selChain o.scope then waitLong s else waitIssue s

/-- Accepts a command, or waits: a monument follows (R152). -/
def accept (s : State) (h : Hdr) (o : Offer) : Host.Outcome State Fault Refusal :=
  orTrap s h o (if offerReady s o then .next (finish (takeIn s o) h) else .next (offerWait s o))

/-! ## Completing a command -/

/-- Lanes waiting at an EXIT end once no command of their chain is outstanding (R167). -/
def releaseExit (s : State) (ch : Nat) : State :=
  match s.chain? ch with
  | none => s
  | some c =>
    if (chainCmds s ch).isEmpty then
      s.modChain ch (fun c => (c.parked.filter (fun q => q.why = .exitWait)).foldl (fun c q => c.endLanes q.lanes) c)
    else s.setChain ch c

/-- A command leaves its queue: easements released, its group's status raised (R255, R270 and their likes). -/
def complete (s : State) (c : Cmd) (upd : Grp → Grp) : State :=
  let s1 := modOwner (dropEases (dropCmd s c) c.core c.id) c (fun x =>
    let g := x.grp c.eng c.grp
    x.setGrp c.eng c.grp (upd { g with ncmd := g.ncmd + 1, flags := g.flags ||| c.flags, stamp := max g.stamp c.stamp, top := max g.top c.top }))
  releaseExit (noteCmd s1 c) c.chain

/-- A command that resumes, at a new read time (R148): a copy's units start again from its progress (R278, R282). -/
def Cmd.resumed (c : Cmd) (t : Nat) : Cmd :=
  { c with readTime := t, started := if c.eng = .copy then c.next else 0, landed := [], bad := [] }

/-- Raises a command's largest stamp. -/
def stampCmd (c : Cmd) (t : Nat) : Cmd := { c with stamp := max c.stamp t }

/-! ## Waits (R148: commands issued before the wait) -/

/-- Commands of the issuing chain in groups that satisfy p which a wait issued now covers. -/
def waitsFor (s : State) (e : Eng) (p : Nat → Bool) : List Cmd :=
  (engQueue s e s.selCore).filter (fun c => decide (c.chain = s.sel.chain) && p c.grp && decide (c.seq < sinceOf s) && !c.done)

/-- The status of several groups as one: counts summed, flags ORed, the largest stamp. -/
def sumGrps (c : Chain) (e : Eng) (gs : List Nat) : Grp :=
  gs.foldl (fun a g =>
    let x := c.grp e g
    { ncmd := a.ncmd + x.ncmd, aux := a.aux + x.aux, aux2 := a.aux2 + x.aux2, flags := a.flags ||| x.flags, hsat := a.hsat || x.hsat,
      stamp := max a.stamp x.stamp, top := max a.top x.top }) {}

def clearGrps (s : State) (e : Eng) (gs : List Nat) : State :=
  s.modChain s.sel.chain (fun c => gs.foldl (fun c g => c.setGrp e g {}) c)

/-! ## Faults of stopped commands -/

/-- Makes a record of a stopped command's fault for lanes of its chain. -/
def groupRecord (s : State) (ch seq pc : Nat) (m : Mask) (c : Cmd) (atExit : Bool) : Nat × State :=
  let (cause, va, d) := c.stopped.getD (0, 0, 0)
  let (rid, s1) := record s ch seq pc false ((lanesOf m).map (fun l => { lane := l, cause, tval := va })) d
  (rid, { s1 with recs := match Tab.find s1.recs rid with
            | some r => Tab.put s1.recs rid { r with grp := some (engNum c.eng, c.grp), va, atExit }
            | none => s1.recs })

/-- Raises a stopped command's fault on the active lanes of the issuing instruction (R278 and its likes). -/
def raiseGroup (s : State) (h : Hdr) (c : Cmd) (atExit : Bool := false) : State :=
  let (rid, s1) := groupRecord s s.sel.chain s.sel.seq s.sel.pc s.sel.act c atExit
  advanceUniform (s1.modChain s.sel.chain (fun x => x.park s.sel.act (.trap rid) s.sel.pc s.sel.prio)) h

/-- A completion wait has returned: LCLK rises to the stamps of its groups (R148), and a later release covers their writes (R135). -/
def waitDone (s : State) (g : Grp) : State :=
  let c := s.selChain
  noteTop (raiseLclk s s.selCore g.stamp) s.sel.chain c.part c.sid (stampTo (s.coreAt s.selCore).epoch s.rebase.epoch g.top)

/-- The first stopped command of the issuing chain in groups that satisfy p. -/
def stoppedOf (s : State) (e : Eng) (p : Nat → Bool) : Option Cmd :=
  (engQueue s e s.selCore).find? (fun c => decide (c.chain = s.sel.chain) && p c.grp && c.stopped.isSome)

/-- The first stopped command of the issuing chain in groups that satisfy p and that a wait issued now covers. -/
def stoppedBefore (s : State) (e : Eng) (p : Nat → Bool) : Option Cmd := (waitsFor s e p).find? (fun c => c.stopped.isSome)

/-- A command stops with a fault; lanes that wait at an EXIT for it take the fault (R167). -/
def stopCmd (s : State) (c : Cmd) (cause va detail : Nat) : State :=
  let c' := { c with stopped := some (cause, va, detail) }
  let s1 := putCmd s c'
  match ownerOf s1 c' with
  | none => s1
  | some x =>
    (x.parked.filter (fun q => q.why = .exitWait)).foldl (fun s q =>
      let (rid, s2) := groupRecord s c.chain (2 ^ 64 + c.id) q.pc q.lanes c' true
      s2.modChain c.chain (fun y => (y.unparkLanes q.lanes).park q.lanes (.trap rid) q.pc q.prio)) s1

/-- A completion wait (CPWAIT, XWAIT, MWAIT and their likes): the fault of a group it covers, the wait, then LCLK, the
status result and its clearing. `out` gives the words of the s registers from SOP on. -/
def groupWait (s : State) (h : Hdr) (f : F4) (e : Eng) (gs : List Nat) (lat : Nat) (out : Grp → List Nat) :
    Host.Outcome State Fault Refusal :=
  let p := fun g => gs.contains g
  match stoppedBefore s e p with
  | some c => .next (raiseGroup s h c)
  | none =>
    if !(waitsFor s e p).isEmpty then .next (orWait s h f.nb f.pw lat)
    else
      let g := sumGrps s.selChain e gs
      let ws := (out g).zipIdx.map (fun x => sCell f x.2 x.1)
      let s1 := landV (waitDone s g) lat (ws ++ (if f.nb then pwCells s f.pw true else []))
      .next (advanceUniform (clearGrps s1 e gs) h)

end Sys2Proof.Machine
end

