-- ==== Sys2Proof/Machine/Sequencer.lean ====
section
/-!
DEFINITION. The chain sequencer (R157 to R181): the meanings of opcodes 0x000 to 0x027 but the queue instructions and
TRET, and the release of lanes at joins, barriers and in the register pools.
-/
namespace Sys2Proof.Machine

/-! ## Branches (R163 to R165) -/

/-- The rotated flag of the issuing entry. -/
def entryRot (s : State) : Bool :=
  match entryAt s.selChain.frontier s.sel.pc with
  | some e => e.rot
  | none => false

/-- Lanes of the issuing entry go to a program counter with a priority; they keep its rotated flag. -/
def goTo (s : State) (m : Mask) (pc prio : Nat) : State := s.modChain s.sel.chain (fun c => c.move m pc prio (entryRot s))

/-- The target of an F3 word (R62, R163). -/
def target (s : State) (f : F3) : Nat := wrapN ((s.sel.pc : Int) + 8 * sextN f.woff.toNat 30) 32

/-- The lanes of the entry that are not active. -/
def idleLanes (s : State) : Mask := s.sel.entry &&& ~~~s.sel.act

def nextPc (s : State) : Nat := (s.sel.pc + 8) % 2 ^ 32

def execBra (h : Hdr) (f : F3) (s : State) : Host.Outcome State Fault Refusal :=
  if s.sel.act = 0 then .next (advanceUniform s h)
  else .next (account (goTo (goTo s s.sel.act (target s f) f.tp.toNat) (idleLanes s) (nextPc s) f.fp.toNat) h.stall.toNat 1)

def execBru (h : Hdr) (f : F3) (s : State) : Host.Outcome State Fault Refusal :=
  if s.sel.act = 0 then .next (advanceUniform s h)
  else .next (account (goTo s s.sel.entry (target s f) f.tp.toNat) h.stall.toNat 1)

def stackOf (c : Chain) (l : Nat) : List (Nat × Nat) := Cells.get [] c.callStacks l

/-- Writes a lane's return stack, logging its old value (R185). -/
def setStack (s : State) (l : Nat) (st : List (Nat × Nat)) : State :=
  let s1 := logOld s s.selCore s.selChain.ctx (.stack (slotOf s.sel.chain) l (stackOf s.selChain l))
  s1.modChain s.sel.chain (fun c => { c with callStacks := Cells.set [] c.callStacks l st })

def execCall (h : Hdr) (f : F3) (s : State) : Host.Outcome State Fault Refusal :=
  if s.sel.act = 0 then .next (advanceUniform s h)
  else
    let full := maskWhere (fun l => s.sel.act.getLsbD l && decide (8 ≤ (stackOf s.selChain l).length))
    let go := s.sel.act &&& ~~~full
    let s1 := trapLanes s ((lanesOf full).map (fun l => { lane := l, cause := 0x30, tval := target s f }))
    let s2 := (lanesOf go).foldl (fun s l => setStack s l ((nextPc s, s.sel.prio) :: stackOf s.selChain l)) s1
    .next (account (goTo (goTo s2 go (target s f) f.tp.toNat) (idleLanes s) (nextPc s) f.fp.toNat) h.stall.toNat 1)

/-- The first word of an IT block of the running kernel (R89). -/
def itTarget (c : Chain) (t : Nat) : Bool := t % 8 = 0 && c.kern.it.contains (t / 8)

/-- Lanes move one by one, each to its own target and priority. -/
def spread (s : State) (l : List (Nat × Nat × Nat)) : State := l.foldl (fun s x => goTo s (laneBit x.1) x.2.1 x.2.2) s

def execBrx (h : Hdr) (f : F0) (s : State) : Host.Outcome State Fault Refusal :=
  if s.sel.act = 0 then .next (advanceUniform s h)
  else
    let ts := (lanesOf s.sel.act).map (fun l => (l, srcVal s f.ua false f.a l))
    let bad := ts.filter (fun x => !(itTarget s.selChain x.2))
    let ok := ts.filter (fun x => itTarget s.selChain x.2)
    let s1 := trapLanes s (bad.map (fun x => { lane := x.1, cause := 1, tval := x.2 }))
    let s2 := spread s1 (ok.map (fun x => (x.1, x.2, s.sel.prio)))
    .next (account (goTo s2 (idleLanes s) (nextPc s) s.sel.prio) h.stall.toNat (groupsOf s.sel.pack))

/-- What RET finds for a lane: a cause with its TVAL, or where it goes. The spec gives no TVAL for a popped address that fails R89: the
address stands there, as for a branch (DESIGN CHOICE, log entry 89). -/
def retLane (c : Chain) (pc l : Nat) : LaneFault ⊕ (Nat × Nat × Nat) :=
  match stackOf c l with
  | [] => .inl { lane := l, cause := 0x31, tval := pc }
  | (a, p) :: _ => if itTarget c a then .inr (l, a, p) else .inl { lane := l, cause := 1, tval := a }

def execRet (h : Hdr) (_f : F0) (s : State) : Host.Outcome State Fault Refusal :=
  if s.sel.act = 0 then .next (advanceUniform s h)
  else
    let rs := (lanesOf s.sel.act).map (retLane s.selChain s.sel.pc)
    let s1 := trapLanes s (rs.filterMap (fun r => match r with | .inl x => some x | .inr _ => none))
    let ok := rs.filterMap (fun r => match r with | .inr x => some x | .inl _ => none)
    let s2 := ok.foldl (fun s x => setStack s x.1 (stackOf s.selChain x.1).tail) s1
    .next (account (goTo (spread s2 ok) (idleLanes s) (nextPc s) s.sel.prio) h.stall.toNat 1)

/-! ## JOIN, EXIT, YIELD, NOP (R166 to R168) -/

/-- A live lane outside a set stands below a program counter, in an entry or parked (R166). -/
def lowerLane (c : Chain) (m : Mask) (pc : Nat) : Bool :=
  c.frontier.any (fun e => decide (e.lanes &&& ~~~m ≠ 0) && decide (e.pc < pc)) ||
    c.parked.any (fun q => decide (q.lanes &&& ~~~m ≠ 0) && decide (q.pc < pc))

def execJoin (h : Hdr) (_f : F0) (s : State) : Host.Outcome State Fault Refusal :=
  if s.sel.act = 0 then .next (advanceUniform s h)
  else if idleLanes s = 0 && !(lowerLane s.selChain s.sel.entry s.sel.pc) then .next (advanceUniform s h)
  else
    let s1 := s.modChain s.sel.chain (fun c => c.park s.sel.act .join s.sel.pc s.sel.prio)
    .next (account (goTo s1 (idleLanes s) (nextPc s) s.sel.prio) h.stall.toNat 1)

/-- Lanes of a chain that wait at a JOIN below which no live lane stands re-enter at the next word. -/
def releaseJoin (s : State) (ch : Nat) : State :=
  match s.chain? ch with
  | none => s
  | some c =>
    (c.parked.filter (fun q => decide (q.why = .join) && !(lowerLane c 0 q.pc))).foldl
      (fun s q => reenterOne s ch q.lanes ((q.pc + 8) % 2 ^ 32) q.prio) s

/-- JOIN_RELEASE; a core's turn makes it too, in the first cycle in which no lane stands below. -/
def execJoinRelease (core slot : Nat) (s : State) : Host.Outcome State Fault Refusal := .next (releaseJoin s (16 * core + slot))

/-- The JOIN releases of a core's chains. -/
def releaseJoins (s : State) (core : Nat) : State :=
  (s.chains.filter (fun e => coreOf e.1 = core)).foldl (fun s e => releaseJoin s e.1) s

def execExit (h : Hdr) (_f : F0) (s : State) : Host.Outcome State Fault Refusal :=
  if s.sel.act = 0 then .next (account (stepOn s) 1 1)
  else
    let cmds := chainCmds s s.sel.chain
    if s.sel.act = s.selChain.live && !cmds.isEmpty then
      match cmds.find? (fun c => c.stopped.isSome) with
      | some c => .next (raiseGroup s { h with stall := 1 } c true)
      | none =>
        .next (account (s.modChain s.sel.chain (fun c => c.park s.sel.act .exitWait s.sel.pc s.sel.prio)) 1 1)
    else .next (account (stepOn (s.modChain s.sel.chain (fun c => c.endLanes s.sel.act))) 1 1)

def execYield (h : Hdr) (_f : F0) (s : State) : Host.Outcome State Fault Refusal :=
  .next (withMonument (advanceUniform s h))

def execNop (h : Hdr) (_f : F0) (s : State) : Host.Outcome State Fault Refusal := .next (advanceUniform s h)

/-! ## Predicates and votes (R169 to R172) -/

/-- The comparisons of R169 and R204's ordered part on integers. -/
def relOf (r : Nat) (a b : Int) : Bool :=
  match r with
  | 0 => a = b
  | 1 => a ≠ b
  | 2 => a < b
  | 3 => a ≤ b
  | 4 => b < a
  | _ => b ≤ a

/-- The combination of SUB[4:3] with p(C). -/
def combineP (s : State) (f : F0) (lane : Nat) (c : Bool) : Bool :=
  match bits f.sub.toNat 4 3 with
  | 0 => c
  | 1 => c && predVal s f.c.toNat lane
  | 2 => c || predVal s f.c.toNat lane
  | _ => c != predVal s f.c.toNat lane

def execPset (h : Hdr) (f : F0) (s : State) : Host.Outcome State Fault Refusal :=
  let ty := f.ty.toNat
  predResult s h 2 f.d (fun l =>
    (combineP s f l (relOf (f.sub.toNat % 8) (intElem ty (srcVal s f.ua (wide0 f) f.a l))
      (intElem ty (srcVal s f.ub (wide0 f) f.b l))), 0))

def execPlogLut (h : Hdr) (f : F0) (s : State) : Host.Outcome State Fault Refusal :=
  predResult s h 2 f.d (fun l =>
    (bit f.sub.toNat (2 * (if predVal s f.a.toNat l then 1 else 0) + (if predVal s f.b.toNat l then 1 else 0)), 0))

def execPlogFroms (h : Hdr) (f : F0) (s : State) : Host.Outcome State Fault Refusal :=
  predResult s h 2 f.d (fun l => (bit (sVal s.selChain false f.a.toNat s.sel.t0) l, 0))

/-- The active lanes in which p(A) is true. -/
def votes (s : State) (f : F0) : Mask := maskWhere (fun l => s.sel.act.getLsbD l && predVal s f.a.toNat l)

/-- VOTE occupies the issue cycles of a per-lane instruction (R90); the ballot lands with its last lane group. -/
def execVoteBallot (h : Hdr) (f : F0) (s : State) : Host.Outcome State Fault Refusal :=
  .next (advanceLanes (deliver s [pendOf s (.s f.d.toNat) (votes s f).toNat (lastGroup s) 2]) h)

def execVoteAny (h : Hdr) (f : F0) (s : State) : Host.Outcome State Fault Refusal :=
  predResult s h 2 f.d (fun _ => (votes s f != 0, 0))

def execVoteAll (h : Hdr) (f : F0) (s : State) : Host.Outcome State Fault Refusal :=
  predResult s h 2 f.d (fun _ => (votes s f == s.sel.act, 0))

def execVoteEq (h : Hdr) (f : F0) (s : State) : Host.Outcome State Fault Refusal :=
  predResult s h 2 f.d (fun _ => (votes s f == s.sel.act || votes s f == 0, 0))

/-- ELECT; where .idx's s(A) lands the spec does not say: the model takes the last issue cycle plus 2, as for VOTE.ballot
(DESIGN CHOICE, log entry 88). -/
def execElect (h : Hdr) (f : F0) (s : State) : Host.Outcome State Fault Refusal :=
  let low := lowestLane s.sel.act
  let idx := if f.sub = 1 then [pendOf s (.s f.a.toNat) low (lastGroup s) 2] else []
  let ws := (lanesOf s.sel.act).map (fun l => pendOf s (.p f.d.toNat l) (if l = low then 1 else 0) (laneCycle s l) 2)
  .next (advanceLanes (deliver s (idx ++ ws)) h)

/-! ## Uniform integer operations (R173) -/

def uniWidth (f : F0) : Nat := if wide0 f then 64 else 32

/-- A uniform operation on exact values, wrapped or saturated at the type's width. -/
def uniMeaning (h : Hdr) (f : F0) (s : State) (op : Int → Int → Int) : Host.Outcome State Fault Refusal :=
  let ty := f.ty.toNat
  let w := uniWidth f
  let a := intElem ty (sVal s.selChain (wide0 f) f.a.toNat s.sel.t0)
  let b := intElem ty (sVal s.selChain (wide0 f) f.b.toNat s.sel.t0)
  let v := op a b
  uniResult s h 2 (wide0 f) f.d
    (if f.sub = 1 then (let (y, fl) := satInt v w (tySigned ty); (wrapN y w, fl)) else (wrapN v w, 0))

def execSadd (h : Hdr) (f : F0) (s : State) : Host.Outcome State Fault Refusal := uniMeaning h f s (fun a b => a + b)
def execSsub (h : Hdr) (f : F0) (s : State) : Host.Outcome State Fault Refusal := uniMeaning h f s (fun a b => a - b)
def execSmul (h : Hdr) (f : F0) (s : State) : Host.Outcome State Fault Refusal := uniMeaning h f s (fun a b => a * b)
def execSmin (h : Hdr) (f : F0) (s : State) : Host.Outcome State Fault Refusal :=
  uniMeaning h f s (fun a b => if b < a then b else a)
def execSmax (h : Hdr) (f : F0) (s : State) : Host.Outcome State Fault Refusal :=
  uniMeaning h f s (fun a b => if a < b then b else a)

/-- A uniform operation on bit patterns of w bits; b is a single register when bSingle. -/
def uniBits (h : Hdr) (f : F0) (s : State) (bSingle : Bool) (op : Nat → Nat → Nat → Nat) : Host.Outcome State Fault Refusal :=
  let w := uniWidth f
  let a := sVal s.selChain (wide0 f) f.a.toNat s.sel.t0
  let b := sVal s.selChain (wide0 f && !bSingle) f.b.toNat s.sel.t0
  uniResult s h 2 (wide0 f) f.d (op w a b % 2 ^ w, 0)

def execSand (h : Hdr) (f : F0) (s : State) : Host.Outcome State Fault Refusal := uniBits h f s false (fun _ a b => a &&& b)
def execSor (h : Hdr) (f : F0) (s : State) : Host.Outcome State Fault Refusal := uniBits h f s false (fun _ a b => a ||| b)
def execSxor (h : Hdr) (f : F0) (s : State) : Host.Outcome State Fault Refusal := uniBits h f s false (fun _ a b => a ^^^ b)
def execSshl (h : Hdr) (f : F0) (s : State) : Host.Outcome State Fault Refusal :=
  uniBits h f s true (fun w a n => if w ≤ n then 0 else a * 2 ^ n)
def execSshr (h : Hdr) (f : F0) (s : State) : Host.Outcome State Fault Refusal :=
  uniBits h f s true (fun w a n => if w ≤ n then 0 else a / 2 ^ n)
def execSsra (h : Hdr) (f : F0) (s : State) : Host.Outcome State Fault Refusal :=
  uniBits h f s true (fun w a n => wrapN (sextN a w / (2 ^ min n w : Nat)) w)
def execSmov (h : Hdr) (f : F0) (s : State) : Host.Outcome State Fault Refusal := uniBits h f s false (fun _ a _ => a)

def execSldi (h : Hdr) (f : F1) (s : State) : Host.Outcome State Fault Refusal :=
  uniResult s h 2 false f.d (f.imm.toNat, 0)

/-! ## Extended registers (R174, R45) -/

/-- The key of a team's pool on its core. -/
def poolKey (c : Chain) : Nat := (c.sid * 2 ^ 24 + c.pid) * 16 + c.team

/-- Blocks that n blocks of a chain take from the quota: a pair takes them twice (R398). -/
def blockCost (c : Chain) (n : Nat) : Nat := if c.pair.isSome then 2 * n else n

/-- Blocks 0 to n - 1 read zero. -/
def clearBlocks (c : Chain) (n : Nat) : Chain :=
  { c with blocks := n, g := c.g.filter (fun e => !(decide (32 * 32 ≤ e.1) && decide (e.1 < 32 * (32 + 16 * n)))) }

/-- Whether a team's pool holds n blocks for a chain. -/
def poolFits (s : State) (ch n : Nat) : Bool :=
  let c := Tab.get {} s.chains ch
  match Tab.find (s.coreAt (coreOf ch)).pools (poolKey c) with
  | some p => p.used + blockCost c n ≤ p.quota
  | none => false

/-- A chain takes blocks 0 to n - 1; its shadow takes its own. -/
def takeBlocks (s : State) (ch n : Nat) : State :=
  let c := Tab.get {} s.chains ch
  let s1 := s.modCore (coreOf ch) (fun k => match Tab.find k.pools (poolKey c) with
    | some p => { k with pools := Tab.put k.pools (poolKey c) { p with used := p.used + blockCost c n } }
    | none => k)
  let s2 := s1.modChain ch (fun c => clearBlocks c n)
  match shadowOf s ch with
  | some j => s2.modChain j (fun c => clearBlocks c n)
  | none => s2

/-- Serves parked GACQs of a pool in issue order (R174). -/
def serveGacq : Nat → State → Nat → Nat → State
  | 0, s, _, _ => s
  | fuel + 1, s, core, key =>
    match Tab.find (s.coreAt core).pools key with
    | none => s
    | some p =>
      match p.wait with
      | [] => s
      | ch :: r =>
        let pop (s : State) : State := s.modCore core (fun k =>
          let p := Tab.get { quota := 0, used := 0, wait := [] } k.pools key
          { k with pools := Tab.put k.pools key { p with wait := r } })
        match (Tab.get {} s.chains ch).parked.find? (fun q => match q.why with | .gacq _ _ => true | _ => false) with
        | none => serveGacq fuel (pop s) core key
        | some q =>
          match q.why with
          | .gacq n d =>
            if (Tab.get {} s.chains ch).blocks ≠ 0 then
              let (rid, s1) := record s ch (2 ^ 65 + s.nextId) q.pc false
                ((lanesOf q.lanes).map (fun l => { lane := l, cause := 0x34, tval := 0 })) 0
              serveGacq fuel (pop (modBoth s1 ch (fun c => (c.unparkLanes q.lanes).park q.lanes (.trap rid) q.pc q.prio))) core key
            else if poolFits s ch n then
              let s1 := writeNow (takeBlocks (pop s) ch n) ch (s.coreAt core).seq [(.s d, n)]
              let s2 := reenter s1 ch q ((q.pc + 8) % 2 ^ 32)
              serveGacq fuel (monument s2 core (Tab.get {} s2.chains ch).ctx) core key
            else s
          | _ => s

/-- Blocks go back to a team's pool. -/
def freeBlocks (s : State) (ch n : Nat) : State :=
  let c := Tab.get {} s.chains ch
  let core := coreOf ch
  let s1 := s.modCore core (fun k => match Tab.find k.pools (poolKey c) with
    | some p => { k with pools := Tab.put k.pools (poolKey c) { p with used := p.used - blockCost c n } }
    | none => k)
  let s2 := s1.modChain ch (fun c => { c with blocks := c.blocks - n })
  let s3 := match shadowOf s ch with
    | some j => s2.modChain j (fun c => { c with blocks := c.blocks - n })
    | none => s2
  serveGacq 16 s3 core (poolKey c)

/-- GACQ; the spec gives no TVAL for n above REGS, here or in GREL: the instruction word stands there (DESIGN CHOICE, log entry
90). A chain that must wait parks whole (R174): while its GACQ is parked it issues nothing (`poolWait`), so no lane of it meets s(D)
before the result. -/
def execGacq (h : Hdr) (f : F1) (s : State) : Host.Outcome State Fault Refusal :=
  let c := s.selChain
  let n := f.imm.toNat
  if c.kern.regs < n then .next (trapIssue s h 1 s.sel.word.toNat)
  else if c.blocks ≠ 0 then .next (trapIssue s h 0x34 0)
  else
    let key := poolKey c
    let idle := match Tab.find (s.coreAt s.selCore).pools key with
      | some p => p.wait.isEmpty
      | none => false
    if idle && poolFits s s.sel.chain n then
      .next (withMonument (advanceUniform (landV (takeBlocks s s.sel.chain n) 1 [(.s f.d.toNat, n)]) h))
    else
      let s1 := s.modCore s.selCore (fun k =>
        let p := Tab.get { quota := 0, used := 0, wait := [] } k.pools key
        { k with pools := Tab.put k.pools key { p with wait := p.wait ++ [s.sel.chain] } })
      .next (advanceUniform (s1.modChain s.sel.chain (fun c => c.park s.sel.act (.gacq n f.d.toNat) s.sel.pc s.sel.prio)) h)

/-- GREL; TVAL of n above the number held as for GACQ (log entry 90). -/
def execGrel (h : Hdr) (f : F1) (s : State) : Host.Outcome State Fault Refusal :=
  let n := f.imm.toNat
  let held := s.selChain.blocks
  if held < n then .next (trapIssue s h 1 s.sel.word.toNat)
  else .next (withMonument (advanceUniform (freeBlocks s s.sel.chain (if n = 0 then held else n)) h))

/-! ## Barriers (R175, R42) -/

/-- The clock code of a core (R42, R468): base plus offset, one lower while the island is throttled, in 0 to 12. -/
def freqCode (k : Core) (low : Bool) : Nat := (max 0 (min 12 ((k.base : Int) + k.offset - (if low then 1 else 0)))).toNat

/-- The core's island is throttled (R468). -/
def lowered (s : State) (core : Nat) : Bool := (Cells.get {} s.islands (islandOf (siteOf core))).throttled

/-- Two chains are of one parcel. -/
def sameParcel (a b : Chain) : Bool := a.part = b.part && a.sid = b.sid && a.pid = b.pid && a.ctx = b.ctx

/-- The participants of a barrier of a chain: chains of its team or parcel that have not ended (R175). -/
def participants (s : State) (ch : Nat) (parcel : Bool) : List (Nat × Chain) :=
  let c := Tab.get {} s.chains ch
  s.chains.filter (fun e => !e.2.shadow && sameParcel c e.2 && decide (clusterOf (coreOf e.1) = clusterOf (coreOf ch)) &&
    (parcel || (decide (e.2.team = c.team) && decide (coreOf e.1 = coreOf ch))))

/-- The key of a barrier's instance. -/
def barKey (c : Chain) (parcel : Bool) (obj : Nat) : Nat :=
  ((obj * 2 ^ 32 + c.sid) * 2 ^ 24 + c.pid) * 16 + (if parcel then 8 else c.team)

def barOf (s : State) (ch key : Nat) : BarInst := Tab.get {} (s.clusterAt (clusterOf (coreOf ch))).bars key

def setBar (s : State) (ch key : Nat) (b : BarInst) : State :=
  s.modCluster (clusterOf (coreOf ch)) (fun k => { k with bars := Tab.put k.bars key b })

def setArrival (c : Chain) (obj : Nat) (x : Nat × Bool) : Chain := { c with bars := Cells.set (0, false) c.bars obj x }

/-- The transfer of one clock step from the earliest to the last arriver (R42). -/
def donate (s : State) (cores : List Nat) : State :=
  match cores.head?, cores.getLast? with
  | some d, some r =>
    if cores.length < 2 ∨ d = r then s
    else
      let kd := s.coreAt d
      let kr := s.coreAt r
      if kd.offset ≤ -4 ∨ freqCode kd (lowered s d) = 0 ∨ 4 ≤ kr.offset ∨ 12 ≤ freqCode kr (lowered s r) then s
      else if 2000000 < (Cells.get {} s.islands (islandOf (siteOf d))).sample + 150 then
        (s.modCore d (fun k => { k with denied := min 255 (k.denied + 1) })).modCore r
          (fun k => { k with denied := min 255 (k.denied + 1) })
      else (s.modCore d (fun k => { k with offset := k.offset - 1 })).modCore r (fun k => { k with offset := k.offset + 1 })
  | _, _ => s

/-- Lanes that wait at a barrier for a phase up to one re-enter at the next word (R175). -/
def releaseBar (s : State) (ps : List (Nat × Chain)) (obj c : Nat) : State :=
  ps.foldl (fun s e =>
    ((Tab.get {} s.chains e.1).parked.filter (fun q => match q.why with
      | .barrier o a => decide (o = obj ∧ a ≤ c)
      | _ => false)).foldl (fun s q => reenter s e.1 q ((q.pc + 8) % 2 ^ 32)) s) s

/-- Completes every phase that all participants have reached: lanes released, budget moved (R175). -/
def completePhases : Nat → State → Nat → Bool → Nat → State
  | 0, s, _, _, _ => s
  | fuel + 1, s, ch, parcel, obj =>
    let c := Tab.get {} s.chains ch
    let key := barKey c parcel obj
    let b := barOf s ch key
    let ps := participants s ch parcel
    if ps.isEmpty ∨ ps.any (fun e => (arrival e.2 obj).1 < b.c + 1) then s
    else
      let s1 := setBar s ch key { c := b.c + 1, arrivals := b.arrivals.filter (fun x => x.1 ≠ b.c + 1) }
      let teams := (b.arrivals.filter (fun x => x.1 = b.c + 1)).map (·.2)
      let s2 := if parcel then donate s1 (teams.filterMap (fun t => (ps.find? (fun e => e.2.team = t)).map (fun e => coreOf e.1))) else s1
      completePhases fuel (releaseBar s2 ps obj (b.c + 1)) ch parcel obj

/-- A chain arrives; a team arrives at a parcel barrier, for the phase that all its chains have reached, with its last chain (R175). -/
def arrive (s : State) (ch : Nat) (parcel : Bool) (obj : Nat) (pending : Bool) : State :=
  let s1 := s.modChain ch (fun c => setArrival c obj ((arrival c obj).1 + 1, pending))
  let c := Tab.get {} s1.chains ch
  let key := barKey c parcel obj
  let b := barOf s1 ch key
  let phase := (participants s1 ch false).foldl (fun a e => min a (arrival e.2 obj).1) (arrival c obj).1
  if parcel && decide (b.c < phase) && !(b.arrivals.contains (phase, c.team)) then
    setBar s1 ch key { b with arrivals := b.arrivals ++ [(phase, c.team)] }
  else s1

/-- The barrier that a handle names, or the invalid-handle trap (R47). -/
def withBarrier (s : State) (h : Hdr) (hnd : BitVec 8) (k : Bool → Nat → Host.Outcome State Fault Refusal) :
    Host.Outcome State Fault Refusal :=
  match handleObj s s.selChain.ctx hnd.toNat with
  | .barrier parcel obj => k parcel obj
  | _ => .next (trapIssue s h 0x21 hnd.toNat)

def execBara (h : Hdr) (f : F5) (s : State) : Host.Outcome State Fault Refusal :=
  withBarrier s h f.hnd (fun parcel obj =>
    let c := s.selChain
    if (barOf s s.sel.chain (barKey c parcel obj)).c < (arrival c obj).1 then .next (trapIssue s h 0x32 f.hnd.toNat)
    else
      let s1 := advanceUniform (arrive s s.sel.chain parcel obj true) h
      .next (withMonument (completePhases 33 s1 s.sel.chain parcel obj)))

/-- BARW parks the lanes of the issuing entry (R175). -/
def execBarw (h : Hdr) (f : F5) (s : State) : Host.Outcome State Fault Refusal :=
  withBarrier s h f.hnd (fun parcel obj =>
    let c := s.selChain
    let (a, w) := arrival c obj
    let done := (barOf s s.sel.chain (barKey c parcel obj)).c
    if f.nb then
      if a ≤ done then
        .next (advanceUniform (landV (s.modChain s.sel.chain (fun c => setArrival c obj (a, false))) 1 (pwCells s f.pw true)) h)
      else .next (nbFail s h f.pw 1)
    else if w then
      let s1 := s.modChain s.sel.chain (fun c => setArrival c obj (a, false))
      if a ≤ done then .next (advanceUniform s1 h)
      else .next (advanceUniform (s1.modChain s.sel.chain (fun c => c.park (restLanes s) (.barrier obj a) s.sel.pc s.sel.prio)) h)
    else
      let s1 := arrive s s.sel.chain parcel obj false
      let s2 := s1.modChain s.sel.chain (fun c => c.park (restLanes s) (.barrier obj (a + 1)) s.sel.pc s.sel.prio)
      .next (withMonument (completePhases 33 (advanceUniform s2 h) s.sel.chain parcel obj)))

/-! ## Special registers (R177, R48) -/

/-- BUDGET (R43). -/
def budgetReg (k : Core) (low : Bool) : Nat :=
  k.denied * 2 ^ 24 + freqCode k low * 2 ^ 12 + wrapN k.offset 4 * 2 ^ 4 + k.base

/-- GRADE (R2). -/
def gradeReg : Nat := if Config.grade7680 then 0x00010078 else 0x00000080

/-- The value of a special register but LANECAUSE. -/
def specialReg (s : State) (n : Nat) : Nat :=
  let c := s.selChain
  let core := s.selCore
  match n with
  | 0 => lclkReg (s.coreAt core)
  | 1 => (s.ctxAt c.ctx).lease
  | 2 => c.fpst.toNat
  | 3 => c.cause.toNat
  | 4 => c.tpc.toNat
  | 5 => c.tval.toNat
  | 7 => if c.chksb then 1 else 0
  | 8 => (s.ctxAt c.ctx).ylimit
  | 9 => coreReg s c.ctx core
  | 10 => core / 8 % 8
  | 11 => vdieOf s c.ctx core
  | 12 => gradeReg
  | 13 => budgetReg (s.coreAt core) (lowered s core)
  | 14 => c.idx
  | 15 => c.team
  | 16 => c.pid
  | _ => c.sid

def execSget (h : Hdr) (f : F1) (s : State) : Host.Outcome State Fault Refusal :=
  if f.imm = 6 then
    .next (advanceUniform (deliver s ((lanesOf s.sel.act).map (fun l =>
      pendOf s (.g f.d.toNat l) (Cells.get 0 s.selChain.lanecause l) s.sel.t0 4))) h)
  else uniResult s h 4 (f.imm = 5) f.d (specialReg s f.imm.toNat, 0)

def execSset (h : Hdr) (f : F1) (s : State) : Host.Outcome State Fault Refusal :=
  let c := s.selChain
  let v := sVal c false f.a.toNat s.sel.t0
  match f.imm.toNat with
  | 1 =>
    let s1 := if v % 256 = 0 then s else s.modCtx c.ctx (fun x => { x with lease := v % 256 })
    .next (withMonument (advanceUniform s1 h))
  | 2 =>
    let s1 := logOld s s.selCore c.ctx (.fpst (slotOf s.sel.chain) c.fpst)
    .next (advanceUniform (s1.modChain s.sel.chain (fun c => { c with fpst := fpstSet c.fpst v })) h)
  | 7 =>
    let s1 := logOld s s.selCore c.ctx (.chksb (slotOf s.sel.chain) c.chksb)
    .next (advanceUniform (s1.modChain s.sel.chain (fun c => { c with chksb := decide (v % 2 = 1) })) h)
  | _ => .next (advanceUniform s h)

def execTrap (h : Hdr) (f : F1) (s : State) : Host.Outcome State Fault Refusal :=
  .next (trapIssue s h (f.imm.toNat % 256) (sVal s.selChain false f.a.toNat s.sel.t0))

/-! ## Topology (R180, R50) -/

/-- A valid entry of a context's plat. -/
def platAt (s : State) (ctx v : Nat) : Option Plat := if 128 ≤ v then none else (s.ctxAt ctx).plat[v]?

def noDie : Nat := 0xFFFFFFFF

def execHops (h : Hdr) (f : F0) (s : State) : Host.Outcome State Fault Refusal :=
  let ctx := s.selChain.ctx
  let a := sVal s.selChain false f.a.toNat s.sel.t0
  let b := sVal s.selChain false f.b.toNat s.sel.t0
  let r := match platAt s ctx a, platAt s ctx b with
    | some x, some y => hops x.site y.site
    | _, _ => noDie
  uniResult s h 4 false f.d (r, 0)

def execTopoGrade (h : Hdr) (f : F0) (s : State) : Host.Outcome State Fault Refusal := uniResult s h 4 false f.d (gradeReg, 0)

def execTopoCores (h : Hdr) (f : F0) (s : State) : Host.Outcome State Fault Refusal :=
  uniResult s h 4 false f.d (firstCore s s.selChain.ctx (s.ctxAt s.selChain.ctx).plat.length, 0)

def execTopoDies (h : Hdr) (f : F0) (s : State) : Host.Outcome State Fault Refusal :=
  uniResult s h 4 false f.d ((s.ctxAt s.selChain.ctx).plat.length, 0)

/-- A TOPO form with a virtual die in s(A). -/
def topoDie (h : Hdr) (f : F0) (s : State) (k : Nat → Plat → Nat) : Host.Outcome State Fault Refusal :=
  let v := sVal s.selChain false f.a.toNat s.sel.t0
  uniResult s h 4 false f.d ((match platAt s s.selChain.ctx v with
    | some p => k v p
    | none => noDie), 0)

def execTopoIsland (h : Hdr) (f : F0) (s : State) : Host.Outcome State Fault Refusal := topoDie h f s (fun _ p => islandOf p.site)
def execTopoNcore (h : Hdr) (f : F0) (s : State) : Host.Outcome State Fault Refusal := topoDie h f s (fun _ p => p.cores.length)
def execTopoFirst (h : Hdr) (f : F0) (s : State) : Host.Outcome State Fault Refusal :=
  topoDie h f s (fun v _ => firstCore s s.selChain.ctx v)

/-! ## ISYNC (R181, R155) -/

/-- Whether a sector of a key lies in a range of a tag space, in whole or in part. -/
def keyIn (tag lo n key : Nat) : Bool :=
  decide (tagOfKey key = tag) && decide (vaOfKey key < lo + n) && decide (lo < vaOfKey key + 64)

/-- The issue checks of a pointer to a global range (R116, R181): cause and TVAL. -/
def globalCheck (s : State) (kreg : Nat) (p : Ptr) (write : Bool) : Option (Nat × Nat) :=
  if !p.valid then some (0x0C, kreg)
  else if write ∧ p.share = 1 then some (0x08, p.base)
  else if !(homeOk s s.selChain.ctx s.selCore p) then some (0x09, p.base)
  else if p.space ≠ 0 ∨ p.len = 0 then some (0x0A, p.base)
  else if easeStops (s.coreAt s.selCore) (tagFor s s.selChain.ctx p.base) 0 p.base (p.base + p.len - 1) write then
    some (0x18, p.base)
  else none

def execIsync (h : Hdr) (f : F2) (s : State) : Host.Outcome State Fault Refusal :=
  let p := Ptr.ofBits (s.selChain.readK f.ptr.toNat s.sel.t0)
  let core := s.selCore
  match globalCheck s f.ptr.toNat p false with
  | some (c, t) => .next (trapIssue s h c t)
  | none =>
    let tag := tagFor s s.selChain.ctx p.base
    let hit := ((s.coreAt core).l1.map (·.1)).filter (keyIn tag p.base p.len)
    let lines := (hit.map (· / 4)).eraseDups.length
    let s1 := hit.foldl (fun s k => l1Drop s core k) s
    let s2 := s1.modCore core (fun k => { k with fbuf := k.fbuf.filter (fun e => !(keyIn tag p.base p.len e.1)) })
    .next ((advanceUniform s2 h).modChain s.sel.chain (fun c => { c with elig := max c.elig (s.sel.t0 + 2 + lines) }))

end Sys2Proof.Machine
end

