-- ==== Sys2Proof/Machine/Pointers.lean ====
section
/-!
DEFINITION. Pointer instructions (R216 to R225): the meanings of opcodes 0x200 to 0x206.
-/
namespace Sys2Proof.Machine

/-- A pointer result of class L2. -/
def kResult (s : State) (h : Hdr) (d : BitVec 7) (v : W128) : Host.Outcome State Fault Refusal :=
  .next (advanceUniform (deliver s [pendOf s (.k d.toNat) v.toNat s.sel.t0 2]) h)

def kVal (s : State) (r : BitVec 7) : Ptr := Ptr.ofBits (s.selChain.readK r.toNat s.sel.t0)

/-- PMAKE's pointer before its validity is judged (R217). -/
def pmakePtr (s : State) (here : Bool) (base len ty : Nat) : W128 :=
  let q : Ptr :=
    { ver := 1, hdie := bits ty 31 25, hclu := bits ty 24 22, hcore := bits ty 21 19, res := 0, cv := bit ty 18,
      space := bits ty 17 15, scope := bits ty 14 12, len := len % 2 ^ 40, share := bits ty 11 10, fmt := bits ty 4 0,
      base := base % 2 ^ 57 }
  if base / 2 ^ 57 ≠ 0 ∨ len / 2 ^ 40 ≠ 0 ∨ bits ty 9 5 ≠ 0 then 0
  else (if here then atHere s s.selChain.ctx s.selCore q else q).orZero

def execPmake (h : Hdr) (f : F0) (s : State) : Host.Outcome State Fault Refusal :=
  let c := s.selChain
  let t := s.sel.t0
  kResult s h f.d (pmakePtr s (bit f.sub.toNat 0) (sVal c true f.a.toNat t) (sVal c true f.b.toNat t) (sVal c false f.c.toNat t))

def execPnarrow (h : Hdr) (f : F0) (s : State) : Host.Outcome State Fault Refusal :=
  let p := kVal s f.a
  let sc := f.sub.toNat % 8
  kResult s h f.d (if p.scope < sc ∨ 4 < sc then 0 else (atHere s s.selChain.ctx s.selCore { p with scope := sc }).orZero)

def execPslice (h : Hdr) (f : F0) (s : State) : Host.Outcome State Fault Refusal :=
  let p := kVal s f.a
  let o := sVal s.selChain true f.b.toNat s.sel.t0
  let l := sVal s.selChain true f.c.toNat s.sel.t0
  kResult s h f.d (if !p.valid ∨ p.len < o + l then 0 else Ptr.orZero { p with base := (p.base + o) % 2 ^ 57, len := l })

def execPtype (h : Hdr) (f : F0) (s : State) : Host.Outcome State Fault Refusal :=
  let p := kVal s f.a
  let fm := bits f.sub.toNat 4 0
  kResult s h f.d (if 16 ≤ fm then 0 else Ptr.orZero { p with fmt := fm, share := if bit f.sub.toNat 5 then 1 else p.share })

def execPget (h : Hdr) (f : F0) (s : State) : Host.Outcome State Fault Refusal :=
  let p := kVal s f.a
  match f.sub.toNat with
  | 0 => uniResult s h 2 true f.d (p.base, 0)
  | 1 => uniResult s h 2 true f.d (p.len, 0)
  | _ => uniResult s h 2 false f.d (p.typeWord.toNat, 0)

/-! ## Element addresses (R226, R228) -/

/-- The unit that holds element e + v of a pointer: its address, size, and the element's place in a BS block. -/
def unitAt (p : Ptr) (dw : Bool) (e : Int) (v : Nat) : Int × Nat × Nat :=
  let w := Fmt.size p.fmt dw
  if p.fmt = 0 then ((p.base : Int) + e + v * w, w, 0)
  else if Fmt.isBS p.fmt then ((p.base : Int) + e / 16 * w, w, (e % 16).toNat)
  else ((p.base : Int) + w * (e + v), w, 0)

/-- PCHK's answer (R225). -/
def pchkAns (s : State) (p : Ptr) (kind : Nat) (dw : Bool) (e : Int) : Bool :=
  let bs := Fmt.isBS p.fmt
  let (a, w, sub) := unitAt p dw e 0
  let mis : Option Bool := if bs then some (if kind = 0 then decide (sub % 8 ≠ 0) else decide (sub ≠ 0)) else none
  p.valid && (rform p.fmt dw).isSome && !(bs && decide (kind = 2)) &&
    (unitCheck s s.selChain s.selCore p (decide (kind ≠ 0)) (decide (p.share = 2 ∨ kind = 2)) mis a w).isNone

def execPchk (h : Hdr) (f : F0) (s : State) : Host.Outcome State Fault Refusal :=
  let sb := f.sub.toNat
  let ok := pchkAns s (kVal s f.a) (sb % 4) (bit sb 2) (sextN (sVal s.selChain false f.b.toNat s.sel.t0) 32)
  .next (advanceUniform (deliver s ((lanesOf s.sel.act).map (fun l =>
    pendOf s (.p f.d.toNat l) (if ok then 1 else 0) s.sel.t0 2))) h)

/-! ## PWIDEN (R142, R220, R221) -/

/-- Sends a sector that a level below the home holds dirty up to the home, which absorbs it (R141). -/
def pushUp (s : State) (core key : Nat) : State :=
  let s1 := match l1Find s core key with
    | some c => if c.umask = 0 ∧ c.st ≠ .Q ∧ c.dirty ∧ c.pt < 2 then l1Drop s core key else s
    | none => s
  match l2Find s1 (clusterOf core) key with
  | some d => if d.dirty ∨ d.own ≠ none then l2Drop s1 (clusterOf core) key else s1
  | none => s1

/-- A dirty sector that PWIDEN flushes: held below the coherence point of the new scope. A private page's lie below all but core
scope's. -/
def widenDirty (c : Copy) (scope : Nat) : Bool :=
  c.dirty && (if scope = 0 then false else if scope = 1 then decide (c.pt < 1) || decide (c.st = .Q) else true)

/-- Writes one sector's data at the coherence point of a scope with the stamp of R126. -/
def widenTo (s : State) (acc : Acc) (key : Nat) (data : BitVec 512) : Res Nat :=
  let all := BitVec.allOnes 64
  if acc.scope = 1 then
    let clu := clusterOf acc.core
    let clk := (s.coreAt acc.core).lclk
    match fillPrivate s acc key clk false with
    | .fault s1 c d => .fault s1 c d
    | .wait => .wait
    | .ok s1 _ =>
      let s2 := l2Recall s1 clu key
      match l2Find s2 clu key with
      | some d =>
        let t := max clk (d.rts + 1)
        if stampMax < t then .wait
        else .ok (wake (l2Serve s2 clu key { d with st := .O, data, wts := t, rts := t, dirty := true }) 1 clu key) t
      | none => homeWrite s2 acc.ctx (some acc.core) key data all clk
  else homeWrite s acc.ctx (some acc.core) key data all (s.coreAt acc.core).lclk

/-- A flushed copy stays where it was, clean, with the stamp taken. -/
def Copy.flushed (c : Copy) (data : BitVec 512) (t : Nat) : Copy :=
  { c with st := if c.umask = 0 then .L else .U, data, wts := t, rts := t, dirty := false, own := none }

/-- Flushes a list of dirty sectors of the core's L1 and of its cluster cache: the state and the stamps taken. The cluster
cache's copy of a sector that the core owned is flushed with it. -/
def widenAll (acc : Acc) : List (Nat × Bool) → State → List Nat → Res (List Nat)
  | [], s, ts => .ok s ts
  | (key, low) :: r, s, ts =>
    let clu := clusterOf acc.core
    match (if low then l1Find s acc.core key else l2Find s clu key) with
    | none => widenAll acc r s ts
    | some c =>
      match widenTo (if low then exitMonument s acc.core key else s) acc key c.data with
      | .fault s1 cs d => .fault s1 cs d
      | .wait => .wait
      | .ok s1 t =>
        let s2 := match l1Find s1 acc.core key with
          | some x => if low then l1Set s1 acc.core key (x.flushed c.data t) else s1
          | none => s1
        let s3 := match l2Find s2 clu key with
          | some x => if !low || (x.own = some acc.core && 2 ≤ acc.scope) then l2Set s2 clu key (x.flushed c.data t) else s2
          | none => s2
        widenAll acc r s3 (t :: ts)

/-- The sectors that PWIDEN writes: those of the core's L1, then those of its cluster cache that no core owns. What another core
holds in its own L1 is not flushed (R142). -/
def widenKeys (s : State) (core tag lo n scope : Nat) : List (Nat × Bool) :=
  let mine := (s.coreAt core).l1
  let l1 := (mine.filter (fun e => keyIn tag lo n e.1 && widenDirty e.2 scope)).map (fun e => (e.1, true))
  let l2 := if scope < 2 then [] else
    ((s.clusterAt (clusterOf core)).l2.filter (fun e => keyIn tag lo n e.1 && e.2.dirty &&
      (e.2.own.isNone || (e.2.own = some core && !(l1.any (fun x => x.1 = e.1)))))).map (fun e => (e.1, false))
  l1 ++ l2

/-- Writes of the chain in a range that have not been performed (R221). -/
def rangeOpen (c : Chain) (tag lo n : Nat) : Bool := c.writes.any (fun w => keyIn tag lo n w.key)

def execPwiden (h : Hdr) (f : F0) (s : State) : Host.Outcome State Fault Refusal :=
  let c := s.selChain
  let core := s.selCore
  let p := kVal s f.a
  let sc := f.sub.toNat % 8
  let sh := bits f.sub.toNat 4 3
  let q : Ptr := { p with scope := sc, share := sh }
  if sc < p.scope ∨ !q.valid then .next (advanceUniform (landV s 2 [(.k f.d.toNat, 0)]) h)
  else
    let glob := isGlobal p.space
    let tag := tagFor s c.ctx p.base
    if acquireOpen c ∨ (glob ∧ rangeOpen c tag p.base p.len) ∨ (sh = 2 ∧ !(earlierWrites c sc).isEmpty) ∨ !(c.outs.all (fun o => !o.load)) then
      .next (waitIssue s)
    else
      let keys := if glob then widenKeys s core tag p.base p.len sc else []
      match widenAll { ctx := c.ctx, core, share := sh, scope := sc } keys s [] with
      | .wait => .next (waitIssue s)
      | .fault s1 cause d =>
        .next (advanceUniform (trapLanes s1 ((lanesOf s.sel.act).map (fun l => { lane := l, cause, tval := p.base })) d) h)
      | .ok s1 ts =>
        let t := ts.foldl max 0
        let n := (linesOf p.base p.len).length
        let sweep := max (min n 256) (if sc < 2 then 0 else ceilDiv (min n 8192) 8)
        let far := keys.foldl (fun a k =>
          let site := homeOfKey s k.1
          max a (40 + 3 * hops (siteOf core) site + stitches (siteOf core) site)) 0
        let lat := if !glob then 2 else if keys.isEmpty then sweep + 2 else sweep + (if sc = 1 then 24 else far)
        let s2 := noteWrite (raiseLclk s1 core t) (s1.coreAt core).epoch s.sel.chain c.part c.sid sc t
        .next (withMonument (advanceUniform (landV s2 lat [(.k f.d.toNat, q.toBits.toNat)]) h))

end Sys2Proof.Machine
end

