-- ==== Sys2Proof/Machine/LoadStore.lean ====
section
/-!
DEFINITION. Loads and stores at issue (R226 to R235, R244 to R250): LD, ST, LDX, STX, LDPRS, LCADV, PUBOPEN and PUBLISH.
What reaches a home travels as messages (LsuEvents.lean).
-/
namespace Sys2Proof.Machine

/-! ## Units of an instruction -/

/-- The registers of data element v in a lane; lane 32 stands for a chain-uniform access (R226). -/
def dataCells (f : F2) (lane v : Nat) : List CellId :=
  let r := f.data.toNat + (if f.dw then 2 * v else v)
  let one (r : Nat) : CellId := if f.udata then .s r else .g r lane
  if f.dw then [one r, one (r + 1)] else [one r]

/-- The lanes of an access: one chain-uniform access, or the active lanes. -/
def accLanes (s : State) (f : F2) : List Nat := if f.udata then [32] else lanesOf s.sel.act

/-- A unit with its address still signed, and the registers of its data. -/
structure RawUnit where
  a : Int
  size : Nat
  sub : Nat
  cells : List CellId
deriving DecidableEq, Repr, Inhabited

/-- The element index of a lane (R226): an offset of w bits, plus the lane's register. -/
def elemIndex (s : State) (f : F2) (off w lane : Nat) : Int :=
  sextN off w + (if f.loff then sextN (s.selChain.readG f.lane.toNat lane (laneCycle s lane)) 32 else 0)

/-- The units of one lane of LD or ST. -/
def lsUnits (s : State) (f : F2) (p : Ptr) (lane : Nat) : List RawUnit :=
  let e := elemIndex s f f.off.toNat 20 lane
  if Fmt.isBS p.fmt then
    let (a, w, sub) := unitAt p f.dw e 0
    [{ a, size := w, sub, cells := (List.range 8).flatMap (dataCells f lane) }]
  else
    (List.range (2 ^ f.vc.toNat)).map (fun v =>
      let (a, w, sub) := unitAt p f.dw e v
      { a, size := w, sub, cells := dataCells f lane v })

/-- `bank_permute` (R268). -/
def bankPermute (mode a : Nat) : Nat :=
  let x := bits a 5 2
  let y := if mode = 0 then x
    else if mode ≤ 7 then x ^^^ bits a (mode + 8) (mode + 5)
    else if mode ≤ 14 then (x + bits a (mode + 1) (mode - 2)) % 16
    else (bits a 5 3 ^^^ bits a 8 6) * 2 + x % 2
  a - x * 4 + y * 4

/-- The layout word of three s registers (R61). -/
structure Layout where
  off : Nat
  space : Nat
  res : Nat
  s1 : Nat
  s2 : Nat
  s3 : Nat
  mode : Nat
deriving DecidableEq, Repr, Inhabited

def Layout.ofWords (a b c : Nat) : Layout :=
  { off := bits a 23 0, space := bits a 26 24, res := bits a 31 27, s1 := bits b 15 0, s2 := bits b 31 16,
    s3 := bits c 27 0, mode := bits c 31 28 }

/-- An address through a layout (R233, R267). -/
def Layout.addr (l : Layout) (base i1 i2 i3 : Nat) : Nat :=
  bankPermute l.mode (base + l.off + i1 * l.s1 + i2 * l.s2 + i3 * l.s3)

def layoutOf (s : State) (r : Nat) : Layout :=
  let c := s.selChain
  Layout.ofWords (c.readS r s.sel.t0) (c.readS (r + 1) s.sel.t0) (c.readS (r + 2) s.sel.t0)

/-- The units of one lane of LDX or STX (R233). -/
def lxUnits (s : State) (f : F2) (p : Ptr) (lane : Nat) : List RawUnit :=
  let l := layoutOf s f.lane.toNat
  let w := Fmt.size p.fmt f.dw
  let a := l.addr p.base lane (bits f.off.toNat 9 0) (bits f.off.toNat 19 10)
  (List.range (2 ^ f.vc.toNat)).map (fun v => { a := (a + v * w : Nat), size := w, sub := 0, cells := dataCells f lane v })

/-! ## Issue checks of a lane -/

/-- Whether the pointer's format, width and count have no register form (R227, R228). -/
def noForm (p : Ptr) (f : F2) : Bool :=
  (rform p.fmt f.dw).isNone || (Fmt.isBS p.fmt && (f.vc != 3 || f.dw))

/-- The first cause of a lane's units. -/
def laneCause (s : State) (kreg : Nat) (p : Ptr) (ill write sync : Bool) (bs : Nat → Option Bool) (us : List RawUnit) :
    Option (Nat × Nat) :=
  us.findSome? (fun u => accessCheck s s.selChain s.selCore kreg p ill write sync (bs u.sub) u.a u.size s.sel.word.toNat)

/-- Lane faults of an access: a chain-uniform access faults every active lane (R226). -/
def accFaults (s : State) (l : List (Nat × Option (Nat × Nat))) : List LaneFault :=
  l.flatMap (fun x => match x.2 with
    | none => []
    | some (c, t) => if x.1 = 32 then (lanesOf s.sel.act).map (fun i => { lane := i, cause := c, tval := t })
                     else [{ lane := x.1, cause := c, tval := t }])

/-- The key of the sector an access reaches (R119, R464). -/
def accKey (s : State) (ctx : Nat) (p : Ptr) (a : Nat) : Nat :=
  if p.space = 5 then peerKey ((peerAddr s ctx p.base a).getD (2 ^ 62)) else keyFor s ctx a

/-- The sector key of an atomic's unit. -/
def atomKey (s : State) (acc : Acc) (va : Nat) : Nat :=
  if acc.win then peerKey ((peerAddr s acc.ctx va va).getD (2 ^ 62)) else keyFor s acc.ctx va

/-- The sectors of a unit with their places. -/
def unitKeys (s : State) (ctx : Nat) (p : Ptr) (a size : Nat) : List (Nat × Nat) :=
  (accKey s ctx p a, 0) :: (if a / 64 = (a + size - 1) / 64 then [] else [(accKey s ctx p (a + size - 1), 1)])

/-- What an access is to the memory system. -/
def accOf (s : State) (p : Ptr) (nt : Bool) : Acc :=
  { ctx := s.selChain.ctx, core := s.selCore, share := p.share, scope := p.scope, nt, tns := decide (p.space = 6), win := decide (p.space = 5),
    cv := p.cv }

/-- Lanes that meet an absent typed-buffer line park with their entry until it lands (R232, R257). -/
def anyAbsent (s : State) (p : Ptr) (us : List RawUnit) : Bool :=
  us.any (fun u => absent (s.coreAt s.selCore) p.space u.a.toNat || absent (s.coreAt s.selCore) p.space (u.a.toNat + u.size - 1))

def parkLine (s : State) (h : Hdr) : State :=
  account (s.modChain s.sel.chain (fun c => c.park (restLanes s) .line s.sel.pc s.sel.prio)) h.stall.toNat 1

/-! ## Values -/

/-- Register results of a unit from its bytes (R227, R228). -/
def unitRegs (u : LUnit) : List (CellId × Nat) × Flags :=
  if Fmt.isBS u.fmt then
    (u.cells.zipIdx.map (fun x => (x.1, (fencode .f32 0 (bsDecode1 (Fmt.bsM u.fmt) u.data (u.sub + x.2))).1)), 0)
  else
    let (v, fl) := loadConv u.fmt u.dw u.data
    (u.cells.zipIdx.map (fun x => (x.1, v / 2 ^ (32 * x.2) % 2 ^ 32)), fl)

/-- The cell that FPST flags of a result go to. -/
def flagCell (fl : Flags) : List (CellId × Nat) := if fl = 0 then [] else [(.fpst, fl.toNat)]

/-- Takes a unit's bytes from a sector. -/
def fillUnit (u : LUnit) (key : Nat) (data : BitVec 512) : LUnit :=
  match u.keys.find? (fun k => k.1 = key) with
  | none => u
  | some (_, i) =>
    let off := u.va % 64
    let v := if i = 0 then sectorBytes data off (min u.size (64 - off))
             else sectorBytes data 0 (u.size - (64 - off)) * 2 ^ (8 * (64 - off))
    { u with data := u.data + v, keys := u.keys.filter (fun k => k.1 ≠ key) }

/-- The stores of a chain in its side log that a load reads of a sector: those issued before it, in issue order (R250). -/
def loggedStores (s : State) (ch seq key : Nat) : List SideEnt :=
  (s.coreAt (coreOf ch)).side.filter (fun e => decide (e.chain = primaryOf s ch) && decide (e.seq < seq) && e.atom.isNone &&
    decide (atomKey s e.acc e.va = key))

/-- What a chain's load reads of a sector: U bytes of its core (R246), then its own side-log bytes, newest last (R250). -/
def seenData (s : State) (ch seq key : Nat) (data : BitVec 512) : BitVec 512 :=
  let d1 := match l1Find s (coreOf ch) key with
    | some c => sectorMerge data c.udata c.umask
    | none => data
  (loggedStores s ch seq key).foldl (fun d e => sectorMerge d e.data e.mask) d1

/-- The bytes of a sector that units read. -/
def unitMask (us : List LUnit) (key : Nat) : BitVec 64 :=
  us.foldl (fun m u => u.keys.foldl (fun m k =>
    if k.1 ≠ key then m
    else if k.2 = 0 then m ||| byteMask (u.va % 64) (min u.size (64 - u.va % 64))
    else m ||| byteMask 0 (u.size - (64 - u.va % 64))) m) 0

/-- The side log holds every byte that a load reads of a sector (R250). -/
def logCovers (s : State) (ch seq key : Nat) (us : List LUnit) : Bool :=
  let m := (loggedStores s ch seq key).foldl (fun (m : BitVec 64) e => m ||| e.mask) 0
  m != 0 && unitMask us key &&& ~~~m == 0

/-! ## Rotation and spin-park (R33, R39) -/

/-- A synchronising load that may spin-park its chain: the units whose addresses lie in a sector, and what issues it again. -/
structure Poll where
  acc : Acc
  pc : Nat
  lanes : Mask
  units : List LUnit
  seq : Nat
deriving DecidableEq, Repr, Inhabited

/-- The addresses of a load in a sector. -/
def pollAddrs (p : Poll) (key : Nat) : List Nat := ((p.units.filter (fun u => u.keys.contains (key, 0))).map (·.va)).eraseDups

/-- A lease renewal of a sector has returned a wts to the first entry's load: an address whose renewal before it returned the
same wts spin-parks the chain (R39). -/
def noteRenewal (s : State) (ch key wts level : Nat) (p : Poll) : State :=
  match s.chain? ch with
  | none => s
  | some c =>
    let vas := pollAddrs p key
    if !(vas.any (fun a => c.spin.any (fun x => decide (x.va = a ∧ x.wts = wts)))) then
      let l := c.spin.filter (fun x => !(vas.contains x.va)) ++ vas.map (fun a => ({ va := a, key, wts } : Spin))
      modBoth s ch (fun c => { c with spin := l })
    else
      let core := coreOf ch
      let s1 := (modBoth s ch (fun c => { c with spin := [] })).modChain ch (fun c => { c with
        active := false,
        spinPark := some { key, since := (s.coreAt core).cc, acc := p.acc, pc := p.pc, lanes := p.lanes, units := p.units, seq := p.seq } })
      if level = 2 then send s1 4 (key / 4) (siteOf core) (homeOfKey s key) (s.coreAt core).epoch (.spinReg ch key wts level)
      else { s1 with spins := s1.spins ++ [(level, if level = 0 then core else clusterOf core, key, ch, wts)] }

/-- The place of a lane's address among the chain's remembered synchronising loads. -/
def seenAt (lane va : Nat) : Nat := lane * 2 ^ 57 + va

/-- Notes the wts that a lane's synchronising load of an address found (R33). -/
def noteSeen (s : State) (ch lane va wts : Nat) : State :=
  modBoth s ch (fun c => { c with syncSeen := Cells.set 0 c.syncSeen (seenAt lane va) (wts + 1) })

/-- A lane's previous synchronising load of an address found the same wts. -/
def sameSeen (c : Chain) (lane va wts : Nat) : Bool := Cells.get 0 c.syncSeen (seenAt lane va) = wts + 1

/-! ## Loads -/

/-- How one sector of a load is served: at once (data, latency, its wts, whether from an L1 lease), by its home later, not
now, or with a cause. -/
inductive Got where
  | now (s : State) (data : BitVec 512) (lat wts : Nat) (hit : Bool)
  | later (s : State)
  | wait
  | fault (s : State) (cause detail : Nat)
deriving Inhabited

/-- Serves one sector at issue where R125 allows it. -/
def loadSector (s0 : State) (ch : Nat) (acc : Acc) (key : Nat) (sync : Bool) (us : List LUnit) : Got :=
  let core := acc.core
  let s := cluFor s0 core
  let lclk := (s.coreAt core).lclk
  let low := !acc.nt && !acc.tns && acc.scope ≠ 4 && !(isPeerKey key) && !(barred s acc.ctx key)
  -- bytes that the log holds need no memory access; they come as from an L1 hit (log entry 100)
  if logCovers s ch s.sel.seq key us then .now s 0 12 0 false else
  let force := sync && decide ((Tab.get {} s.chains ch).renew = some key)
  let hit := match l1Find s core key with
    | some c => if low && viewServes acc c && l1Serves c lclk && !(force && c.st = SSt.L) then some c else none
    | none => none
  if !(cluOk s core) then .wait
  else match hit with
  | some c =>
    let s1 := l1Touch s core key
    if c.st = .Q ∨ !sync then .now s1 (viewCopy c) 12 c.wts true
    else
      let t := max lclk c.wts
      let s2 := if c.st = .O then l1Set s1 core key { c with rts := max c.rts t } else s1
      if stampMax < t + 1 then .wait else .now (raiseLclk s2 core (t + 1)) (viewCopy c) 12 c.wts true
  | none =>
    if low && sync && acc.scope ≤ 1 then
      match cohRead s acc key lclk true with
      | .ok s1 r =>
        let s2 := raiseLclk s1 core r.t
        .now (if s.sel.demote.isNone then noteRenewal s2 ch key r.wts acc.scope { acc, pc := s.sel.pc, lanes := s.sel.act, units := us, seq := s.sel.seq } else s2)
          r.data 24 r.wts false
      | .wait => .wait
      | .fault s1 c d => .fault s1 c d
    else if low && !sync then
      let s0 := l2Recall s (clusterOf core) key
      match l2Find s0 (clusterOf core) key with
      | some c =>
        if l2Serves c lclk && viewServes acc c then .now (l1Fill (l2Touch s0 (clusterOf core) key) core key c.data c.wts c.rts c.exp) c.data 24 c.wts false
        else .later s0
      | none => .later s0
    else .later s

/-- Drops what the L1 and the cluster cache hold of a sector that a non-temporal access touches (R215). -/
def ntDrop (s : State) (core key : Nat) : State := l2Drop (l1Drop s core key) (clusterOf core) key

/-- Progress of a load over its sectors: units, latency so far, per-sector wts and hit, causes. -/
structure LoadAcc where
  units : List LUnit
  /-- The units as the load has them, each with its sectors. -/
  all : List LUnit := units
  lat : Nat := 0
  seen : List (Nat × Nat × Bool) := []
  faults : List (Nat × Nat × Nat) := []
deriving DecidableEq, Repr, Inhabited

/-- Serves the sectors of a load in order; none when the instruction must wait. -/
def loadAll (ch : Nat) (acc : Acc) (sync : Bool) : List Nat → State → LoadAcc → Option (State × LoadAcc)
  | [], s, a => some (s, a)
  | key :: r, s, a =>
    let s0 := if acc.nt then ntDrop s acc.core key else s
    match loadSector s0 ch acc key sync a.all with
    | .wait => none
    | .now s1 d lat wts hit =>
      let d' := if acc.cv then d else seenData s1 ch s.sel.seq key d
      loadAll ch acc sync r s1 { a with units := a.units.map (fun u => fillUnit u key d'), lat := max a.lat lat,
                                        seen := (key, wts, hit) :: a.seen }
    | .fault s1 c d => loadAll ch acc sync r s1 { a with faults := (key, c, d) :: a.faults }
    | .later s1 =>
      let k := s1.coreAt acc.core
      let s2 := send s1 (if sync then 4 else 0) (key / 4) (siteOf acc.core) (homeOfKey s1 key) k.epoch
        (.read acc ch s1.sel.seq s1.sel.pc key k.lclk (s1.ctxAt acc.ctx).lease)
      loadAll ch acc sync r s2 a

/-- The cycle after which the results of a load count (R231). -/
def lastIssue (s : State) (f : F2) : Nat := if f.udata then s.sel.t0 else lastGroup s

/-- Ends a load or store: the issue cycles of its lanes. -/
def advanceAcc (s : State) (h : Hdr) (f : F2) : State := if f.udata then advanceUniform s h else advanceLanes s h

/-- A load of global, tensor-view or peer memory (R125, R231). -/
def globalLoad (h : Hdr) (f : F2) (s : State) (p : Ptr) (good : List (Nat × List RawUnit)) (fs : List LaneFault) :
    Host.Outcome State Fault Refusal :=
  let ch := s.sel.chain
  let c := s.selChain
  let acc := accOf s p f.nt
  let sync := p.share = 2
  let units := good.flatMap (fun x => x.2.map (fun u =>
    ({ lane := x.1, cells := u.cells, fmt := p.fmt, dw := f.dw, va := u.a.toNat, size := u.size, sub := u.sub, data := 0,
       keys := unitKeys s c.ctx p u.a.toNat u.size } : LUnit)))
  let keys := (units.flatMap (fun u => u.keys.map (·.1))).eraseDups
  if acquireOpen c ∨ keys.any (sectorOpen s ch) then .next (waitIssue s)
  else match loadAll ch acc sync keys (trapLanes s fs) { units } with
    | none => .next (waitIssue s)
    | some (s1, a) =>
      let t := lastIssue s f
      let ready := a.units.filter (fun u => u.keys.isEmpty)
      let open_ := a.units.filter (fun u => !u.keys.isEmpty)
      let ws := ready.flatMap (fun u => let r := unitRegs u; r.1 ++ flagCell r.2)
      let s2 := deliver s1 (ws.map (fun w => { cell := w.1, val := w.2, land := t + a.lat, start := t, lat := 0, seq := s.sel.seq }))
      let s3 := if open_.isEmpty then s2
        else s2.modChain ch (fun c => { c with outs := c.outs ++ [{
          seq := s.sel.seq, cells := open_.flatMap (·.cells), acq := sync, load := true, units := open_,
          lanes := if f.udata then s.sel.act else faultMask (open_.map (fun u => { lane := u.lane, cause := 0, tval := 0 })), pc := s.sel.pc,
          first := s.sel.demote.isNone, all := units }] })
      let s4 := a.faults.foldl (fun s x =>
        send s 1 (x.1 / 4) (homeOfKey s x.1) (siteOf acc.core) (s.coreAt acc.core).epoch
          (.fault ch acc.core s.sel.seq s.sel.pc 0 x.2.1 0 x.2.2 (.read acc ch s.sel.seq s.sel.pc x.1 (s.coreAt acc.core).lclk (s.ctxAt acc.ctx).lease))) s3
      if !sync then .next (advanceAcc s4 h f)
      else
        -- per lane: the wts of the first sector of its first unit (R33)
        let firsts := good.filterMap (fun x => x.2.head?.map (fun u => (x.1, u.a.toNat, accKey s c.ctx p u.a.toNat)))
        let known := firsts.filterMap (fun x => (a.seen.find? (fun e => e.1 = x.2.2)).map (fun e => (x.1, x.2.1, e.2.1)))
        let turn := open_.isEmpty && a.faults.isEmpty && a.seen.all (fun e => e.2.2) &&
          known.all (fun x => sameSeen c x.1 x.2.1 x.2.2)
        let s5 := known.foldl (fun s x => noteSeen s ch x.1 x.2.1 x.2.2) s4
        let s6 := (setRot s5 turn).modChain ch (fun c => { c with renew := if keys.any (fun k => c.renew = some k) then none else c.renew })
        .next (advanceAcc s6 h f)

/-- The key under which a write to spaces 1 to 4 that is still on its way stands. -/
def localKey (space a : Nat) : Nat := 2 ^ 110 + space * 2 ^ 60 + a / 64

/-- A write of the chain to bytes of spaces 1 to 4 is still on its way (R133). -/
def localOpen (s : State) (ch space a n : Nat) : Bool :=
  (localParts (Tab.get {} s.chains ch) space a n).any (fun x =>
    sectorOpen s ch (localKey space x.1) || sectorOpen s ch (localKey space (x.1 + x.2.1 - 1)))

/-- A load of a typed buffer, accumulator memory or cluster-shared space. -/
def localLoad (h : Hdr) (f : F2) (s : State) (p : Ptr) (good : List (Nat × List RawUnit)) (fs : List LaneFault) :
    Host.Outcome State Fault Refusal :=
  let c := s.selChain
  if acquireOpen c ∨ good.any (fun x => x.2.any (fun u => localOpen s s.sel.chain p.space u.a.toNat u.size)) then .next (waitIssue s)
  else if anyAbsent s p (good.flatMap (·.2)) then .next (parkLine s h)
  else
    let t := lastIssue s f
    let lat := if p.space = 4 then 24 else 6
    let ws := good.flatMap (fun x => x.2.flatMap (fun u =>
      let r := unitRegs { lane := x.1, cells := u.cells, fmt := p.fmt, dw := f.dw, va := u.a.toNat, size := u.size, sub := u.sub,
                          data := partsRead s c s.selCore p.space u.a.toNat u.size, keys := [] }
      r.1 ++ flagCell r.2))
    let s1 := deliver (trapLanes s fs) (ws.map (fun w => { cell := w.1, val := w.2, land := t + lat, start := t, lat := 0, seq := s.sel.seq }))
    .next (advanceAcc (if p.share = 2 then setRot s1 false else s1) h f)

/-- LD and LDX once their units are known. -/
def loadMeaning (h : Hdr) (f : F2) (s : State) (p : Ptr) (ill : Bool) (us : Nat → List RawUnit) :
    Host.Outcome State Fault Refusal :=
  let bs (sub : Nat) : Option Bool := if Fmt.isBS p.fmt then some (decide (sub % 8 ≠ 0)) else none
  let ls := (accLanes s f).map (fun l => (l, us l, laneCause s f.ptr.toNat p ill false (decide (p.share = 2)) bs (us l)))
  let fs := accFaults s (ls.map (fun x => (x.1, x.2.2)))
  let good := (ls.filter (fun x => x.2.2.isNone)).map (fun x => (x.1, x.2.1))
  if good.isEmpty then .next (advanceAcc (trapLanes s fs) h f)
  else if isGlobal p.space ∨ p.space = 5 then globalLoad h f s p good fs
  else localLoad h f s p good fs

def ptrReg (s : State) (f : F2) : Ptr := Ptr.ofBits (s.selChain.readK f.ptr.toNat s.sel.t0)

def execLd (h : Hdr) (f : F2) (s : State) : Host.Outcome State Fault Refusal :=
  let p := ptrReg s f
  loadMeaning h f s p (noForm p f) (lsUnits s f p)

/-- What LDX and STX check before their lanes: reserved bits of the layout word, then a space that differs reads as no
bytes at all, so that check 4 fails (R233). -/
def lxPtr (s : State) (f : F2) (p : Ptr) : Ptr := if (layoutOf s f.lane.toNat).space = p.space then p else { p with len := 0 }

/-- BS formats and 8-byte units under modes 1 to 14 have no meaning (R233, R268). -/
def lxIll (s : State) (f : F2) (p : Ptr) : Bool :=
  let m := (layoutOf s f.lane.toNat).mode
  (rform p.fmt f.dw).isNone || Fmt.isBS p.fmt || (Fmt.size p.fmt f.dw = 8 && 1 ≤ m && m ≤ 14)

def execLdx (h : Hdr) (f : F2) (s : State) : Host.Outcome State Fault Refusal :=
  let p := ptrReg s f
  if (layoutOf s f.lane.toNat).res ≠ 0 then .next (trapIssue s h 2 s.sel.word.toNat)
  else loadMeaning h f s (lxPtr s f p) (lxIll s f p) (lxUnits s f p)

/-! ## Stores -/

/-- Bytes of one sector that an instruction stores, with the lanes they came from. -/
structure SecBytes where
  key : Nat
  va : Nat
  data : BitVec 512
  mask : BitVec 64
  vas : List (Nat × Nat)
deriving DecidableEq, Repr, Inhabited

/-- Adds bytes to the sector they belong to; a later lane's value remains (R229). -/
def addBytes (l : List SecBytes) (act : Mask) (key va lane lo n v : Nat) : List SecBytes :=
  if n = 0 then l
  else
    let vs := if lane = 32 then (lanesOf act).map (fun i => (i, va)) else [(lane, va)]
    match l.find? (fun x => x.key = key) with
    | some x => l.map (fun y => if y.key = key then
        { x with data := sectorPut x.data lo n v, mask := x.mask ||| byteMask lo n, vas := x.vas ++ vs } else y)
    | none => l ++ [{ key, va := va / 64 * 64, data := sectorPut 0 lo n v, mask := byteMask lo n, vas := vs }]

/-- The stored bytes of units with their values, in lane order. -/
def gatherBytes (s : State) (ctx : Nat) (p : Ptr) (us : List (Nat × Nat × Nat × Nat)) : List SecBytes :=
  us.foldl (fun l u =>
    let (lane, a, size, v) := u
    let off := a % 64
    let n0 := min size (64 - off)
    let l1 := addBytes l s.sel.act (accKey s ctx p a) a lane off n0 v
    if n0 = size then l1 else addBytes l1 s.sel.act (accKey s ctx p (a + n0)) (a + n0) lane 0 (size - n0) (v / 2 ^ (8 * n0))) []

/-- The register value of a unit. -/
def cellsVal (s : State) (cells : List CellId) : Nat :=
  cells.zipIdx.foldl (fun a x =>
    let v := match x.1 with
      | .g r l => s.selChain.readG r l (laneCycle s l)
      | .s r => s.selChain.readS r s.sel.t0
      | _ => 0
    a + v * 2 ^ (32 * x.2)) 0

/-- The value a lane stores (R227, R228): a BS block takes its own eight values and those of the next lane if active. A chain-uniform
store has no next lane, and +0 stands for its values (DESIGN CHOICE, log entry 95). -/
def storeVal (s : State) (f : F2) (p : Ptr) (lane : Nat) (u : RawUnit) : Nat × Flags :=
  if Fmt.isBS p.fmt then
    let own := u.cells.map (fun c => fdecode .f32 (cellsVal s [c]))
    let other := if lane < 31 ∧ s.sel.act.getLsbD (lane + 1) then
        ((List.range 8).flatMap (dataCells f (lane + 1))).map (fun c => fdecode .f32 (cellsVal s [c]))
      else List.replicate 8 (FVal.zero false)
    bsEncode (Fmt.bsM p.fmt) (own ++ other) 0
  else storeConv p.fmt f.dw (cellsVal s u.cells)

/-- Logs the old copy of a sector in the L1 at a private or read-shared write (R185). -/
def logSector (s : State) (core ctx seq key : Nat) : State :=
  match Tab.find (s.coreAt core).mons ctx with
  | some m => if seq < m.seq then s else logOld s core ctx (.sector key (l1Find s core key))
  | none => s

/-- The open publication region of a core that covers bytes of a sector, and those bytes (R143). -/
def regionMask (k : Core) (key : Nat) (mask : BitVec 64) : BitVec 64 :=
  k.regions.foldl (fun m g =>
    if g.pub.isSome ∨ g.tag ≠ tagOfKey key then m
    else m ||| (BitVec.ofNat 64 ((List.range 64).foldl (fun a i =>
      let x := vaOfKey key + i
      if g.lo ≤ x ∧ x < g.lo + g.len then a + 2 ^ i else a) 0) &&& mask)) 0

/-- A store into a publication region: U bytes with no stamp (R143). -/
def storeU (s : State) (core key : Nat) (data : BitVec 512) (mask : BitVec 64) : State :=
  match l1Find s core key with
  | some c => l1Set s core key { c with umask := c.umask ||| mask, udata := sectorMerge c.udata data mask,
                                        st := if c.st = SSt.L then SSt.U else c.st }
  | none => l1Insert s core key { st := .U, data := 0, wts := 0, rts := 0, umask := mask, udata := data, bare := true }

/-- A store to a cluster-scope sector: stamped at the cluster cache, handed to the L1 (R126, R230). -/
def storeCluster (s : State) (acc : Acc) (key : Nat) (data : BitVec 512) (mask : BitVec 64) : Res Nat :=
  let clu := clusterOf acc.core
  let clk := (s.coreAt acc.core).lclk
  let s0 := match l1Find s acc.core key with
    | some c => if c.dirty && decide (c.pt = 0) && decide (c.umask = 0) then l1Drop s acc.core key else s
    | none => s
  match fillPrivate s0 acc key clk false with
  | .fault s1 c d => .fault s1 c d
  | .wait => .wait
  | .ok s1 _ =>
    let s2 := l2Recall s1 clu key
    match l2Find s2 clu key with
    | none =>
      match l1Find s2 acc.core key with
      | some c =>
        if c.st = .Q then .ok (l1Set s2 acc.core key { c with data := sectorMerge c.data data mask, dirty := true }) 0
        else homeWrite s2 acc.ctx (some acc.core) key data mask clk
      | none => homeWrite s2 acc.ctx (some acc.core) key data mask clk
    | some d =>
      let t := max clk (d.rts + 1)
      let new := sectorMerge d.data data mask
      if stampMax < t then .wait
      else match l1Find s2 acc.core key with
        | some c =>
          if c.umask ≠ 0 then
            .ok (wake (l2Serve s2 clu key { d with st := .O, data := new, wts := t, rts := t, dirty := true }) 1 clu key) t
          else hand s2 clu d new t
        | none => hand s2 clu d new t
where
  hand (s : State) (clu : Nat) (d : Copy) (new : BitVec 512) (t : Nat) : Res Nat :=
    let s1 := l2Serve s clu key { d with st := .O, wts := t, rts := t, own := some acc.core }
    .ok (wake (l1Insert s1 acc.core key { st := .O, data := new, wts := t, rts := t, dirty := true, pt := 1 }) 1 clu key) t

/-- Whether an owned L1 copy may take a store through a pointer of a scope without a message (R126). -/
def ownsFor (c : Copy) (scope : Nat) : Bool := c.st = .O && decide (min scope 2 ≤ c.pt) && decide (scope ≠ 4)

/-- A page of the chain's side log holds a sector (R250): the record it retires under. -/
def loggedPage (s : State) (ch key : Nat) : Option Nat :=
  ((s.coreAt (coreOf ch)).side.find? (fun e => decide (e.chain = ch) && decide (atomKey s e.acc e.va / 64 = key / 64))).map (·.rid)

/-- The side log has room for one more entry (R214). -/
def sideRoom (s : State) (core : Nat) : Bool := decide ((s.coreAt core).side.length < 512)

/-- The cause and DETAIL under which a record stands. -/
def recCause (s : State) (rid : Nat) : Nat × Nat :=
  match Tab.find s.recs rid with
  | some r => ((recFault r).cause, r.detail)
  | none => (0, 0)

/-- A new outstanding write of the issuing chain. -/
def openWrite (s : State) (scope key : Nat) : Nat × State :=
  let (id, s1) := s.fresh
  (id, s1.modChain s.sel.chain (fun c => { c with writes := c.writes ++ [{ id, seq := s.sel.seq, scope, key }] }))

def sideOf (s : State) (acc : Acc) (rid wid : Nat) (b : SecBytes) (at_ : Option AtomOp) : SideEnt :=
  let c := s.selChain
  { chain := s.sel.chain, rid, seq := s.sel.seq, wid, acc, va := b.va, data := b.data, mask := b.mask, vas := b.vas,
    atom := at_, pc := s.sel.pc, part := c.part, sid := c.sid }

/-- A write that a memory-side cause meets at once goes to the side log by message (R249). -/
def sendLogged (s : State) (acc : Acc) (b : SecBytes) (at_ : Option AtomOp) (cause detail : Nat) : State :=
  let (wid, s1) := openWrite s acc.scope b.key
  send s1 1 (b.key / 4) (homeOfKey s b.key) (siteOf acc.core) (s.coreAt acc.core).epoch
    (.logged acc.core (sideOf s acc 0 wid b at_) cause detail)

/-- A synchronising store below the home that must follow earlier accesses of its chain goes on its way; the chain's later accesses
are not held (R135). -/
def sendLate (s : State) (acc : Acc) (b : SecBytes) : State :=
  let after := earlierWrites s.selChain acc.scope
  let (wid, s1) := openWrite s acc.scope b.key
  let site := siteOf acc.core
  send s1 0 (b.key / 4) site site (s.coreAt acc.core).epoch
    (.late acc s.sel.chain s.sel.seq s.sel.pc b.key wid b.data b.mask b.vas after)

/-- Sends a store to its home; a synchronising one follows the chain's earlier writes (R135). -/
def sendStore (s : State) (acc : Acc) (b : SecBytes) : State :=
  let after := if acc.share = 2 then earlierWrites s.selChain acc.scope else []
  let s0 := if acc.nt then ntDrop s acc.core b.key else pushUp s acc.core b.key
  let (wid, s1) := openWrite s0 acc.scope b.key
  send s1 0 (b.key / 4) (siteOf acc.core) (homeOfKey s b.key) (s.coreAt acc.core).epoch
    (.store acc s.sel.chain s.sel.seq s.sel.pc b.key wid b.data b.mask b.vas (s.coreAt acc.core).lclk after)

/-- Performs the bytes of one sector of a store, or sends them (R126, R132, R143, R230, R250). -/
def storeSector (s : State) (acc : Acc) (b0 : SecBytes) : Option State :=
  let ch := s.sel.chain
  let core := acc.core
  let c := s.selChain
  let um := if isPeerKey b0.key || acc.tns then 0 else regionMask (s.coreAt core) b0.key b0.mask
  let s0 := if um = 0 then s else storeU (logSector s core c.ctx s.sel.seq b0.key) core b0.key b0.data um
  let b := { b0 with mask := b0.mask &&& ~~~um }
  let low := !acc.nt && !acc.tns && acc.scope ≠ 4 && !(isPeerKey b.key) && !(barred s acc.ctx b.key)
  let held := acc.share = 2 && !(earlierWrites c acc.scope).isEmpty
  let done (r : Res Nat) : Option State :=
    match r with
    | .ok s1 t => some (noteWrite (raiseLclk s1 core t) (s1.coreAt core).epoch ch c.part c.sid acc.scope t)
    | .wait => none
    | .fault s1 cause d => some (sendLogged s1 acc b none cause d)
  if b.mask = 0 then some s0
  else match loggedPage s0 ch b.key with
    | some rid =>
      if !(sideRoom s0 core) then some (sendLogged s0 acc b none (recCause s0 rid).1 (recCause s0 rid).2)
      else
        let (wid, s1) := openWrite s0 acc.scope b.key
        some (s1.modCore core (fun k => { k with side := k.side ++ [sideOf s acc rid wid b none] }))
    | none =>
      match (if low then l1Find s0 core b.key else none) with
      | some cp =>
        if cp.st = .Q then
          if sectorOpen s0 ch b.key || held || loadsOpen c s.sel.seq then later s0 b
          else
            let s1 := if acc.share = 2 then s0 else logSector s0 core c.ctx s.sel.seq b.key
            some (l1Set s1 core b.key { cp with data := sectorMerge cp.data b.data b.mask, dirty := true })
        else if ownsFor cp acc.scope then
          if sectorOpen s0 ch b.key || held || loadsOpen c s.sel.seq then later s0 b
          else
            let s1 := if acc.share = 2 then s0 else logSector s0 core c.ctx s.sel.seq b.key
            let t := max (s1.coreAt core).lclk (cp.rts + 1)
            if stampMax < t then none
            else
              done (.ok (wake (l1Set (l1Touch s1 core b.key) core b.key
                { cp with data := sectorMerge cp.data b.data b.mask, wts := t, rts := t, dirty := true }) 0 core b.key) t)
        else below s0 ch c core b held done
      | none => if low && acc.scope ≤ 1 then below s0 ch c core b held done else some (sendStore s0 acc b)
where
  later (s : State) (b : SecBytes) : Option State := if acc.share = 2 then some (sendLate s acc b) else none
  below (s0 : State) (ch : Nat) (c : Chain) (core : Nat) (b : SecBytes) (held : Bool) (done : Res Nat → Option State) :
      Option State :=
    if acc.scope ≤ 1 then
      if sectorOpen s0 ch b.key || held || loadsOpen c s0.sel.seq then later s0 b
      else
        let s1 := if acc.share = 2 then s0 else logSector s0 core c.ctx s0.sel.seq b.key
        done (if acc.scope = 0 then cohWrite s1 acc b.key b.data b.mask (s1.coreAt core).lclk else storeCluster s1 acc b.key b.data b.mask)
    else some (sendStore s0 acc b)

def storeAll (acc : Acc) : List SecBytes → State → Option State
  | [], s => some s
  | b :: r, s =>
    match storeSector s acc b with
    | some s1 => storeAll acc r s1
    | none => none

/-- The end of a store: the rotated flag and the spin count start again (R33, R39), flags land after 4 cc (R227). -/
def endStore (s : State) (h : Hdr) (f : F2) (fl : Flags) (force : Bool) : State :=
  let s1 := advanceAcc (clearSpin (deliver s (flagWrite s fl (lastIssue s f + 4) 4))) h f
  if force then withMonument s1 else s1

/-- A synchronising store to spaces 1 to 4 that must follow earlier accesses of its chain goes on its way (R135). -/
def sendLateLocal (s : State) (scope space a n v : Nat) : State :=
  let after := earlierWrites s.selChain scope
  let site := siteOf s.selCore
  (localParts s.selChain space a n).foldl (fun s x =>
    let (wid, s1) := openWrite s scope (localKey space x.1)
    send s1 0 0 site site (s.coreAt s.selCore).epoch
      (.lateLocal s.selCore s.selChain.ctx s.sel.chain s.sel.seq space wid [(x.1, x.2.1, v / 2 ^ (8 * x.2.2))] after)) s

/-- A store to spaces 1 to 4, in lane order at the serving point. -/
def localStore (h : Hdr) (f : F2) (s : State) (p : Ptr) (us : List (Nat × RawUnit)) (fs : List LaneFault) :
    Host.Outcome State Fault Refusal :=
  let c := s.selChain
  let wait := us.any (fun u => localOpen s s.sel.chain p.space u.2.a.toNat u.2.size) ||
    (p.share = 2 && !(earlierWrites c p.scope).isEmpty) || (p.space = 4 && loadsOpen c s.sel.seq)
  if acquireOpen c ∨ (wait ∧ p.share ≠ 2) then .next (waitIssue s)
  else if anyAbsent s p (us.map (·.2)) then .next (parkLine s h)
  else if wait then
    let r := us.foldl (fun (a : State × Flags) u =>
      let (v, fl) := storeVal s f p u.1 u.2
      (sendLateLocal a.1 p.scope p.space u.2.a.toNat u.2.size v, a.2 ||| fl)) (trapLanes s fs, 0)
    .next (endStore r.1 h f r.2 true)
  else
    let r := us.foldl (fun (a : State × Flags) u =>
      let (v, fl) := storeVal s f p u.1 u.2
      (partsWrite a.1 c s.selCore s.sel.seq p.space u.2.a.toNat u.2.size v, a.2 ||| fl))
      (trapLanes s fs, 0)
    .next (endStore r.1 h f r.2 (decide (p.share = 2)))

/-- A store to global, tensor-view or peer memory. -/
def globalStore (h : Hdr) (f : F2) (s : State) (p : Ptr) (us : List (Nat × RawUnit)) (fs : List LaneFault) :
    Host.Outcome State Fault Refusal :=
  let c := s.selChain
  let vs := us.map (fun u => (u.1, u.2.a.toNat, u.2.size, storeVal s f p u.1 u.2))
  let bs := gatherBytes s c.ctx p (vs.map (fun v => (v.1, v.2.1, v.2.2.1, v.2.2.2.1)))
  if acquireOpen c then .next (waitIssue s)
  else match storeAll (accOf s p f.nt) bs (trapLanes s fs) with
    | none => .next (waitIssue s)
    | some s1 => .next (endStore s1 h f (orFlags (vs.map (fun v => v.2.2.2.2))) (decide (p.share = 2)))

/-- ST and STX once their units are known. Odd lanes of a BS store only supply values (R228). -/
def storeMeaning (h : Hdr) (f : F2) (s : State) (p : Ptr) (ill : Bool) (us : Nat → List RawUnit) :
    Host.Outcome State Fault Refusal :=
  let isBS := Fmt.isBS p.fmt
  let bs (sub : Nat) : Option Bool := if isBS then some (decide (sub ≠ 0)) else none
  let quiet (l : Nat) : Bool := isBS && !ill && l % 2 = 1 && p.valid
  let ls := (accLanes s f).map (fun l =>
    (l, us l, if quiet l then none else laneCause s f.ptr.toNat p ill true (decide (p.share = 2)) bs (us l)))
  let fs := accFaults s (ls.map (fun x => (x.1, x.2.2)))
  let good := (ls.filter (fun x => x.2.2.isNone && !(quiet x.1))).flatMap (fun x => x.2.1.map (fun u => (x.1, u)))
  if good.isEmpty then .next (advanceAcc (trapLanes s fs) h f)
  else if isGlobal p.space ∨ p.space = 5 then globalStore h f s p good fs
  else localStore h f s p good fs

def execSt (h : Hdr) (f : F2) (s : State) : Host.Outcome State Fault Refusal :=
  let p := ptrReg s f
  storeMeaning h f s p (noForm p f) (lsUnits s f p)

def execStx (h : Hdr) (f : F2) (s : State) : Host.Outcome State Fault Refusal :=
  let p := ptrReg s f
  if (layoutOf s f.lane.toNat).res ≠ 0 then .next (trapIssue s h 2 s.sel.word.toNat)
  else storeMeaning h f s (lxPtr s f p) (lxIll s f p) (lxUnits s f p)

/-! ## LDPRS (R234, R235) -/

def stCode : SSt → Nat
  | .I => 0 | .L => 1 | .LC => 2 | .O => 3 | .Q => 4 | .U => 5 | .F => 6 | .X => 7 | .Z => 8

/-- The translation cause that a load of a sector would meet at its home (R121, R432). -/
def homeCause (s : State) (ctx key : Nat) : Nat :=
  let site := homeOfKey s key
  let va := vaOfKey key
  if 2 ^ 56 ≤ va ∧ (s.ctxAt ctx).common = false then 0x11
  else if (homeFind s site key).isSome then 0
  else match (translate s site ctx va false false).2 with
    | .fault c _ => if 0x10 ≤ c ∧ c ≤ 0x15 then c else 0
    | .ok t =>
      let pa := t.pa + va % 4096
      let sl := s.sliceAt site
      if !(isPeer pa) && (sl.fencedPages.contains (pa / 4096) || sl.lost.contains (pa / 64)) then 0x14 else 0

/-- A copy below the home would serve a load through the pointer (R125). -/
def servedBelow (s : State) (core key : Nat) (p : Ptr) : Bool :=
  let clk := (s.coreAt core).lclk
  decide (p.space = 0) && decide (p.scope ≠ 4) && !p.cv &&
    ((l1Find s core key).any (fun c => l1Serves c clk) ||
      ((decide (p.share ≠ 2) || decide (p.scope ≤ 1)) && (l2Find s (clusterOf core) key).any (fun c => l2Serves c clk)))

/-- Status word, wts and rts of the nearest copy of a sector, and the latency of the probe. Where no copy exists its stamps read
as zero (DESIGN CHOICE, log entry 96). -/
def probe (s : State) (ctx core : Nat) (p : Ptr) (key : Nat) : Nat × Nat × Nat × Nat :=
  let word (fc st lv pg : Nat) (cmp tns : Bool) : Nat :=
    fc * 2 ^ 24 + st * 2 ^ 16 + lv * 2 ^ 12 + pg * 2 ^ 10 + (if cmp then 2 ^ 9 else 0) + (if tns then 2 ^ 8 else 0)
  let far (site : Nat) (n : Nat) : Nat := n + 3 * hops (siteOf core) site + stitches (siteOf core) site
  if isPeerKey key then
    let (w, r) := peerStamp s (peerKeyPa key)
    (word 0 0 4 0 false false, w, r, 40)
  else
    let site := homeOfKey s key
    let page := match pageMark s site (pageOfKey key) with
      | some (.priv c) => if c = core then 1 else 2
      | _ => 0
    let tns := (boundRange (s.sliceAt site) (tagOfKey key) (vaOfKey key) 64).isSome
    let tr := (translate s site ctx (vaOfKey key) false false).2
    let fc := if servedBelow s core key p then 0 else homeCause s ctx key
    match l1Find s core key with
    | some c => (word fc (stCode c.st) 0 page false tns, c.wts, c.rts, 12)
    | none =>
      match l2Find s (clusterOf core) key with
      | some c => (word fc (stCode c.st) 1 page (c.st = .LC) tns, c.wts, c.rts, 24)
      | none =>
        match homeFind s site key with
        | some g => (word fc (stCode (if g.own.isSome ∧ g.st = .L then .O else g.st)) 2 page g.cmp.isSome tns, g.wts, g.rts, far site 40)
        | none =>
          match tr with
          | .fault _ _ => (word fc 0 3 page false tns, 0, 0, far site 140)
          | .ok t =>
            if isPeer t.pa then
              let pa := t.pa + vaOfKey key % 4096
              (word fc 0 4 page false tns, (peerStamp s pa).1, (peerStamp s pa).2, far site 40)
            else (word fc 0 3 page (cBit s (t.pa + vaOfKey key % 4096)) tns, 0, 0, far site 140)

/-- Spaces 1 to 4 hold no sector copies: their probe answers zeros (DESIGN CHOICE, log entry 96). -/
def execLdprs (h : Hdr) (f : F2) (s : State) : Host.Outcome State Fault Refusal :=
  let p := ptrReg s f
  let c := s.selChain
  let core := s.selCore
  let unit (l : Nat) : Int × Nat × Nat := unitAt p false (elemIndex s f f.off.toNat 20 l) 0
  let cause (l : Nat) : Option (Nat × Nat) :=
    let (a, w, sub) := unit l
    if !p.valid then some (0x0C, f.ptr.toNat)
    else unitCheck s c core p false (decide (p.share = 2)) (if Fmt.isBS p.fmt then some (decide (sub % 8 ≠ 0)) else none) a w
  let ls := (lanesOf s.sel.act).map (fun l => (l, cause l))
  let good := (ls.filter (fun x => x.2.isNone)).map (·.1)
  if acquireOpen c then .next (waitIssue s)
  else
    let t := lastGroup s
    let ws := good.flatMap (fun l =>
      let a := (unit l).1.toNat
      let (st, w, r, lat) :=
        if isGlobal p.space ∨ p.space = 5 then probe s c.ctx core p (accKey s c.ctx p a) else (0, 0, 0, if p.space = 4 then 24 else 6)
      [st, w, r, lclkReg (s.coreAt core)].zipIdx.map (fun x =>
        ({ cell := .g (f.data.toNat + x.2) l, val := x.1, land := t + lat, start := t, lat := 0, seq := s.sel.seq } : PendW)))
    .next (advanceLanes (deliver (trapLanes s (accFaults s ls)) ws) h)

/-! ## LCADV (R248) -/

def execLcadv (h : Hdr) (f : F1) (s : State) : Host.Outcome State Fault Refusal :=
  let k := s.coreAt s.selCore
  let a := if bit f.imm.toNat 8 then sVal s.selChain false f.a.toNat s.sel.t0 % 2 ^ 24 else 0
  let t := max k.lclk a + f.imm.toNat % 256
  if stampMax < t then .next (waitIssue s)
  else .next (advanceUniform (s.modCore s.selCore (fun k => { k with lclk := t })) h)

/-! ## Publication (R143, R144, R244, R245) -/

/-- Whether two ranges of one tag space overlap. -/
def overlaps (tag lo n tag2 lo2 n2 : Nat) : Bool := decide (tag = tag2) && decide (lo < lo2 + n2) && decide (lo2 < lo + n)

/-- The issue checks of a publication pointer; the causes of R253 follow them. -/
def pubCheck (s : State) (kreg : Nat) (p : Ptr) : Option (Nat × Nat) :=
  if !p.valid then some (0x0C, kreg)
  else if p.share = 1 then some (0x08, p.base)
  else if !(homeOk s s.selChain.ctx s.selCore p) then some (0x09, p.base)
  else match (spaceFault s s.selChain p p.base p.len).filter (fun f => f.1 ≠ 0x59) with
  | some f => some f
  | none =>
  if p.len ≠ 0 ∧ easeStops (s.coreAt s.selCore) (tagIn s s.selChain.ctx p.space p.base) p.space p.base (p.base + p.len - 1) true then
    some (0x18, p.base)
  else none

def execPubopen (h : Hdr) (f : F2) (s : State) : Host.Outcome State Fault Refusal :=
  let p := ptrReg s f
  let c := s.selChain
  let k := s.coreAt s.selCore
  let tag := tagFor s c.ctx p.base
  match pubCheck s f.ptr.toNat p with
  | some (cs, t) => .next (trapIssue s h cs t)
  | none =>
    if p.space ≠ 0 ∨ (p.scope ≠ 2 ∧ p.scope ≠ 3) ∨ p.len = 0 ∨ 8192 < p.len then .next (trapIssue s h 0x43 p.base)
    else if k.regions.any (fun g => overlaps tag p.base p.len g.tag g.lo g.len) then .next (trapIssue s h 0x41 p.base)
    else if 2 ≤ k.regions.length then .next (trapIssue s h 0x40 p.base)
    else if acquireOpen c then .next (waitIssue s)
    else
      let (id, s1) := s.fresh
      let s2 := logOld s1 s.selCore c.ctx (.region id)
      .next (advanceUniform (s2.modCore s.selCore (fun k => { k with regions := k.regions ++
        [{ id, ctx := c.ctx, tag, lo := p.base, len := p.len, chain := s.sel.chain }] })) h)

/-- The U sectors of a region. -/
def regionKeys (k : Core) (g : Region) : List Nat :=
  (k.l1.filter (fun e => decide (e.2.umask ≠ 0) && keyIn g.tag g.lo g.len e.1)).map (·.1)

/-- Closes a region: the clock of step 4, and the issuing chain's later accesses go on (R144, R245). -/
def closeRegion (s : State) (core : Nat) (g : Region) (tp : Nat) : State :=
  let s1 := raiseLclk (s.modCore core (fun k => { k with regions := k.regions.filter (fun x => x.id ≠ g.id) })) core tp
  s1.modChain g.chain (fun c => { c with outs := c.outs.filter (fun o => o.seq ≠ 2 ^ 66 + g.id) })

def execPublish (h : Hdr) (f : F2) (s : State) : Host.Outcome State Fault Refusal :=
  let p := ptrReg s f
  let c := s.selChain
  let core := s.selCore
  let tag := tagFor s c.ctx p.base
  match pubCheck s f.ptr.toNat p with
  | some (cs, t) => .next (trapIssue s h cs t)
  | none =>
    match (s.coreAt core).regions.find? (fun g => decide (p.space = 0 ∧ g.tag = tag ∧ g.lo = p.base ∧ g.len = p.len ∧ g.ctx = c.ctx) && g.pub.isNone) with
    | none => .next (trapIssue s h 0x42 p.base)
    | some g =>
      if acquireOpen c ∨ loadsOpen c s.sel.seq then .next (waitIssue s)
      else
        let keys := regionKeys (s.coreAt core) g
        let clk := (s.coreAt core).lclk
        if keys.isEmpty then
          (if stampMax < clk + 1 then .next (waitIssue s)
           else .next (withMonument (advanceUniform (closeRegion s core g (clk + 1)) h)))
        else
          let s1 := s.modCore core (fun k => { k with regions := k.regions.map (fun x =>
            if x.id = g.id then { x with pub := some (keys, clk, []), chain := s.sel.chain } else x) })
          let s2 := keys.foldl (fun s key => send s 0 (key / 4) (siteOf core) (homeOfKey s key) (s.coreAt core).epoch (.freeze core g.id key)) s1
          let s3 := s2.modChain s.sel.chain (fun c => { c with outs := c.outs ++
            [{ seq := 2 ^ 66 + g.id, cells := [], acq := true, load := false, units := [], lanes := 0, pc := s.sel.pc }] })
          .next (withMonument (advanceUniform s3 h))

end Sys2Proof.Machine
end

