-- ==== Sys2Proof/Machine/Atomics.lean ====
section
/-!
DEFINITION. Atomics and reductions (R60, R139, R140, R236 to R243): the operations on one unit, the points that perform
them, and ATOM, ACAS and AMRED at issue.
-/
namespace Sys2Proof.Machine

/-! ## Operations (R237 to R239) -/

/-- Formats that an operation takes; 7 stands for compare-and-swap. -/
def aopFormats (op : Nat) : List Nat :=
  if op ≤ 2 then [4, 5, 6, 7, 8, 9, 10] else if op ≤ 5 then [0, 4, 5, 6] else if op ≤ 7 then [0, 4, 5, 6, 9, 10] else []

/-- The value of a register form as an integer or a float. -/
def regInt (fmt : Nat) (dw : Bool) (x : Nat) : Int :=
  match rform fmt dw with
  | some rf => (match regVal rf x with
    | .int v => v
    | .raw v => v
    | _ => 0)
  | none => 0

def regFlt (fmt : Nat) (dw : Bool) (x : Nat) : FVal :=
  match rform fmt dw with
  | some rf => evalReal (regVal rf x)
  | none => FVal.zero false

/-- Minimum or maximum by the number rule of R203: whether the first operand is taken, or neither (both NaN). -/
def pickFlt (isMax : Bool) (a b : FVal) : Option Bool :=
  if a.isNan && b.isNan then none
  else if a.isNan then some false
  else if b.isNan then some true
  else some (if isMax then !(fless a b) else !(fless b a))

def nanFlag (a b : FVal) : Flags := if a.isSnan || b.isSnan then Flag.nv else 0

/-- Bitwise operations 3 to 5. -/
def bitOp (op a b : Nat) : Nat := if op = 3 then a &&& b else if op = 4 then a ||| b else a ^^^ b

/-- A unit of memory holds the pattern that a compare value names: the value in memory, and the register that a load of it gives
(R227, R239). A wider register that the memory format cannot hold equals no unit. -/
def holdsPattern (fmt : Nat) (dw : Bool) (old cmp : Nat) : Bool :=
  decide (old = (storeConv fmt dw cmp).1) && (samePattern fmt dw || decide ((loadConv fmt dw old).1 = cmp))

/-- The new value of a unit of memory, with flags (R237 to R239); 8 is the fold of a scale word (R347). An integer minimum or
maximum of a 64-bit operand that the memory does not hold keeps its low bits (DESIGN CHOICE, log entry 97). -/
def applyAtom (o : AtomOp) (old : Nat) : Nat × Flags :=
  let w := 8 * Fmt.size o.fmt o.dw
  let xm := storeConv o.fmt o.dw o.x
  if o.op = 8 then (if old ≤ 0x7F800000 then max old o.x else o.x, 0)
  else if o.op = 7 then (if holdsPattern o.fmt o.dw old o.cmp then xm.1 else old, 0)
  else if o.op = 6 then xm
  else if Fmt.isFlt o.fmt then
    let f := Fmt.ffmt o.fmt
    let a := fdecode f old
    let b := regFlt o.fmt o.dw o.x
    if o.op = 0 then sumRound f 0 [a, b]
    else match pickFlt (decide (o.op = 2)) a b with
      | none => (f.canonNan, nanFlag a b)
      | some true => (old, nanFlag a b)
      | some false => (xm.1, nanFlag a b ||| xm.2)
  else
    let a : Int := match edecode o.fmt old with
      | .int v => v
      | _ => old
    let b := regInt o.fmt o.dw o.x
    match o.op with
    | 0 => (wrapN (a + b) w, 0)
    | 1 => (wrapN (if b < a then b else a) w, 0)
    | 2 => (wrapN (if a < b then b else a) w, 0)
    | op => (bitOp op (wrapN a w) (wrapN b w), 0)

/-- One combining step of AMRED in the register form (R240). -/
def combineReg (op fmt : Nat) (dw : Bool) (x y : Nat) : Nat × Flags :=
  let w := if dw then 64 else 32
  if Fmt.isFlt fmt then
    -- the register is F64 where dw is set; the step rounds to F32 but for FP64
    let f : FFmt := if dw then .f64 else .f32
    let a := fdecode f x
    let b := fdecode f y
    if !dw || fmt = 10 then (if op = 0 then sumRound f 0 [a, b] else fminmax f (decide (op = 2)) false x y)
    else
      let widen (r : Nat × Flags) : Nat × Flags := ((fencode .f64 0 (fdecode .f32 r.1)).1, r.2)
      if op = 0 then widen (sumRound .f32 0 [a, b])
      else match pickFlt (decide (op = 2)) a b with
        | none => (FFmt.f64.canonNan, nanFlag a b)
        | some left => let r := widen (fencode .f32 0 (if left then a else b)); (r.1, r.2 ||| nanFlag a b)
  else
    let a := regInt fmt dw x
    let b := regInt fmt dw y
    match op with
    | 0 => (wrapN (a + b) w, 0)
    | 1 => (wrapN (if b < a then b else a) w, 0)
    | 2 => (wrapN (if a < b then b else a) w, 0)
    | op => (bitOp op x y, 0)

/-! ## Performing on one unit -/

/-- The operation on the bytes of a sector: its new data, the old value, flags. -/
def atomData (o : AtomOp) (va : Nat) (d : BitVec 512) : BitVec 512 × Nat × Flags :=
  let n := Fmt.size o.fmt o.dw
  let old := sectorBytes d (va % 64) n
  let (new, fl) := applyAtom o old
  (sectorPut d (va % 64) n new, old, fl ||| o.fl)

/-- What performing an atomic answers, and the home atomics unit that performed it, if one did (R241). -/
structure Performed where
  old : Nat
  flags : Flags
  stamp : Nat
  home : Option Nat := none
deriving DecidableEq, Repr, Inhabited

/-- Performs an atomic on a peer module's sector, which needs its permit (R243, R423, R464). -/
def atomPeer (s : State) (acc : Acc) (t : Tlb) (va : Nat) (o : AtomOp) (clk : Nat) : Res Performed :=
  if !(if acc.win then Config.aperturePermit else t.ra) then .fault s 0x15 (t.raFail.getD 0)
  else if !(peerEpoch s acc.core) then .wait
  else
    let (_, r) := peerStamp s t.pa
    let st := max clk (r + 1)
    let (d, old, fl) := atomData o va (BitVec.ofNat 512 (physRead s t.pa 64))
    if stampMax < st then .wait
    else .ok (setPeerStamp (physWrite s t.pa 64 d.toNat) t.pa st st) { old, flags := fl, stamp := st, home := some (homeOfKey s (atomKey s acc va)) }

/-- Performs an atomic on a home sector that nothing below owns. -/
def atomSector (s : State) (ctx site key va : Nat) (o : AtomOp) (clk : Nat) (h : HomeSec) : Res Performed :=
  let (s1, h1) := expandHome s ctx site key h
  let t := max clk (h1.rts + 1)
  if stampMax < t then .wait
  else
    let (d, old, fl) := atomData o va h1.data
    .ok (logWrite (wake (homeSet s1 site key { h1 with data := d, wts := t, rts := t, dirty := true }) 2 site key) key)
      { old, flags := fl, stamp := t, home := some site }

/-- Performs an atomic at the home slice, whatever holds the sector below it (R139); the recall, and the host's where it holds the sector
(R454), are part of it. -/
def atomHome (s : State) (acc : Acc) (key va : Nat) (o : AtomOp) (clk : Nat) : Res Performed :=
  match homeGet s acc.ctx key true false false with
  | .fault s1 c d => .fault s1 c d
  | .wait => .wait
  | .ok s1 (.peer t) => atomPeer s1 acc t va o clk
  | .ok s1 (.home h) =>
    let site := homeOfKey s1 key
    if !(quiet h) || !(sameEpoch s1 acc.core site) || !(reaches s1 acc site) then .wait
    else
      let (s2, _) := pageClass (viaPort (hostWaited s1 acc.ctx h) acc) site key none
      let (s3, h3) := recallOwner s2 site key ((homeFind s2 site key).getD h)
      atomSector s3 acc.ctx site key va o clk { h3 with host := false }

/-- Performs an atomic in a private page's Q copy (R132). -/
def atomQ (s : State) (core key va : Nat) (o : AtomOp) (c : Copy) : Res Performed :=
  let (d, old, fl) := atomData o va c.data
  .ok (l1Set s core key { c with data := d, dirty := true }) { old, flags := fl, stamp := 0 }

/-- Performs an atomic at the L1, for core scope. -/
def atomL1 (s : State) (acc : Acc) (key va : Nat) (o : AtomOp) (clk : Nat) : Res Performed :=
  let fill : Res Unit := match l1Find s acc.core key with
    | some c => if l1Serves c clk then .ok s () else fillPrivate s acc key clk true
    | none => fillPrivate s acc key clk true
  match fill with
  | .fault s1 c d => .fault s1 c d
  | .wait => .wait
  | .ok s1 _ =>
    match l1Find s1 acc.core key with
    | none => atomHome s1 acc key va o clk
    | some c =>
      if c.st = .Q then atomQ s1 acc.core key va o c
      else
        let t := max clk (c.rts + 1)
        let (d, old, fl) := atomData o va c.data
        if stampMax < t then .wait
        else .ok (wake (l1Set (l1Touch s1 acc.core key) acc.core key
              { c with data := d, wts := t, rts := t, dirty := true, pt := if c.st = .O then c.pt else 0, st := if c.st = .U then .U else .O })
                0 acc.core key)
              { old, flags := fl, stamp := t }

/-- Performs an atomic at the cluster cache, for cluster scope. -/
def atomL2 (s : State) (acc : Acc) (key va : Nat) (o : AtomOp) (clk : Nat) : Res Performed :=
  let clu := clusterOf acc.core
  let s0 := match l1Find s acc.core key with
    | some c => if c.dirty && decide (c.pt = 0) && decide (c.umask = 0) && c.st ≠ SSt.Q then l1Drop s acc.core key else s
    | none => s
  match l1Find s0 acc.core key with
  | some c => if c.st = .Q then atomQ s0 acc.core key va o c else go s0 clu
  | none => go s0 clu
where
  go (s : State) (clu : Nat) : Res Performed :=
    match fillPrivate s acc key clk false with
    | .fault s1 c d => .fault s1 c d
    | .wait => .wait
    | .ok s1 _ =>
      let s2 := l2Recall s1 clu key
      match l2Find s2 clu key with
      | some c =>
        let t := max clk (c.rts + 1)
        let (d, old, fl) := atomData o va c.data
        if stampMax < t then .wait
        else .ok (wake (l2Serve s2 clu key { c with st := .O, data := d, wts := t, rts := t, dirty := true, own := none }) 1 clu key)
              { old, flags := fl, stamp := t }
      | none =>
        match l1Find s2 acc.core key with
        | some c => if c.st = .Q then atomQ s2 acc.core key va o c else atomHome s2 acc key va o clk
        | none => atomHome s2 acc key va o clk

/-- The coherence point of a scope performs an atomic (R139). -/
def atomAt (s : State) (acc : Acc) (key va : Nat) (o : AtomOp) : Res Performed :=
  let clk := (s.coreAt acc.core).lclk
  if acc.tns || isPeerKey key || barred s acc.ctx key || 2 ≤ acc.scope then atomHome s acc key va o clk
  else if acc.scope = 0 then atomL1 s acc key va o clk
  else atomL2 s acc key va o clk

/-- ORs a reduction's flags into the flag word of R214: the home die's, or the context's local one. -/
def orFlagWord (s : State) (ctx : Nat) (home : Option Nat) (fl : Flags) : State :=
  match home with
  | some site => s.modSlice site (fun sl => { sl with flags := Cells.set 0 sl.flags ctx (Cells.get 0 sl.flags ctx ||| fl.toNat) })
  | none => s.modCtx ctx (fun c => { c with lflags := c.lflags ||| fl })

/-! ## At issue -/

/-- One message's worth of an atomic: its lane (32 for chain-uniform), unit, operation and result registers. -/
structure Job where
  lane : Nat
  va : Nat
  op : AtomOp
  cells : List CellId
  vas : List (Nat × Nat)
deriving DecidableEq, Repr, Inhabited

/-- AMRED's aggregator: the lanes of one unit combine in lane order (R240). -/
def aggregate (l : List Job) : List Job :=
  l.foldl (fun acc j =>
    match acc.find? (fun x => x.va = j.va) with
    | none => acc ++ [j]
    | some x =>
      let (v, fl) := combineReg j.op.op j.op.fmt j.op.dw x.op.x j.op.x
      acc.map (fun y => if y.va = j.va then { x with op := { x.op with x := v, fl := x.op.fl ||| fl }, vas := x.vas ++ j.vas } else y)) []

/-- Performs jobs one after another at a point below the home, or in a typed buffer: results with their ranks. -/
def performAll (ch : Nat) (acc : Acc) (p : Ptr) (red : Bool) : List Job → State → List (Job × Nat × Flags) →
    Option (State × List (Job × Nat × Flags) × List (Job × Nat × Nat))
  | [], s, rs => some (s, rs, [])
  | j :: r, s, rs =>
    if 1 ≤ p.space ∧ p.space ≤ 4 then
      let c := Tab.get {} s.chains ch
      let n := Fmt.size j.op.fmt j.op.dw
      let a := if p.space = 3 then (accAddr c j.va).getD 0 else j.va
      let old := localRead s acc.core p.space a n
      let (new, fl) := applyAtom j.op old
      let s1 := localWrite s acc.core p.space a n new
      let s2 := if red then orFlagWord s1 acc.ctx none (fl ||| j.op.fl) else s1
      performAll ch acc p red r s2 (rs ++ [(j, old, fl)])
    else
      match atomAt s acc (accKey s acc.ctx p j.va) j.va j.op with
      | .wait => none
      | .fault s1 c d =>
        match performAll ch acc p red r s1 rs with
        | some (s2, rs2, fs) => some (s2, rs2, (j, c, d) :: fs)
        | none => none
      | .ok s1 x =>
        let c := Tab.get {} s1.chains ch
        let s2 := noteWrite (raiseLclk s1 acc.core x.stamp) (s1.coreAt acc.core).epoch ch c.part c.sid acc.scope x.stamp
        let s3 := if red then orFlagWord s2 acc.ctx x.home x.flags else s2
        performAll ch acc p red r s3 (rs ++ [(j, x.old, x.flags)])

/-- The old value in its registers (R227, R238). -/
def oldRegs (j : Job) (old : Nat) : List (CellId × Nat) × Flags :=
  let (v, fl) := loadConv j.op.fmt j.op.dw old
  (j.cells.zipIdx.map (fun x => (x.1, v / 2 ^ (32 * x.2) % 2 ^ 32)), fl)

/-- The body of an atomic's message. -/
def atomBody (s : State) (acc : Acc) (j : Job) (red : Bool) (wid : Nat) (after : List Nat) : Body :=
  .atom acc s.sel.chain s.sel.seq s.sel.pc j.va wid j.lane j.vas j.op j.cells red (s.coreAt acc.core).lclk after none

/-- Sends an atomic to its home, by the meridian when it is .sc (R140). -/
def sendAtom (s : State) (acc : Acc) (p : Ptr) (j : Job) (red sc : Bool) (after : List Nat) : State :=
  let key := accKey s acc.ctx p j.va
  let s0 := pushUp s acc.core key
  let (wid, s1) := openWrite s0 acc.scope key
  let site := homeOfKey s key
  let body := atomBody s1 acc j red wid after
  let ep := (s.coreAt acc.core).epoch
  if sc then send s1 5 (key / 4) (siteOf acc.core) 135 ep (.ticket site body)
  else send s1 5 (key / 4) (siteOf acc.core) site ep body

/-- A reduction to a page of the side log retires there (R250); a full log sends it on as a write that has faulted (R214). -/
def logReduction (s : State) (acc : Acc) (p : Ptr) (j : Job) (rid : Nat) : State :=
  let key := accKey s acc.ctx p j.va
  if !(sideRoom s acc.core) then
    sendLogged s acc { key, va := j.va, data := 0, mask := 0, vas := j.vas } (some j.op) (recCause s rid).1 (recCause s rid).2
  else
  let (wid, s1) := openWrite s acc.scope key
  s1.modCore acc.core (fun k => { k with side := k.side ++
    [sideOf s acc rid wid { key, va := j.va, data := 0, mask := 0, vas := j.vas } (some j.op)] })

/-- An atomic's faults at a point below the home: returning lanes park when the fault returns, reductions retire. -/
def sendAtomFault (s : State) (acc : Acc) (p : Ptr) (red : Bool) (x : Job × Nat × Nat) : State :=
  let (j, c, d) := x
  let key := accKey s acc.ctx p j.va
  let k := s.coreAt acc.core
  let site := homeOfKey s key
  if red then sendLogged s acc { key, va := j.va, data := 0, mask := 0, vas := j.vas } (some j.op) c d
  else send s 1 (key / 4) site (siteOf acc.core) k.epoch
    (.fault s.sel.chain acc.core s.sel.seq s.sel.pc (faultMask (j.vas.map (fun v => { lane := v.1, cause := c, tval := v.2 }))) c j.va d
      (atomBody s acc j false 0 []))

/-- The chain's later accesses wait for the issuing instruction, which has no register to return. -/
def holdLater (s : State) (ch pc : Nat) : State :=
  s.modChain ch (fun c => { c with outs := c.outs ++ [{ seq := s.sel.seq, cells := [], acq := true, load := false, units := [], lanes := 0, pc }] })

/-- ATOM, ACAS and AMRED once their lanes' operations are known. -/
def atomMeaning (h : Hdr) (f : F2) (s : State) (ill red : Bool) (op : Nat → AtomOp) : Host.Outcome State Fault Refusal :=
  let p := ptrReg s f
  let c := s.selChain
  let ch := s.sel.chain
  let sc := ordOf f = 1
  let sync := sc || p.share = 2
  let unit (l : Nat) : RawUnit :=
    let (a, w, _) := unitAt p f.dw (elemIndex s f f.off.toNat 12 l) 0
    { a, size := w, sub := 0, cells := dataCells f l 0 }
  let ls := (accLanes s f).map (fun l => (l, unit l, laneCause s f.ptr.toNat p ill true true (fun _ => none) [unit l]))
  let fs := accFaults s (ls.map (fun x => (x.1, x.2.2)))
  let jobs := (ls.filter (fun x => x.2.2.isNone)).map (fun x =>
    let a := x.2.1.a.toNat
    ({ lane := x.1, va := a, op := op x.1, cells := if red then [] else x.2.1.cells,
       vas := if x.1 = 32 then (lanesOf s.sel.act).map (fun i => (i, a)) else [(x.1, a)] } : Job))
  if jobs.isEmpty then .next (advanceAcc (trapLanes s fs) h f)
  else
    let acc := accOf s p false
    let js := if red ∧ !sc then aggregate jobs else jobs
    let glob := isGlobal p.space || p.space = 5
    let atHome := p.space = 5 || p.space = 6 || (p.space = 0 && 2 ≤ p.scope)
    let logged (j : Job) : Option Nat := if red && glob then loggedPage s ch (accKey s c.ctx p j.va) else none
    let live := js.filter (fun j => (logged j).isNone)
    let keys := if glob then live.map (fun j => accKey s c.ctx p j.va) else []
    if acquireOpen c ∨ (sc ∧ (!c.writes.isEmpty ∨ !c.outs.isEmpty)) ∨
        (!atHome ∧ ((sync ∧ !(earlierWrites c p.scope).isEmpty) ∨ (p.space ≠ 1 ∧ p.space ≠ 2 ∧ loadsOpen c s.sel.seq) ∨
          keys.any (sectorOpen s ch))) ∨
        (!red ∧ glob ∧ keys.any (fun k => c.writes.any (fun w => w.key = k))) ∨
        (!glob ∧ ls.any (fun x => localOpen s ch p.space x.2.1.a.toNat x.2.1.size)) then .next (waitIssue s)
    else if !glob ∧ anyAbsent s p (ls.map (fun x => x.2.1)) then .next (parkLine s h)
    else
      let s1 := js.foldl (fun s j => match logged j with
        | some rid => logReduction s acc p j rid
        | none => s) (trapLanes s fs)
      if atHome then
        let after := if sync then earlierWrites c p.scope else []
        let s2 := live.foldl (fun s j => sendAtom s acc p j red sc after) s1
        -- a .sc reduction returns nothing, yet holds the chain's later accesses until it has been performed (R140)
        let s3 := if red then (if sc && !live.isEmpty then holdLater s2 ch s.sel.pc else s2) else s2.modChain ch (fun c => { c with outs := c.outs ++
          [{ seq := s.sel.seq, cells := live.flatMap (·.cells), acq := sync, load := true, units := [],
             lanes := if f.udata then s.sel.act else faultMask (live.map (fun j => { lane := j.lane, cause := 0, tval := 0 })), pc := s.sel.pc }] })
        .next (advanceAcc (clearSpin s3) h f)
      else
        match performAll ch acc p red live s1 [] with
        | none => .next (waitIssue s)
        | some (s2, rs, bad) =>
          let t := lastIssue s f
          let lat := if p.space = 4 ∨ p.scope = 1 then 28 else if p.space = 0 then 16 else 10
          let ws := if red then [] else rs.zipIdx.flatMap (fun x =>
            let r := oldRegs x.1.1 x.1.2.1
            (r.1 ++ flagCell (r.2 ||| x.1.2.2)).map (fun w =>
              ({ cell := w.1, val := w.2, land := t + lat + x.2, start := t, lat := 0, seq := s.sel.seq } : PendW)))
          let s3 := bad.foldl (fun s x => sendAtomFault s acc p red x) (deliver s2 ws)
          let s4 := if red ∨ bad.isEmpty then (if sc && !bad.isEmpty then holdLater s3 ch s.sel.pc else s3) else s3.modChain ch (fun c => { c with outs := c.outs ++
            [{ seq := s.sel.seq, cells := bad.flatMap (fun x => x.1.cells), acq := sync, load := true, units := [],
               lanes := if f.udata then s.sel.act else faultMask (bad.map (fun x => { lane := x.1.lane, cause := 0, tval := 0 })), pc := s.sel.pc }] })
          .next (withMonument (advanceAcc (clearSpin s4) h f))

/-- Formats that ATOM and AMRED refuse for their operation (R237). -/
def atomIll (s : State) (f : F2) (op : Nat) : Bool :=
  let p := ptrReg s f
  !((aopFormats op).contains p.fmt) || (rform p.fmt f.dw).isNone

def execAtom (h : Hdr) (f : F2) (s : State) : Host.Outcome State Fault Refusal :=
  let p := ptrReg s f
  atomMeaning h f s (atomIll s f (aopOf f)) false (fun l =>
    { op := aopOf f, fmt := p.fmt, dw := f.dw, x := cellsVal s (dataCells f l 0), cmp := 0 })

def execAcas (h : Hdr) (f : F2) (s : State) : Host.Outcome State Fault Refusal :=
  let p := ptrReg s f
  atomMeaning h f s (atomIll s f 7) false (fun l =>
    { op := 7, fmt := p.fmt, dw := f.dw, x := cellsVal s (dataCells f l 1), cmp := cellsVal s (dataCells f l 0) })

def execAmred (h : Hdr) (f : F2) (s : State) : Host.Outcome State Fault Refusal :=
  let p := ptrReg s f
  atomMeaning h f s (atomIll s f (aopOf f)) true (fun l =>
    { op := aopOf f, fmt := p.fmt, dw := f.dw, x := cellsVal s (dataCells f l 0), cmp := 0 })

end Sys2Proof.Machine
end

