-- ==== Sys2Proof/WellFormed.lean ====
section
/-!
DEFINITION. Well-formed instructions: those whose fields raise neither reserved-field (0x02) nor illegal instruction
(0x01) by themselves (R55, R56, R64, R65, R72 and each entry). An event is always well-formed.
-/
namespace Sys2Proof

def WellFormed (i : Instr) : Prop := Machine.fieldErr i = .ok

/-- The check as a Boolean. -/
def wellFormed (i : Instr) : Bool := decide (Machine.fieldErr i = .ok)


end Sys2Proof
end

