-- ==== Sys2Proof/Decode.lean ====
section
/-!
DEFINITION. Decoding of 64-bit instruction words through a decode table (R53, R57 to R63, R73 to R79), and the encoder
of map 1. Decoding answers an instruction, or says which check of R79 the word fails.
-/
namespace Sys2Proof

open Machine

/-! ## Fields -/

def hdrOf (w : W64) : Hdr :=
  { gneg := w.getLsbD 17, guard := w.extractLsb' 14 3, stall := w.extractLsb' 10 4 }

def f0Of (w : W64) : F0 :=
  { rnd := w.extractLsb' 58 3, sub := w.extractLsb' 52 6, ty := w.extractLsb' 48 4, ub := w.getLsbD 47,
    ua := w.getLsbD 46, c := w.extractLsb' 39 7, b := w.extractLsb' 32 7, a := w.extractLsb' 25 7,
    d := w.extractLsb' 18 7 }

def f1Of (w : W64) : F1 := { imm := w.extractLsb' 32 32, a := w.extractLsb' 25 7, d := w.extractLsb' 18 7 }

def f2Of (w : W64) : F2 :=
  { nt := w.getLsbD 62, udata := w.getLsbD 61, loff := w.getLsbD 60, dw := w.getLsbD 59, vc := w.extractLsb' 57 2,
    off := w.extractLsb' 37 20, lane := w.extractLsb' 30 7, ptr := w.extractLsb' 25 5, data := w.extractLsb' 18 7 }

def f3Of (w : W64) : F3 := { fp := w.extractLsb' 56 8, tp := w.extractLsb' 48 8, woff := w.extractLsb' 18 30 }

def f4Of (w : W64) : F4 :=
  { imm := w.extractLsb' 47 17, nb := w.getLsbD 46, pw := w.extractLsb' 43 3, sub := w.extractLsb' 37 6,
    sop := w.extractLsb' 31 6, pb := w.extractLsb' 26 5, hnd := w.extractLsb' 18 8 }

def f5Of (w : W64) : F5 :=
  { nb := w.getLsbD 37, pw := w.extractLsb' 34 3, ds := w.getLsbD 33, data := w.extractLsb' 26 7,
    hnd := w.extractLsb' 18 8 }

/-- Bits that a format marks reserved are nonzero (R57, R59, R63). -/
def fmtReserved (fmt : Nat) (w : W64) : Bool :=
  match fmt with
  | 0 => w.extractLsb' 61 3 != 0
  | 2 => w.getLsbD 63
  | 5 => w.extractLsb' 38 26 != 0
  | _ => false

/-! ## Words from fields -/

def bit1 (b : Bool) : BitVec 1 := BitVec.ofBool b

def encHdr (h : Hdr) (opc : BitVec 10) : BitVec 18 := bit1 h.gneg ++ h.guard ++ h.stall ++ opc

def encF0 (h : Hdr) (opc : BitVec 10) (f : F0) : W64 :=
  (0 : BitVec 3) ++ f.rnd ++ f.sub ++ f.ty ++ bit1 f.ub ++ bit1 f.ua ++ f.c ++ f.b ++ f.a ++ f.d ++ encHdr h opc

def encF1 (h : Hdr) (opc : BitVec 10) (f : F1) : W64 := f.imm ++ f.a ++ f.d ++ encHdr h opc

def encF2 (h : Hdr) (opc : BitVec 10) (f : F2) : W64 :=
  (0 : BitVec 1) ++ bit1 f.nt ++ bit1 f.udata ++ bit1 f.loff ++ bit1 f.dw ++ f.vc ++ f.off ++ f.lane ++ f.ptr ++
    f.data ++ encHdr h opc

def encF3 (h : Hdr) (opc : BitVec 10) (f : F3) : W64 := f.fp ++ f.tp ++ f.woff ++ encHdr h opc

def encF4 (h : Hdr) (opc : BitVec 10) (f : F4) : W64 :=
  f.imm ++ bit1 f.nb ++ f.pw ++ f.sub ++ f.sop ++ f.pb ++ f.hnd ++ encHdr h opc

def encF5 (h : Hdr) (opc : BitVec 10) (f : F5) : W64 :=
  (0 : BitVec 26) ++ bit1 f.nb ++ f.pw ++ bit1 f.ds ++ f.data ++ f.hnd ++ encHdr h opc

/-! ## Operations -/

/-- The format of an internal operation (R78); none for a number that is no internal operation. -/
def fmtOf (iop : Nat) : Option Nat :=
  if iop = 0x000 then some 3 else
  if iop = 0x001 then some 0 else
  if 0x002 ≤ iop ∧ iop ≤ 0x003 then some 3 else
  if 0x004 ≤ iop ∧ iop ≤ 0x017 then some 0 else
  if iop = 0x018 then some 1 else
  if iop = 0x019 then some 0 else
  if 0x01A ≤ iop ∧ iop ≤ 0x01B then some 1 else
  if 0x01C ≤ iop ∧ iop ≤ 0x020 then some 5 else
  if 0x021 ≤ iop ∧ iop ≤ 0x023 then some 1 else
  if 0x024 ≤ iop ∧ iop ≤ 0x026 then some 0 else
  if iop = 0x027 then some 2 else
  if 0x100 ≤ iop ∧ iop ≤ 0x113 then some 0 else
  if iop = 0x114 then some 1 else
  if 0x115 ≤ iop ∧ iop ≤ 0x12C then some 0 else
  if 0x200 ≤ iop ∧ iop ≤ 0x206 then some 0 else
  if 0x207 ≤ iop ∧ iop ≤ 0x20F then some 2 else
  if iop = 0x210 then some 1 else
  if iop = 0x211 then some 2 else
  if 0x280 ≤ iop ∧ iop ≤ 0x288 then some 4 else
  if 0x2A0 ≤ iop ∧ iop ≤ 0x2A5 then some 4 else
  if 0x2C0 ≤ iop ∧ iop ≤ 0x2C7 then some 4 else
  if 0x2E0 ≤ iop ∧ iop ≤ 0x2E6 then some 4 else
  if 0x300 ≤ iop ∧ iop ≤ 0x307 then some 4 else
  if 0x320 ≤ iop ∧ iop ≤ 0x327 then some 4 else
  if 0x340 ≤ iop ∧ iop ≤ 0x353 then some 4 else
  none

/-- Operations 0x000 to 0x0FF, split by SUB as their entries say; a SUB outside the entry reads as the entry's first form. -/
def decodeSeq (iop : Nat) (w : W64) : Option Instr :=
  let h := hdrOf w
  let f0 := f0Of w
  let f1 := f1Of w
  let f2 := f2Of w
  let f3 := f3Of w
  let f5 := f5Of w
  let sb := f0.sub.toNat
  match iop with
  | 0x000 => some (.bra h f3)
  | 0x001 => some (.brx h f0)
  | 0x002 => some (.bru h f3)
  | 0x003 => some (.call h f3)
  | 0x004 => some (.ret h f0)
  | 0x005 => some (.join h f0)
  | 0x006 => some (.exit h f0)
  | 0x007 => some (.yield h f0)
  | 0x008 => some (.nop h f0)
  | 0x009 => some (.pset h f0)
  | 0x00A => some (if sb / 16 = 1 then .plogFroms h f0 else .plogLut h f0)
  | 0x00B => some (if sb = 1 then .voteAny h f0 else if sb = 2 then .voteAll h f0 else if sb = 3 then .voteEq h f0 else .voteBallot h f0)
  | 0x00C => some (.elect h f0)
  | 0x00D => some (.sadd h f0)
  | 0x00E => some (.ssub h f0)
  | 0x00F => some (.smul h f0)
  | 0x010 => some (.smin h f0)
  | 0x011 => some (.smax h f0)
  | 0x012 => some (.sand h f0)
  | 0x013 => some (.sor h f0)
  | 0x014 => some (.sxor h f0)
  | 0x015 => some (.sshl h f0)
  | 0x016 => some (.sshr h f0)
  | 0x017 => some (.ssra h f0)
  | 0x018 => some (.sldi h f1)
  | 0x019 => some (.smov h f0)
  | 0x01A => some (.gacq h f1)
  | 0x01B => some (.grel h f1)
  | 0x01C => some (.bara h f5)
  | 0x01D => some (.barw h f5)
  | 0x01E => some (.qsend h f5)
  | 0x01F => some (.qrecv h f5)
  | 0x020 => some (.qpeek h f5)
  | 0x021 => some (.sget h f1)
  | 0x022 => some (.sset h f1)
  | 0x023 => some (.trap h f1)
  | 0x024 => some (if sb = 1 then .tretSkip h f0 else if sb = 2 then .tretKill h f0 else .tretRetry h f0)
  | 0x025 => some (.hops h f0)
  | 0x026 => some (if sb = 1 then .topoCores h f0 else if sb = 2 then .topoDies h f0 else if sb = 3 then .topoIsland h f0 else if sb = 4 then .topoNcore h f0 else if sb = 5 then .topoFirst h f0 else .topoGrade h f0)
  | 0x027 => some (.isync h f2)
  | _ => none

/-- Operations 0x100 to 0x1FF, split by SUB as their entries say; a SUB outside the entry reads as the entry's first form. -/
def decodeVec (iop : Nat) (w : W64) : Option Instr :=
  let h := hdrOf w
  let f0 := f0Of w
  let f1 := f1Of w
  match iop with
  | 0x100 => some (.iadd h f0)
  | 0x101 => some (.isub h f0)
  | 0x102 => some (.imul h f0)
  | 0x103 => some (.imulh h f0)
  | 0x104 => some (.imad h f0)
  | 0x105 => some (.imin h f0)
  | 0x106 => some (.imax h f0)
  | 0x107 => some (.iabs h f0)
  | 0x108 => some (.and h f0)
  | 0x109 => some (.or h f0)
  | 0x10A => some (.xor h f0)
  | 0x10B => some (.shl h f0)
  | 0x10C => some (.shr h f0)
  | 0x10D => some (.sra h f0)
  | 0x10E => some (.popc h f0)
  | 0x10F => some (.clz h f0)
  | 0x110 => some (.bfx h f0)
  | 0x111 => some (.bfi h f0)
  | 0x112 => some (.sel h f0)
  | 0x113 => some (.mov h f0)
  | 0x114 => some (.ldi h f1)
  | 0x115 => some (.fadd h f0)
  | 0x116 => some (.fsub h f0)
  | 0x117 => some (.fmul h f0)
  | 0x118 => some (.ffma h f0)
  | 0x119 => some (.fmin h f0)
  | 0x11A => some (.fmax h f0)
  | 0x11B => some (.fcmp h f0)
  | 0x11C => some (.frcp h f0)
  | 0x11D => some (.frsq h f0)
  | 0x11E => some (.fsqrt h f0)
  | 0x11F => some (.fdiv h f0)
  | 0x120 => some (.fexp2 h f0)
  | 0x121 => some (.flog2 h f0)
  | 0x122 => some (.fclass h f0)
  | 0x123 => some (.cvt h f0)
  | 0x124 => some (.cvti h f0)
  | 0x125 => some (.pack h f0)
  | 0x126 => some (.unpack h f0)
  | 0x127 => some (.shfl h f0)
  | 0x128 => some (.shflx h f0)
  | 0x129 => some (.lred h f0)
  | 0x12A => some (.lscan h f0)
  | 0x12B => some (.bcast h f0)
  | 0x12C => some (.cmul h f0)
  | _ => none

/-- Operations 0x200 to 0x27F, split by SUB as their entries say; a SUB outside the entry reads as the entry's first form. -/
def decodeLsu (iop : Nat) (w : W64) : Option Instr :=
  let h := hdrOf w
  let f0 := f0Of w
  let f1 := f1Of w
  let f2 := f2Of w
  match iop with
  | 0x200 => some (.pmake h f0)
  | 0x201 => some (.pnarrow h f0)
  | 0x202 => some (.pwiden h f0)
  | 0x203 => some (.pslice h f0)
  | 0x204 => some (.ptype h f0)
  | 0x205 => some (.pget h f0)
  | 0x206 => some (.pchk h f0)
  | 0x207 => some (.ld h f2)
  | 0x208 => some (.st h f2)
  | 0x209 => some (.ldx h f2)
  | 0x20A => some (.stx h f2)
  | 0x20B => some (.atom h f2)
  | 0x20C => some (.acas h f2)
  | 0x20D => some (.amred h f2)
  | 0x20E => some (.pubopen h f2)
  | 0x20F => some (.publish h f2)
  | 0x210 => some (.lcadv h f1)
  | 0x211 => some (.ldprs h f2)
  | _ => none

/-- Operations 0x280 to 0x2FF, split by SUB as their entries say; a SUB outside the entry reads as the entry's first form. -/
def decodeEng (iop : Nat) (w : W64) : Option Instr :=
  let h := hdrOf w
  let f4 := f4Of w
  let sb := f4.sub.toNat
  match iop with
  | 0x280 => some (.cpy h f4)
  | 0x281 => some (.cpyx h f4)
  | 0x282 => some (.cpyw h f4)
  | 0x283 => some (.cpyg h f4)
  | 0x284 => some (.cpwait h f4)
  | 0x285 => some (if sb = 1 then .ringacqCons h f4 else .ringacqProd h f4)
  | 0x286 => some (if sb = 1 then .ringrelCons h f4 else if sb = 2 then .ringrelProdAfter h f4 else .ringrelProd h f4)
  | 0x287 => some (if sb = 1 then .ringwtEmpty h f4 else .ringwtFull h f4)
  | 0x288 => some (if sb = 1 then .easeqProbe h f4 else if sb = 2 then .easeqWait h f4 else .easeqCount h f4)
  | 0x2A0 => some (if sb = 1 then .xhdrXp h f4 else if sb = 2 then .xhdrChk h f4 else if sb = 3 then .xhdrAdopt h f4 else .xhdrRd h f4)
  | 0x2A1 => some (.xexp h f4)
  | 0x2A2 => some (.xcmp h f4)
  | 0x2A3 => some (.xdec h f4)
  | 0x2A4 => some (.xstat h f4)
  | 0x2A5 => some (.xwait h f4)
  | 0x2C0 => some (.mma h f4)
  | 0x2C1 => some (.mmac h f4)
  | 0x2C2 => some (.arel h f4)
  | 0x2C3 => some (.aread h f4)
  | 0x2C4 => some (.awrite h f4)
  | 0x2C5 => some (.azero h f4)
  | 0x2C6 => some (.mwait h f4)
  | 0x2C7 => some (if sb = 1 then .mstatAcc h f4 else .mstatGrp h f4)
  | 0x2E0 => some (.hclr h f4)
  | 0x2E1 => some (.hacc h f4)
  | 0x2E2 => some (.hpct h f4)
  | 0x2E3 => some (.sfold h f4)
  | 0x2E4 => some (.qnt h f4)
  | 0x2E5 => some (.dqnt h f4)
  | 0x2E6 => some (if sb = 1 then .qstatAll h f4 else if sb = 2 then .qstatBin h f4 else .qstatGrp h f4)
  | _ => none

/-- Operations 0x300 to 0x33F, split by SUB as their entries say; a SUB outside the entry reads as the entry's first form. -/
def decodeDsp (iop : Nat) (w : W64) : Option Instr :=
  let h := hdrOf w
  let f4 := f4Of w
  let sb := f4.sub.toNat
  match iop with
  | 0x300 => some (.tbind h f4)
  | 0x301 => some (.tfree h f4)
  | 0x302 => some (.tlook h f4)
  | 0x303 => some (.tnear h f4)
  | 0x304 => some (.thalo h f4)
  | 0x305 => some (if sb = 1 then .tdropDiscard h f4 else .tdropWb h f4)
  | 0x306 => some (.twrb h f4)
  | 0x307 => some (if sb = 1 then .tqryAll h f4 else if sb = 2 then .tqryBind h f4 else .tqryGrp h f4)
  | 0x320 => some (.launch h f4)
  | 0x321 => some (.kreg h f4)
  | 0x322 => some (.kdereg h f4)
  | 0x323 => some (.swait h f4)
  | 0x324 => some (.qcfg h f4)
  | 0x325 => some (.depadd h f4)
  | 0x326 => some (if sb = 1 then .budgqCtx h f4 else .budgqIsland h f4)
  | 0x327 => some (.pairq h f4)
  | _ => none

/-- Operations 0x340 to 0x3FF, split by SUB as their entries say; a SUB outside the entry reads as the entry's first form. -/
def decodeCtx (iop : Nat) (w : W64) : Option Instr :=
  let h := hdrOf w
  let f4 := f4Of w
  let sb := f4.sub.toNat
  match iop with
  | 0x340 => some (.cxnew h f4)
  | 0x341 => some (if sb = 1 then .cxgrantPort h f4 else if sb = 2 then .cxgrantHandle h f4 else if sb = 3 then .cxgrantCommon h f4 else .cxgrantBudget h f4)
  | 0x342 => some (if sb = 1 then .cxrevokeCommon h f4 else if sb = 2 then .cxrevokeAll h f4 else .cxrevokeHandle h f4)
  | 0x343 => some (if sb = 1 then .cxrunLaunch h f4 else .cxrun h f4)
  | 0x344 => some (.cxstop h f4)
  | 0x345 => some (if sb % 16 = 1 then .cxstatFlags h f4 else if sb % 16 = 2 then .cxstatCont h f4 else if sb % 16 = 3 then .cxstatPort h f4 else if sb % 16 = 4 then .cxstatPword h f4 else .cxstatState h f4)
  | 0x346 => some (.cxdel h f4)
  | 0x347 => some (.frmap h f4)
  | 0x348 => some (.frunmap h f4)
  | 0x349 => some (if sb = 1 then .frqryComp h f4 else if sb = 2 then .frqrySelf h f4 else .frqryChild h f4)
  | 0x34A => some (.platset h f4)
  | 0x34B => some (.dtld h f4)
  | 0x34C => some (.htset h f4)
  | 0x34D => some (if sb = 1 then .trdlgMaskChild h f4 else if sb = 2 then .trdlgRing h f4 else if sb = 3 then .trdlgOff h f4 else .trdlgMask h f4)
  | 0x34E => some (.trflt h f4)
  | 0x34F => some (.pgret h f4)
  | 0x350 => some (if sb = 1 then .miglogTake h f4 else if sb = 2 then .miglogOff h f4 else .miglogOn h f4)
  | 0x351 => some (.migmov h f4)
  | 0x352 => some (if sb = 1 then .invpgTlb h f4 else .invpg h f4)
  | 0x353 => some (if sb % 8 = 1 then .invcxTlb h f4 else if sb % 8 = 2 then .invcxRoot h f4 else .invcxAll h f4)
  | _ => none

/-- The instruction an internal operation number and a word stand for. -/
def decodeIop (iop : Nat) (w : W64) : Option Instr :=
  if iop ≤ 0x0FF then decodeSeq iop w else
  if iop ≤ 0x1FF then decodeVec iop w else
  if iop ≤ 0x27F then decodeLsu iop w else
  if iop ≤ 0x2FF then decodeEng iop w else
  if iop ≤ 0x33F then decodeDsp iop w else
  decodeCtx iop w

/-- Map 1's opcode of an instruction (R78) and its word; none for an event. -/
def encode : Instr → Option W64
  | .bra h f => some (encF3 h 0x000 f)
  | .bru h f => some (encF3 h 0x002 f)
  | .call h f => some (encF3 h 0x003 f)
  | .brx h f => some (encF0 h 0x001 f)
  | .ret h f => some (encF0 h 0x004 f)
  | .join h f => some (encF0 h 0x005 f)
  | .exit h f => some (encF0 h 0x006 f)
  | .yield h f => some (encF0 h 0x007 f)
  | .nop h f => some (encF0 h 0x008 f)
  | .pset h f => some (encF0 h 0x009 f)
  | .plogLut h f => some (encF0 h 0x00A f)
  | .plogFroms h f => some (encF0 h 0x00A f)
  | .voteBallot h f => some (encF0 h 0x00B f)
  | .voteAny h f => some (encF0 h 0x00B f)
  | .voteAll h f => some (encF0 h 0x00B f)
  | .voteEq h f => some (encF0 h 0x00B f)
  | .elect h f => some (encF0 h 0x00C f)
  | .sadd h f => some (encF0 h 0x00D f)
  | .ssub h f => some (encF0 h 0x00E f)
  | .smul h f => some (encF0 h 0x00F f)
  | .smin h f => some (encF0 h 0x010 f)
  | .smax h f => some (encF0 h 0x011 f)
  | .sand h f => some (encF0 h 0x012 f)
  | .sor h f => some (encF0 h 0x013 f)
  | .sxor h f => some (encF0 h 0x014 f)
  | .sshl h f => some (encF0 h 0x015 f)
  | .sshr h f => some (encF0 h 0x016 f)
  | .ssra h f => some (encF0 h 0x017 f)
  | .smov h f => some (encF0 h 0x019 f)
  | .tretRetry h f => some (encF0 h 0x024 f)
  | .tretSkip h f => some (encF0 h 0x024 f)
  | .tretKill h f => some (encF0 h 0x024 f)
  | .hops h f => some (encF0 h 0x025 f)
  | .topoGrade h f => some (encF0 h 0x026 f)
  | .topoCores h f => some (encF0 h 0x026 f)
  | .topoDies h f => some (encF0 h 0x026 f)
  | .topoIsland h f => some (encF0 h 0x026 f)
  | .topoNcore h f => some (encF0 h 0x026 f)
  | .topoFirst h f => some (encF0 h 0x026 f)
  | .sldi h f => some (encF1 h 0x018 f)
  | .gacq h f => some (encF1 h 0x01A f)
  | .grel h f => some (encF1 h 0x01B f)
  | .sget h f => some (encF1 h 0x021 f)
  | .sset h f => some (encF1 h 0x022 f)
  | .trap h f => some (encF1 h 0x023 f)
  | .ldi h f => some (encF1 h 0x114 f)
  | .lcadv h f => some (encF1 h 0x210 f)
  | .bara h f => some (encF5 h 0x01C f)
  | .barw h f => some (encF5 h 0x01D f)
  | .qsend h f => some (encF5 h 0x01E f)
  | .qrecv h f => some (encF5 h 0x01F f)
  | .qpeek h f => some (encF5 h 0x020 f)
  | .isync h f => some (encF2 h 0x027 f)
  | .ld h f => some (encF2 h 0x207 f)
  | .st h f => some (encF2 h 0x208 f)
  | .ldx h f => some (encF2 h 0x209 f)
  | .stx h f => some (encF2 h 0x20A f)
  | .atom h f => some (encF2 h 0x20B f)
  | .acas h f => some (encF2 h 0x20C f)
  | .amred h f => some (encF2 h 0x20D f)
  | .pubopen h f => some (encF2 h 0x20E f)
  | .publish h f => some (encF2 h 0x20F f)
  | .ldprs h f => some (encF2 h 0x211 f)
  | .iadd h f => some (encF0 h 0x100 f)
  | .isub h f => some (encF0 h 0x101 f)
  | .imul h f => some (encF0 h 0x102 f)
  | .imulh h f => some (encF0 h 0x103 f)
  | .imad h f => some (encF0 h 0x104 f)
  | .imin h f => some (encF0 h 0x105 f)
  | .imax h f => some (encF0 h 0x106 f)
  | .iabs h f => some (encF0 h 0x107 f)
  | .and h f => some (encF0 h 0x108 f)
  | .or h f => some (encF0 h 0x109 f)
  | .xor h f => some (encF0 h 0x10A f)
  | .shl h f => some (encF0 h 0x10B f)
  | .shr h f => some (encF0 h 0x10C f)
  | .sra h f => some (encF0 h 0x10D f)
  | .popc h f => some (encF0 h 0x10E f)
  | .clz h f => some (encF0 h 0x10F f)
  | .bfx h f => some (encF0 h 0x110 f)
  | .bfi h f => some (encF0 h 0x111 f)
  | .sel h f => some (encF0 h 0x112 f)
  | .mov h f => some (encF0 h 0x113 f)
  | .fadd h f => some (encF0 h 0x115 f)
  | .fsub h f => some (encF0 h 0x116 f)
  | .fmul h f => some (encF0 h 0x117 f)
  | .ffma h f => some (encF0 h 0x118 f)
  | .fmin h f => some (encF0 h 0x119 f)
  | .fmax h f => some (encF0 h 0x11A f)
  | .fcmp h f => some (encF0 h 0x11B f)
  | .frcp h f => some (encF0 h 0x11C f)
  | .frsq h f => some (encF0 h 0x11D f)
  | .fsqrt h f => some (encF0 h 0x11E f)
  | .fdiv h f => some (encF0 h 0x11F f)
  | .fexp2 h f => some (encF0 h 0x120 f)
  | .flog2 h f => some (encF0 h 0x121 f)
  | .fclass h f => some (encF0 h 0x122 f)
  | .cvt h f => some (encF0 h 0x123 f)
  | .cvti h f => some (encF0 h 0x124 f)
  | .pack h f => some (encF0 h 0x125 f)
  | .unpack h f => some (encF0 h 0x126 f)
  | .shfl h f => some (encF0 h 0x127 f)
  | .shflx h f => some (encF0 h 0x128 f)
  | .lred h f => some (encF0 h 0x129 f)
  | .lscan h f => some (encF0 h 0x12A f)
  | .bcast h f => some (encF0 h 0x12B f)
  | .cmul h f => some (encF0 h 0x12C f)
  | .pmake h f => some (encF0 h 0x200 f)
  | .pnarrow h f => some (encF0 h 0x201 f)
  | .pwiden h f => some (encF0 h 0x202 f)
  | .pslice h f => some (encF0 h 0x203 f)
  | .ptype h f => some (encF0 h 0x204 f)
  | .pget h f => some (encF0 h 0x205 f)
  | .pchk h f => some (encF0 h 0x206 f)
  | .cpy h f => some (encF4 h 0x280 f)
  | .cpyx h f => some (encF4 h 0x281 f)
  | .cpyw h f => some (encF4 h 0x282 f)
  | .cpyg h f => some (encF4 h 0x283 f)
  | .cpwait h f => some (encF4 h 0x284 f)
  | .ringacqProd h f => some (encF4 h 0x285 f)
  | .ringacqCons h f => some (encF4 h 0x285 f)
  | .ringrelProd h f => some (encF4 h 0x286 f)
  | .ringrelProdAfter h f => some (encF4 h 0x286 f)
  | .ringrelCons h f => some (encF4 h 0x286 f)
  | .ringwtFull h f => some (encF4 h 0x287 f)
  | .ringwtEmpty h f => some (encF4 h 0x287 f)
  | .easeqCount h f => some (encF4 h 0x288 f)
  | .easeqProbe h f => some (encF4 h 0x288 f)
  | .easeqWait h f => some (encF4 h 0x288 f)
  | .xhdrRd h f => some (encF4 h 0x2A0 f)
  | .xhdrXp h f => some (encF4 h 0x2A0 f)
  | .xhdrChk h f => some (encF4 h 0x2A0 f)
  | .xhdrAdopt h f => some (encF4 h 0x2A0 f)
  | .xexp h f => some (encF4 h 0x2A1 f)
  | .xcmp h f => some (encF4 h 0x2A2 f)
  | .xdec h f => some (encF4 h 0x2A3 f)
  | .xstat h f => some (encF4 h 0x2A4 f)
  | .xwait h f => some (encF4 h 0x2A5 f)
  | .mma h f => some (encF4 h 0x2C0 f)
  | .mmac h f => some (encF4 h 0x2C1 f)
  | .arel h f => some (encF4 h 0x2C2 f)
  | .aread h f => some (encF4 h 0x2C3 f)
  | .awrite h f => some (encF4 h 0x2C4 f)
  | .azero h f => some (encF4 h 0x2C5 f)
  | .mwait h f => some (encF4 h 0x2C6 f)
  | .mstatGrp h f => some (encF4 h 0x2C7 f)
  | .mstatAcc h f => some (encF4 h 0x2C7 f)
  | .hclr h f => some (encF4 h 0x2E0 f)
  | .hacc h f => some (encF4 h 0x2E1 f)
  | .hpct h f => some (encF4 h 0x2E2 f)
  | .sfold h f => some (encF4 h 0x2E3 f)
  | .qnt h f => some (encF4 h 0x2E4 f)
  | .dqnt h f => some (encF4 h 0x2E5 f)
  | .qstatGrp h f => some (encF4 h 0x2E6 f)
  | .qstatAll h f => some (encF4 h 0x2E6 f)
  | .qstatBin h f => some (encF4 h 0x2E6 f)
  | .tbind h f => some (encF4 h 0x300 f)
  | .tfree h f => some (encF4 h 0x301 f)
  | .tlook h f => some (encF4 h 0x302 f)
  | .tnear h f => some (encF4 h 0x303 f)
  | .thalo h f => some (encF4 h 0x304 f)
  | .tdropWb h f => some (encF4 h 0x305 f)
  | .tdropDiscard h f => some (encF4 h 0x305 f)
  | .twrb h f => some (encF4 h 0x306 f)
  | .tqryGrp h f => some (encF4 h 0x307 f)
  | .tqryAll h f => some (encF4 h 0x307 f)
  | .tqryBind h f => some (encF4 h 0x307 f)
  | .launch h f => some (encF4 h 0x320 f)
  | .kreg h f => some (encF4 h 0x321 f)
  | .kdereg h f => some (encF4 h 0x322 f)
  | .swait h f => some (encF4 h 0x323 f)
  | .qcfg h f => some (encF4 h 0x324 f)
  | .depadd h f => some (encF4 h 0x325 f)
  | .budgqIsland h f => some (encF4 h 0x326 f)
  | .budgqCtx h f => some (encF4 h 0x326 f)
  | .pairq h f => some (encF4 h 0x327 f)
  | .cxnew h f => some (encF4 h 0x340 f)
  | .cxgrantBudget h f => some (encF4 h 0x341 f)
  | .cxgrantPort h f => some (encF4 h 0x341 f)
  | .cxgrantHandle h f => some (encF4 h 0x341 f)
  | .cxgrantCommon h f => some (encF4 h 0x341 f)
  | .cxrevokeHandle h f => some (encF4 h 0x342 f)
  | .cxrevokeCommon h f => some (encF4 h 0x342 f)
  | .cxrevokeAll h f => some (encF4 h 0x342 f)
  | .cxrun h f => some (encF4 h 0x343 f)
  | .cxrunLaunch h f => some (encF4 h 0x343 f)
  | .cxstop h f => some (encF4 h 0x344 f)
  | .cxstatState h f => some (encF4 h 0x345 f)
  | .cxstatFlags h f => some (encF4 h 0x345 f)
  | .cxstatCont h f => some (encF4 h 0x345 f)
  | .cxstatPort h f => some (encF4 h 0x345 f)
  | .cxstatPword h f => some (encF4 h 0x345 f)
  | .cxdel h f => some (encF4 h 0x346 f)
  | .frmap h f => some (encF4 h 0x347 f)
  | .frunmap h f => some (encF4 h 0x348 f)
  | .frqryChild h f => some (encF4 h 0x349 f)
  | .frqryComp h f => some (encF4 h 0x349 f)
  | .frqrySelf h f => some (encF4 h 0x349 f)
  | .platset h f => some (encF4 h 0x34A f)
  | .dtld h f => some (encF4 h 0x34B f)
  | .htset h f => some (encF4 h 0x34C f)
  | .trdlgMask h f => some (encF4 h 0x34D f)
  | .trdlgMaskChild h f => some (encF4 h 0x34D f)
  | .trdlgRing h f => some (encF4 h 0x34D f)
  | .trdlgOff h f => some (encF4 h 0x34D f)
  | .trflt h f => some (encF4 h 0x34E f)
  | .pgret h f => some (encF4 h 0x34F f)
  | .miglogOn h f => some (encF4 h 0x350 f)
  | .miglogTake h f => some (encF4 h 0x350 f)
  | .miglogOff h f => some (encF4 h 0x350 f)
  | .migmov h f => some (encF4 h 0x351 f)
  | .invpg h f => some (encF4 h 0x352 f)
  | .invpgTlb h f => some (encF4 h 0x352 f)
  | .invcxAll h f => some (encF4 h 0x353 f)
  | .invcxTlb h f => some (encF4 h 0x353 f)
  | .invcxRoot h f => some (encF4 h 0x353 f)
  | _ => none
/-! ## Decode tables -/

/-- What a word is under a table (R79). -/
inductive Decoded where
  | empty
  | reserved (i : Instr)
  | illegal (i : Instr)
  | instr (i : Instr)
deriving DecidableEq, Repr, Inhabited

/-- Map 1's entry of an opcode (R73, R75). -/
def map1Entry (opc : Nat) : W32 :=
  match fmtOf opc with
  | some fmt => BitVec.ofNat 32 (2 ^ 31 + fmt * 2 ^ 24 + opc * 2 ^ 12)
  | none => 0

/-- The table entry of an opcode; `none` is map 1. -/
def tableEntry (t : Option (List W32)) (opc : Nat) : W32 :=
  match t with
  | none => map1Entry opc
  | some l => l.getD opc 0

/-- Decoding through a table (R73, R74) with the field checks of R79 in order. -/
def decodeWord (t : Option (List W32)) (w : W64) : Decoded :=
  let e := tableEntry t (w.extractLsb' 0 10).toNat
  if e.getLsbD 31 then
    match decodeIop (e.extractLsb' 12 10).toNat w with
    | none => .empty
    | some i =>
      if fmtReserved (e.extractLsb' 24 3).toNat w then .reserved i
      else match fieldErr i with
        | .reserved => .reserved i
        | .illegal => .illegal i
        | .ok => .instr i
  else .empty

/-- The host's question: the instruction that map 1 reads from bits numbered as spec/opcode_table.json numbers them. -/
def decodeTableWord (nbits w : Nat) : Option Instr :=
  if nbits ≤ 64 then
    match decodeWord none (BitVec.ofNat 64 (w % 2 ^ nbits)) with
    | .instr i => some i
    | _ => none
  else none

end Sys2Proof
end

