-- ==== Sys2Proof/Machine/Kernel.lean ====
section
/-!
DEFINITION. Kernel images and the checks of KREG (R87 to R92): the header, the block table, branch targets, the walk of
yield paths, and what a registered kernel keeps.
-/
namespace Sys2Proof.Machine

/-- The header of R87. -/
structure KHdr where
  nwords : Nat
  nblocks : Nat
  role : Nat
  team : Nat
  parcel : Nat
  regs : Nat
  acc : Nat
  prio : Nat
  wbuf : Nat
  abuf : Nat
  cshr : Nat
  code : Nat
  blk : Nat
  name : Nat
  len : Nat
deriving DecidableEq, Repr, Inhabited

def KHdr.of (b : List Byte) : KHdr :=
  { nwords := field b 8 4, nblocks := field b 12 4, role := field b 16 1, team := field b 17 1, parcel := field b 18 1,
    regs := field b 19 1, acc := field b 20 1, prio := field b 21 1, wbuf := field b 24 4, abuf := field b 28 4,
    cshr := field b 32 4, code := field b 36 4, blk := field b 40 4, name := field b 44 4, len := field b 48 4 }

/-! ## Names in UTF-8 -/

/-- Well-formed UTF-8: `need` more bytes of the present character, the first of them from lo to hi. -/
def utf8Go : List Byte → Nat → Nat → Nat → Bool
  | [], need, _, _ => need = 0
  | b :: r, 0, _, _ =>
    let x := b.toNat
    if x < 0x80 then utf8Go r 0 0 0
    else if x < 0xC2 then false
    else if x < 0xE0 then utf8Go r 1 0x80 0xBF
    else if x < 0xF0 then utf8Go r 2 (if x = 0xE0 then 0xA0 else 0x80) (if x = 0xED then 0x9F else 0xBF)
    else if x < 0xF5 then utf8Go r 3 (if x = 0xF0 then 0x90 else 0x80) (if x = 0xF4 then 0x8F else 0xBF)
    else false
  | b :: r, n + 1, lo, hi => decide (lo ≤ b.toNat) && decide (b.toNat ≤ hi) && utf8Go r n 0x80 0xBF

def utf8 (bs : List Byte) : Bool := utf8Go bs 0 0 0

/-! ## Check 1 -/

/-- The image with its CHECK field as zero. -/
def zeroCheck (b : List Byte) : List Byte := b.take 60 ++ [0, 0, 0, 0] ++ b.drop 64

/-- A name of 1 to 63 bytes and its zero byte, within the image. -/
def nameOk (b : List Byte) (h : KHdr) : Bool :=
  let t := (b.take h.len).drop h.name
  let n := t.takeWhile (· ≠ 0)
  decide (1 ≤ n.length) && decide (n.length ≤ 63) && decide (n.length < t.length) && utf8 n

def headerOk (b : List Byte) (h : KHdr) : Bool :=
  decide (field b 0 4 = 0x314B4746 ∧ field b 4 2 = 1 ∧ field b 6 2 = 0 ∧ field b 22 2 = 0 ∧ field b 52 8 = 0) &&
  decide (1 ≤ h.nwords ∧ h.nwords ≤ 16777216 ∧ 1 ≤ h.nblocks ∧ h.nblocks ≤ h.nwords ∧ h.role ≤ 3) &&
  decide (1 ≤ h.team ∧ h.team ≤ 16 ∧ 1 ≤ h.parcel ∧ h.parcel ≤ 8 ∧ h.regs ≤ 6 ∧ h.acc ≤ 8) &&
  decide (h.wbuf ≤ 65536 ∧ h.abuf ≤ 65536 ∧ h.cshr ≤ 2097152) &&
  decide (h.code % 8 = 0 ∧ h.blk % 8 = 0 ∧ h.name % 8 = 0 ∧ 64 ≤ h.code ∧ h.code + 8 * h.nwords ≤ h.blk ∧
    h.blk + 16 * h.nblocks ≤ h.name ∧ h.name < h.len ∧ h.len ≤ b.length) &&
  nameOk b h && decide ((crc32 (zeroCheck (b.take h.len))).toNat = field b 60 4)

/-! ## Words and blocks -/

def kWords (b : List Byte) (h : KHdr) : List W64 :=
  (List.range h.nwords).map (fun i => BitVec.ofNat 64 (field b (h.code + 8 * i) 8))

/-- A block table entry (R88): START, NW, COST, FLAGS. -/
structure KBlk where
  start : Nat
  nw : Nat
  cost : Nat
  flags : Nat
deriving DecidableEq, Repr, Inhabited

def kBlocks (b : List Byte) (h : KHdr) : List KBlk :=
  (List.range h.nblocks).map (fun i =>
    let o := h.blk + 16 * i
    { start := field b o 4, nw := field b (o + 4) 4, cost := field b (o + 8) 4, flags := field b (o + 12) 4 })

/-- The operation a word stands for under a table; none where the table's entry is empty. -/
def wordOp (t : Option (List W32)) (w : W64) : Option Nat :=
  let e := tableEntry t (w.extractLsb' 0 10).toNat
  if e.getLsbD 31 then some (e.extractLsb' 12 10).toNat else none

/-- BRA, BRX, BRU, CALL, RET, EXIT, YIELD and TRET end a block (R88). -/
def endsBlock (op : Option Nat) : Bool :=
  match op with
  | some n => [0x000, 0x001, 0x002, 0x003, 0x004, 0x006, 0x007, 0x024].contains n
  | none => false

def isDirect (op : Option Nat) : Bool := op = some 0x000 || op = some 0x002 || op = some 0x003

/-- The word index a direct branch at word i names. -/
def targetOf (w : W64) (i : Nat) : Int := (i : Int) + (f3Of w).woff.toInt

def blockAt (bs : List KBlk) (i : Nat) : Option KBlk := bs.find? (fun k => k.start = i)
def KBlk.it (k : KBlk) : Bool := bit k.flags 1

/-- Blocks follow each other from a word on and end at n. -/
def coverFrom : List KBlk → Nat → Nat → Bool
  | [], a, n => a = n
  | k :: r, a, n => decide (k.start = a) && decide (1 ≤ k.nw) && coverFrom r (a + k.nw) n

/-- Check 2. -/
def blocksOk (ops : List (Option Nat)) (bs : List KBlk) : Bool :=
  coverFrom bs 0 ops.length &&
  (ops.zipIdx.all (fun x => !(endsBlock x.1) || x.2 + 1 = ops.length || (blockAt bs (x.2 + 1)).isSome)) &&
  (bs.all (fun k => bit k.flags 0 == decide (k.start = 0))) && bs.all (fun k => decide (k.flags < 4))

/-- No lane continues past a word (R89). -/
def stopsHere (op : Option Nat) (w : W64) : Bool :=
  (match op with
   | some n => [0x000, 0x001, 0x002, 0x004, 0x006].contains n
   | none => false) && decide ((hdrOf w).guard = 7) && !(hdrOf w).gneg

/-- Check 3. -/
def targetsOk (ws : List W64) (ops : List (Option Nat)) (bs : List KBlk) : Bool :=
  let n := ws.length
  ((ws.zip ops).zipIdx.all (fun x =>
    let t := targetOf x.1.1 x.2
    (!(isDirect x.1.2) || (decide (0 ≤ t) && decide (t < (n : Int)) && (blockAt bs t.toNat).isSome)) &&
    (x.1.2 ≠ some 0x003 || (match blockAt bs (x.2 + 1) with
      | some k => k.it
      | none => false)))) &&
  (match (ws.zip ops).getLast? with
   | some x => stopsHere x.2 x.1
   | none => false)

/-- Check 4. -/
def wordsOk (t : Option (List W32)) (ws : List W64) : Bool :=
  ws.all (fun w => match decodeWord t w with
    | .instr _ => true
    | _ => false)

/-- Check 5. -/
def roleOk (role : Nat) (ops : List (Option Nat)) : Bool := ops.all (fun o => roleAllows role (o.getD 0))

/-! ## The walk (R89, R90) -/

/-- The issue cost of a word (R90). -/
def wordCost (op : Option Nat) (w : W64) : Nat := max (hdrOf w).stall.toNat 1 + (if perLane (op.getD 0) then 1 else 0)

/-- A word of the walk: its cost, whether a yield path ends at it, and the words it goes on to. -/
structure WNode where
  cost : Nat
  last : Bool
  succ : List Nat
deriving DecidableEq, Repr, Inhabited

/-- The successors of word i of n, given the IT blocks (R89). -/
def succsOf (n : Nat) (its : List Nat) (op : Option Nat) (w : W64) (i : Nat) : List Nat :=
  let next := if i + 1 < n then [i + 1] else []
  if op = some 0x006 then []
  else if isDirect op then (targetOf w i).toNat :: next
  else if op = some 0x001 ∨ op = some 0x004 then its ++ next
  else next

def nodesOf (ws : List W64) (ops : List (Option Nat)) (its : List Nat) : List WNode :=
  (ws.zip ops).zipIdx.map (fun x =>
    let sc := succsOf ws.length its x.1.2 x.1.1 x.2
    { cost := wordCost x.1.2 x.1.1, last := x.1.2 = some 0x007 || sc.isEmpty, succ := sc })

/-- One round: the greatest cost of a yield path's last part from each word, over paths one word longer. -/
def pathRound (ns : List WNode) (l : List Nat) : List Nat :=
  ns.map (fun x => x.cost + (if x.last then 0 else x.succ.foldl (fun a i => max a (l.getD i 0)) 0))

def pathRounds (ns : List WNode) : Nat → List Nat
  | 0 => ns.map (fun _ => 0)
  | n + 1 => pathRound ns (pathRounds ns n)

/-- Costs from each word; none when a cycle holds no YIELD (check 6). -/
def pathCosts (ns : List WNode) : Option (List Nat) :=
  let l := pathRounds ns ns.length
  if pathRound ns l = l then some l else none

/-- The costliest yield path (R90): from word 0 or from the word after a YIELD. -/
def yieldPath (ops : List (Option Nat)) (l : List Nat) : Nat :=
  ops.zipIdx.foldl (fun a x => if x.1 = some 0x007 then max a (l.getD (x.2 + 1) 0) else a) (l.getD 0 0)

/-- Check 8. -/
def costsOk (ns : List WNode) (bs : List KBlk) : Bool :=
  bs.all (fun k => decide (((ns.drop k.start).take k.nw).foldl (fun a x => a + x.cost) 0 = k.cost))

/-- Check 9. -/
def quotaOk (h : KHdr) (t : Option (List W32)) (ws : List W64) : Bool :=
  decide (h.team * h.regs ≤ 32) && ws.all (fun w => match decodeWord t w with
    | .instr (.gacq _ f) => decide (f.imm.toNat ≤ h.regs)
    | _ => true)

/-! ## KREG's verdict -/

/-- The reason of R91 that rejects an image at an address, or the kernel that is registered (R92). -/
def checkImage (t : Option (List W32)) (ylimit base : Nat) (b : List Byte) : Nat ⊕ Kern :=
  let h := KHdr.of b
  if !(headerOk b h) then .inl 1
  else
    let ws := kWords b h
    let ops := ws.map (wordOp t)
    let bs := kBlocks b h
    if !(blocksOk ops bs) then .inl 2
    else if !(targetsOk ws ops bs) then .inl 3
    else if !(wordsOk t ws) then .inl 4
    else if !(roleOk h.role ops) then .inl 5
    else
      let its := (bs.filter KBlk.it).map (·.start)
      let ns := nodesOf ws ops its
      match pathCosts ns with
      | none => .inl 6
      | some l =>
        let y := yieldPath ops l
        if ylimit < y then .inl 7
        else if !(costsOk ns bs) then .inl 8
        else if !(quotaOk h t ws) then .inl 9
        else .inr { base := base + h.code, nwords := h.nwords, it := its, role := h.role, team := h.team, parcel := h.parcel,
                    regs := h.regs, acc := h.acc, prio := h.prio, wbuf := h.wbuf, abuf := h.abuf, cshr := h.cshr, image := base,
                    ypath := y }

end Sys2Proof.Machine
end

