-- ==== Sys2Proof/Machine/EngineIO.lean ====
section
/-!
DEFINITION. How an engine command reads and writes memory (R148): byte ranges in sector pieces, at its read time and with
its stamps; and the checks of its pointers (R116, R261 and their likes).
-/
namespace Sys2Proof.Machine

/-- What an engine's access answers: done, a cause with its virtual address and DETAIL, or not now. -/
inductive EngRes (α : Type) where
  | ok (s : State) (a : α)
  | fault (s : State) (cause va detail : Nat)
  | wait
deriving Inhabited

def EngRes.bind {α β : Type} (x : EngRes α) (f : State → α → EngRes β) : EngRes β :=
  match x with
  | .ok s a => f s a
  | .fault s c v d => .fault s c v d
  | .wait => .wait

/-- A range in pieces that lie within one sector each: address and bytes. -/
def pieces (a n : Nat) : List (Nat × Nat) :=
  if n = 0 then []
  else (List.range ((a + n - 1) / 64 + 1 - a / 64)).map (fun i =>
    let lo := max a (64 * (a / 64 + i))
    (lo, min (a + n) (64 * (a / 64 + i + 1)) - lo))

/-- An engine's access through a pointer. -/
def engAcc (ctx core : Nat) (p : Ptr) : Acc :=
  { ctx, core, share := p.share, scope := p.scope, eng := true, tns := decide (p.space = 6), win := decide (p.space = 5), cv := p.cv }

/-- Reads pieces of cached memory at a read time, lowest address first. -/
def readPieces (ctx core rt : Nat) (p : Ptr) : List (Nat × Nat) → State → Nat → Nat → EngRes Nat
  | [], s, _, v => .ok s v
  | (a, n) :: r, s, sh, v =>
    match cohRead s (engAcc ctx core p) (accKey s ctx p a) rt true with
    | .ok s1 x => readPieces ctx core rt p r s1 (sh + 8 * n) (v + sectorBytes x.data (a % 64) n * 2 ^ sh)
    | .fault s1 c d => .fault s1 c a d
    | .wait => .wait

/-- Reads n bytes for an engine. Space 3 is by physical address. -/
def rdBytes (s : State) (ctx core rt : Nat) (p : Ptr) (a n : Nat) : EngRes Nat :=
  if isGlobal p.space ∨ p.space = 5 then readPieces ctx core rt p (pieces a n) s 0 0
  else .ok s (localRead s core p.space a n)

/-- Bytes to write, by sector number: data and mask. -/
abbrev SecWrites := List (Nat × BitVec 512 × BitVec 64)

/-- Adds the low n bytes of a value at an address. -/
def putBytes (l : SecWrites) (a n v : Nat) : SecWrites :=
  (pieces a n).foldl (fun l x =>
    let (b, k) := x
    let w := v / 2 ^ (8 * (b - a))
    match l.find? (fun e => e.1 = b / 64) with
    | some _ => l.map (fun e => if e.1 = b / 64 then (e.1, sectorPut e.2.1 (b % 64) k w, e.2.2 ||| byteMask (b % 64) k) else e)
    | none => l ++ [(b / 64, sectorPut 0 (b % 64) k w, byteMask (b % 64) k)]) l

/-- The bytes of a masked sector into a buffer that keeps no stamps. -/
def localPut (s : State) (core space : Nat) (e : Nat × BitVec 512 × BitVec 64) : State :=
  (List.range 64).foldl (fun s i =>
    if e.2.2.getLsbD i then localWrite s core space (64 * e.1 + i) 1 (sectorBytes e.2.1 i 1) else s) s

/-- Writes masked sectors for an engine: the largest stamp. -/
def wrSectors (ctx core rt : Nat) (p : Ptr) : SecWrites → State → Nat → EngRes Nat
  | [], s, t => .ok s t
  | e :: r, s, t =>
    if isGlobal p.space ∨ p.space = 5 then
      match cohWrite s (engAcc ctx core p) (accKey s ctx p (64 * e.1)) e.2.1 e.2.2 rt with
      | .ok s1 x => wrSectors ctx core rt p r s1 (max t x)
      | .fault s1 c d => .fault s1 c (64 * e.1) d
      | .wait => .wait
    else wrSectors ctx core rt p r (localPut s core p.space e) t

/-! ## Pointer checks -/

/-- Checks 2 to 5 on a range of n bytes from an address, for an engine's operand. -/
def rangeCheck (s : State) (p : Ptr) (write : Bool) (a n : Nat) (aligned : Bool) : Option (Nat × Nat) :=
  if write ∧ p.share = 1 then some (0x08, a)
  else if !(homeOk s s.selChain.ctx s.selCore p) then some (0x09, a)
  else if a < p.base ∨ p.base + p.len < a + n then some (0x0A, a)
  else match spaceFault s s.selChain p a n with
    | some f => some f
    | none => if aligned then none else some (0x0B, a)

/-- Check 1, then a rule of the engine on the pointer itself, then checks 2 to 5. -/
def operandCheck (s : State) (kreg : Nat) (p : Ptr) (own : Option (Nat × Nat)) (write : Bool) (a n : Nat) (aligned : Bool) :
    Option (Nat × Nat) :=
  if !p.valid then some (0x0C, kreg)
  else match own with
    | some f => some f
    | none => rangeCheck s p write a n aligned

/-- Two ranges of one tag space and space overlap. -/
def rngsMeet (x y : List Rng) : Bool :=
  x.any (fun a => y.any (fun b => decide (a.tag = b.tag) && decide (a.space = b.space) && decide (a.lo ≤ b.hi) && decide (b.lo ≤ a.hi)))

/-- The bytes that n elements of a format take; raw counts bytes, a BS block 16 elements (R264). -/
def elemBytes (fmt n : Nat) : Nat :=
  if fmt = 0 then n else if Fmt.isBS fmt then ceilDiv n 16 * Fmt.size fmt false else n * Fmt.size fmt false

/-- The size of an element in an engine's operand. -/
def elemSize (fmt : Nat) : Nat := if fmt = 0 then 1 else Fmt.size fmt false

/-- Raw data and BS blocks need byte alignment only (R118). -/
def baseAligned (p : Ptr) : Bool := p.fmt = 0 || Fmt.isBS p.fmt || p.base % Fmt.size p.fmt false = 0

/-- The wider of two scopes. -/
def widest (ps : List Ptr) : Nat := ps.foldl (fun a p => max a p.scope) 0

end Sys2Proof.Machine
end

