-- ==== Sys2Proof/Machine/Vector.lean ====
section
/-!
DEFINITION. The vector engine (R192 to R213): the meanings of opcodes 0x100 to 0x12C.
-/
namespace Sys2Proof.Machine

/-! ## Integer arithmetic (R198) -/

/-- An integer operation element by element: the exact result, wrapped or saturated to the element width. -/
def intLane (s : State) (f : F0) (useB useC : Bool) (op : Int → Int → Int → Int) (lane : Nat) : Nat × Flags :=
  let ty := f.ty.toNat
  let w := tyWidth ty
  let wide := wide0 f
  let as := elemsOf ty (srcVal s f.ua wide f.a lane)
  let bs := elemsOf ty (if useB then srcVal s f.ub wide f.b lane else 0)
  let cs := elemsOf ty (if useC then srcVal s false wide f.c lane else 0)
  let rs := (List.range (tyCount ty)).map (fun i =>
    let v := op (intElem ty (as.getD i 0)) (intElem ty (bs.getD i 0)) (intElem ty (cs.getD i 0))
    if f.sub = 1 then (let (y, fl) := satInt v w (tySigned ty); (wrapN y w, fl)) else (wrapN v w, (0 : Flags)))
  (joinN w (rs.map (·.1)), orFlags (rs.map (·.2)))

def intMeaning (h : Hdr) (f : F0) (s : State) (useB useC : Bool) (op : Int → Int → Int → Int) :
    Host.Outcome State Fault Refusal :=
  laneResult s h 2 (wide0 f) f.d (intLane s f useB useC op)

def execIadd (h : Hdr) (f : F0) (s : State) : Host.Outcome State Fault Refusal :=
  intMeaning h f s true false (fun a b _ => a + b)
def execIsub (h : Hdr) (f : F0) (s : State) : Host.Outcome State Fault Refusal :=
  intMeaning h f s true false (fun a b _ => a - b)
def execImul (h : Hdr) (f : F0) (s : State) : Host.Outcome State Fault Refusal :=
  intMeaning h f s true false (fun a b _ => a * b)
def execImulh (h : Hdr) (f : F0) (s : State) : Host.Outcome State Fault Refusal :=
  intMeaning h f s true false (fun a b _ => a * b / (2 ^ tyWidth f.ty.toNat : Nat))
def execImad (h : Hdr) (f : F0) (s : State) : Host.Outcome State Fault Refusal :=
  intMeaning h f s true true (fun a b c => a * b + c)
def execImin (h : Hdr) (f : F0) (s : State) : Host.Outcome State Fault Refusal :=
  intMeaning h f s true false (fun a b _ => if b < a then b else a)
def execImax (h : Hdr) (f : F0) (s : State) : Host.Outcome State Fault Refusal :=
  intMeaning h f s true false (fun a b _ => if a < b then b else a)
def execIabs (h : Hdr) (f : F0) (s : State) : Host.Outcome State Fault Refusal :=
  intMeaning h f s false false (fun a _ _ => (a.natAbs : Int))

/-! ## Bit operations (R199, R200) -/

/-- An operation on bit patterns of w bits; b is single when bSingle, and the result single when dSingle. -/
def bitMeaning (h : Hdr) (f : F0) (s : State) (useB bSingle useC dSingle : Bool) (op : Nat → Nat → Nat → Nat → Nat) :
    Host.Outcome State Fault Refusal :=
  let wide := wide0 f
  let w := tyWidth f.ty.toNat
  laneResult s h 2 (wide && !dSingle) f.d (fun l =>
    let a := srcVal s f.ua wide f.a l
    let b := if useB then srcVal s f.ub (wide && !bSingle) f.b l else 0
    let c := if useC then srcVal s false wide f.c l else 0
    (op w a b c % 2 ^ w, 0))

/-- The complement of a w-bit pattern. -/
def notN (w x : Nat) : Nat := 2 ^ w - 1 - x % 2 ^ w

/-- Shifts by n read as unsigned 32 bits (R199). -/
def shlN (w a n : Nat) : Nat := if w ≤ n then 0 else (a <<< n) % 2 ^ w
def shrN (w a n : Nat) : Nat := if w ≤ n then 0 else a >>> n
def sraN (w a n : Nat) : Nat := wrapN (sextN a w / (2 ^ min n w : Nat)) w

/-- Leading zero bits of a w-bit pattern. -/
def clzN (w a : Nat) : Nat := if a % 2 ^ w = 0 then w else w - 1 - log2N (a % 2 ^ w)

/-- Position and cut length of a bit field (R200). -/
def fieldAt (w b : Nat) : Nat × Nat :=
  let pos := b % 256
  let len := b / 256 % 256
  (pos, if pos < w then min len (w - pos) else 0)

def bfxN (sx : Bool) (w a b : Nat) : Nat :=
  let (pos, l) := fieldAt w b
  if l = 0 then 0 else if sx then wrapN (sextN (a >>> pos) l) w else (a >>> pos) % 2 ^ l

def bfiN (w a b c : Nat) : Nat :=
  let (pos, l) := fieldAt w b
  if l = 0 then c
  else c % 2 ^ pos + 2 ^ pos * (a % 2 ^ l) + 2 ^ (pos + l) * (c >>> (pos + l))

def execAnd (h : Hdr) (f : F0) (s : State) : Host.Outcome State Fault Refusal :=
  bitMeaning h f s true false false false (fun w a b _ => a &&& (if f.sub = 1 then notN w b else b))
def execOr (h : Hdr) (f : F0) (s : State) : Host.Outcome State Fault Refusal :=
  bitMeaning h f s true false false false (fun w a b _ => a ||| (if f.sub = 1 then notN w b else b))
def execXor (h : Hdr) (f : F0) (s : State) : Host.Outcome State Fault Refusal :=
  bitMeaning h f s true false false false (fun w a b _ => a ^^^ (if f.sub = 1 then notN w b else b))
def execShl (h : Hdr) (f : F0) (s : State) : Host.Outcome State Fault Refusal :=
  bitMeaning h f s true true false false (fun w a b _ => shlN w a b)
def execShr (h : Hdr) (f : F0) (s : State) : Host.Outcome State Fault Refusal :=
  bitMeaning h f s true true false false (fun w a b _ => shrN w a b)
def execSra (h : Hdr) (f : F0) (s : State) : Host.Outcome State Fault Refusal :=
  bitMeaning h f s true true false false (fun w a b _ => sraN w a b)
def execPopc (h : Hdr) (f : F0) (s : State) : Host.Outcome State Fault Refusal :=
  bitMeaning h f s false false false true (fun w a _ _ => popN w a)
def execClz (h : Hdr) (f : F0) (s : State) : Host.Outcome State Fault Refusal :=
  bitMeaning h f s false false false true (fun w a _ _ => clzN w a)
def execBfx (h : Hdr) (f : F0) (s : State) : Host.Outcome State Fault Refusal :=
  bitMeaning h f s true true false false (fun w a b _ => bfxN (f.sub = 1) w a b)
def execBfi (h : Hdr) (f : F0) (s : State) : Host.Outcome State Fault Refusal :=
  bitMeaning h f s true true true false (fun w a b c => bfiN w a b c)

/-! ## Select, move, immediate (R201) -/

def execSel (h : Hdr) (f : F0) (s : State) : Host.Outcome State Fault Refusal :=
  laneResult s h 2 (wide0 f) f.d (fun l =>
    (if predVal s f.c.toNat l then srcVal s f.ua (wide0 f) f.a l else srcVal s f.ub (wide0 f) f.b l, 0))
def execMov (h : Hdr) (f : F0) (s : State) : Host.Outcome State Fault Refusal :=
  laneResult s h 2 (wide0 f) f.d (fun l => (srcVal s f.ua (wide0 f) f.a l, 0))
def execLdi (h : Hdr) (f : F1) (s : State) : Host.Outcome State Fault Refusal :=
  laneResult s h 2 false f.d (fun _ => (f.imm.toNat, 0))

/-! ## Floating point (R202 to R206) -/

/-- A floating operation element by element on bit patterns. -/
def fltLane (s : State) (f : F0) (useB useC : Bool) (op : FFmt → Nat → Nat → Nat → Rounded) (lane : Nat) : Nat × Flags :=
  let ty := f.ty.toNat
  let w := tyWidth ty
  let wide := wide0 f
  let as := elemsOf ty (srcVal s f.ua wide f.a lane)
  let bs := elemsOf ty (if useB then srcVal s f.ub wide f.b lane else 0)
  let cs := elemsOf ty (if useC then srcVal s false wide f.c lane else 0)
  let rs := (List.range (tyCount ty)).map (fun i => op (tyFmt ty) (as.getD i 0) (bs.getD i 0) (cs.getD i 0))
  (joinN w (rs.map (·.1)), orFlags (rs.map (·.2)))

def fltMeaning (h : Hdr) (f : F0) (s : State) (lat : Nat) (useB useC : Bool) (op : FFmt → Nat → Nat → Nat → Rounded) :
    Host.Outcome State Fault Refusal :=
  laneResult s h lat (wide0 f) f.d (fltLane s f useB useC op)

/-- The mode of the performing instruction's RND field. -/
def rndOf (s : State) (f : F0) : Nat := modeOf s.selChain f.rnd

/-- An operand with an exact change of sign (R202). -/
def signed (neg : Bool) (v : FVal) : FVal := if neg then v.negate else v

def execFadd (h : Hdr) (f : F0) (s : State) : Host.Outcome State Fault Refusal :=
  fltMeaning h f s (l4 f) true false (fun fm a b _ =>
    fadd fm (rndOf s f) (signed (bit f.sub.toNat 0) (fdecode fm a)) (fdecode fm b))
def execFsub (h : Hdr) (f : F0) (s : State) : Host.Outcome State Fault Refusal :=
  fltMeaning h f s (l4 f) true false (fun fm a b _ =>
    fadd fm (rndOf s f) (signed (bit f.sub.toNat 0) (fdecode fm a)) (fdecode fm b).negate)
def execFmul (h : Hdr) (f : F0) (s : State) : Host.Outcome State Fault Refusal :=
  fltMeaning h f s (l4 f) true false (fun fm a b _ =>
    fmul fm (rndOf s f) (signed (bit f.sub.toNat 0) (fdecode fm a)) (fdecode fm b))
def execFfma (h : Hdr) (f : F0) (s : State) : Host.Outcome State Fault Refusal :=
  fltMeaning h f s (l4 f) true true (fun fm a b c =>
    ffma fm (rndOf s f) (signed (bit f.sub.toNat 0) (fdecode fm a)) (fdecode fm b)
      (signed (bit f.sub.toNat 1) (fdecode fm c)))
def execFmin (h : Hdr) (f : F0) (s : State) : Host.Outcome State Fault Refusal :=
  fltMeaning h f s (l4 f) true false (fun fm a b _ => fminmax fm false (f.sub = 1) a b)
def execFmax (h : Hdr) (f : F0) (s : State) : Host.Outcome State Fault Refusal :=
  fltMeaning h f s (l4 f) true false (fun fm a b _ => fminmax fm true (f.sub = 1) a b)
def execFrcp (h : Hdr) (f : F0) (s : State) : Host.Outcome State Fault Refusal :=
  fltMeaning h f s 10 false false (fun fm a _ _ => frcp fm (rndOf s f) (fdecode fm a))
def execFrsq (h : Hdr) (f : F0) (s : State) : Host.Outcome State Fault Refusal :=
  fltMeaning h f s 10 false false (fun fm a _ _ => frsq fm (rndOf s f) (fdecode fm a))
def execFsqrt (h : Hdr) (f : F0) (s : State) : Host.Outcome State Fault Refusal :=
  fltMeaning h f s 10 false false (fun fm a _ _ => fsqrt fm (rndOf s f) (fdecode fm a))
def execFdiv (h : Hdr) (f : F0) (s : State) : Host.Outcome State Fault Refusal :=
  fltMeaning h f s 10 true false (fun fm a b _ => fdiv fm (rndOf s f) (fdecode fm a) (fdecode fm b))
def execFexp2 (h : Hdr) (f : F0) (s : State) : Host.Outcome State Fault Refusal :=
  fltMeaning h f s 10 false false (fun fm a _ _ => fexp2 fm (rndOf s f) (fdecode fm a))
def execFlog2 (h : Hdr) (f : F0) (s : State) : Host.Outcome State Fault Refusal :=
  fltMeaning h f s 10 false false (fun fm a _ _ => flog2 fm (rndOf s f) (fdecode fm a))

/-- A combination with p(C): SUB[4:3] (R169, R204). -/
def combine (comb : Nat) (c p : Bool) : Bool :=
  match comb with
  | 0 => c
  | 1 => c && p
  | 2 => c || p
  | _ => c != p

/-- FCMP's relation and whether it raises NV (R204). -/
def fcmpRel (rel : Nat) (a b : FVal) : Bool × Flags :=
  let un := a.isNan || b.isNan
  let sn := a.isSnan || b.isSnan
  let o := fcompare a b
  let r := match rel with
    | 0 => !un && o = .eq
    | 1 => un || o ≠ .eq
    | 2 => !un && o = .lt
    | 3 => !un && o ≠ .gt
    | 4 => !un && o = .gt
    | 5 => !un && o ≠ .lt
    | 6 => un
    | _ => !un
  let nv := if 2 ≤ rel ∧ rel ≤ 5 then un else sn
  (r, if nv then Flag.nv else 0)

def execFcmp (h : Hdr) (f : F0) (s : State) : Host.Outcome State Fault Refusal :=
  let fm := tyFmt f.ty.toNat
  let sb := f.sub.toNat
  predResult s h (l4 f) f.d (fun l =>
    let (r, fl) := fcmpRel (sb % 8) (fdecode fm (srcVal s f.ua (wide0 f) f.a l)) (fdecode fm (srcVal s f.ub (wide0 f) f.b l))
    (combine (bits sb 4 3) r (predVal s f.c.toNat l), fl))

def execFclass (h : Hdr) (f : F0) (s : State) : Host.Outcome State Fault Refusal :=
  let ty := f.ty.toNat
  laneResult s h (l4 f) false f.d (fun l =>
    let es := elemsOf ty (srcVal s f.ua (wide0 f) f.a l)
    (fclass (tyFmt ty) (es.getD 0 0) + (if tyCount ty = 2 then 2 ^ 16 * fclass (tyFmt ty) (es.getD 1 0) else 0), 0))

/-! ## Conversions (R108, R207 to R209) -/

/-- A register value of a type code as an exact value. -/
def tyValue (ty x : Nat) : EVal :=
  if ty = 11 ∨ ty = 9 ∨ ty = 10 ∨ ty = 12 then .flt (fdecode (tyFmt ty) x)
  else if ty = 13 ∨ ty = 14 then
    let w := (tyFmt ty).width
    .cplx (fdecode (tyFmt ty) (x % 2 ^ w)) (fdecode (tyFmt ty) (x / 2 ^ w % 2 ^ w))
  else .int (intElem ty x)

/-- An exact value into a floating or complex type (R207). -/
def toFltTy (ty mode : Nat) (v : EVal) : Nat × Flags :=
  let fm := tyFmt ty
  if ty = 13 ∨ ty = 14 then
    match v with
    | .cplx re im => cplxTo fm mode re im
    | .flt x => cplxTo fm mode x (FVal.zero false)
    | _ => (0, 0)
  else match v with
    | .flt x => fencode fm mode x
    | .int x => fencode fm mode (.ofInt x)
    | _ => (0, 0)

/-- An exact value into an integer type (R208). -/
def toIntTy (ty mode : Nat) (wrap : Bool) (v : EVal) : Nat × Flags :=
  let w := tyWidth ty
  match v with
  | .int x => intTo wrap w (tySigned ty) x
  | .flt x => let (y, fl) := ftoInt mode w (tySigned ty) x; (wrapN y w, fl)
  | _ => (0, 0)

def execCvt (h : Hdr) (f : F0) (s : State) : Host.Outcome State Fault Refusal :=
  let d := f.ty.toNat
  let src := f.sub.toNat % 16
  laneResult s h (l4 f) (wide0 f) f.d (fun l =>
    let x := srcVal s f.ua (wideTy src) f.a l
    let rs := (elemsOf src x).map (fun e => toFltTy d (rndOf s f) (tyValue src e))
    (joinN (tyWidth d) (rs.map (·.1)), orFlags (rs.map (·.2))))

def execCvti (h : Hdr) (f : F0) (s : State) : Host.Outcome State Fault Refusal :=
  let d := f.ty.toNat
  let src := f.sub.toNat % 16
  laneResult s h (l4 f) (wide0 f) f.d (fun l =>
    let x := srcVal s f.ua (wideTy src) f.a l
    let rs := (elemsOf src x).map (fun e => toIntTy d (rndOf s f) (bit f.sub.toNat 4 || tyWidth src < tyWidth d) (tyValue src e))
    (joinN (tyWidth d) (rs.map (·.1)), orFlags (rs.map (·.2))))

def execPack (h : Hdr) (f : F0) (s : State) : Host.Outcome State Fault Refusal :=
  let d := f.ty.toNat
  let src := f.sub.toNat % 16
  laneResult s h (l4 f) false f.d (fun l =>
    let es := elemsOf src (srcVal s f.ua false f.a l) ++ elemsOf src (srcVal s f.ub false f.b l)
    let rs := es.map (fun e =>
      if d = 9 ∨ d = 10 then toFltTy d (rndOf s f) (tyValue src e) else toIntTy d 0 (bit f.sub.toNat 4) (tyValue src e))
    (joinN (tyWidth d) (rs.map (·.1)), orFlags (rs.map (·.2))))

def execUnpack (h : Hdr) (f : F0) (s : State) : Host.Outcome State Fault Refusal :=
  let d := f.ty.toNat
  let src := f.sub.toNat % 16
  laneResult s h (l4 f) false f.d (fun l =>
    let es := elemsOf src (srcVal s f.ua false f.a l)
    let n := tyCount src / 2
    let part := if bit f.sub.toNat 4 then es.drop n else es.take n
    let rs := part.map (fun e => if d = 11 then toFltTy d 0 (tyValue src e) else toIntTy d 0 true (tyValue src e))
    (joinN (tyWidth d) (rs.map (·.1)), orFlags (rs.map (·.2))))

/-! ## Cross-lane instructions (R194, R210 to R212) -/

/-- Source lanes of SHFL and SHFLX. -/
def shflLane (mode i n : Nat) : Nat :=
  let g0 := i / 16 * 16
  let j := i % 16
  match mode with
  | 0 => g0 + n % 16
  | 1 => if n ≤ j then i - n else i
  | 2 => if j + n ≤ 15 then i + n else i
  | _ => g0 + (j ^^^ (n % 16))

def shflxLane (mode i n : Nat) : Nat :=
  match mode with
  | 0 => n % 32
  | 1 => if n ≤ i then i - n else i
  | 2 => if i + n ≤ 31 then i + n else i
  | _ => i ^^^ (n % 32)

/-- Every lane's source register at the first issue cycle (R194). -/
def crossVal (s : State) (f : F0) (lane : Nat) : Nat := gVal s.selChain (wide0 f) f.a.toNat lane s.sel.t0

def execShfl (h : Hdr) (f : F0) (s : State) : Host.Outcome State Fault Refusal :=
  laneResult s h 2 (wide0 f) f.d (fun l =>
    (crossVal s f (shflLane f.sub.toNat l (srcVal s f.ub false f.b l)), 0))
def execShflx (h : Hdr) (f : F0) (s : State) : Host.Outcome State Fault Refusal :=
  laneResult s h 4 (wide0 f) f.d (fun l =>
    (crossVal s f (shflxLane f.sub.toNat l (srcVal s f.ub false f.b l)), 0))

/-- `tree_reduce` of R109 over lanes lo to lo + 2^n - 1: a value with its flags, or absent. -/
def treeReduce (op : Nat → Nat → Nat × Flags) (x : Nat → Nat) (m : Mask) : Nat → Nat → Option (Nat × Flags)
  | 0, lo => if m.getLsbD lo then some (x lo, 0) else none
  | n + 1, lo =>
    match treeReduce op x m n lo, treeReduce op x m n (lo + 2 ^ n) with
    | none, r => r
    | l, none => l
    | some l, some r => let v := op l.1 r.1
                        some (v.1, l.2 ||| r.2 ||| v.2)

/-- A combining step of R211. -/
def redStep (ty op mode a b : Nat) : Nat × Flags :=
  let w := tyWidth ty
  let flt : Bool := ty = 11 || ty = 12
  let fm := tyFmt ty
  match op with
  | 0 => if flt then fadd fm mode (fdecode fm a) (fdecode fm b) else ((a + b) % 2 ^ w, 0)
  | 1 => if flt then fminmax fm false false a b else (if intElem ty b < intElem ty a then b else a, 0)
  | 2 => if flt then fminmax fm true false a b else (if intElem ty a < intElem ty b then b else a, 0)
  | 3 => (a &&& b, 0)
  | 4 => (a ||| b, 0)
  | _ => (a ^^^ b, 0)

/-- The identity of an operation (R211). -/
def redIdentity (ty op : Nat) : Nat :=
  let w := tyWidth ty
  let flt : Bool := ty = 11 || ty = 12
  let fm := tyFmt ty
  match op with
  | 1 => if flt then fm.infBits else wrapN (hiOf w (tySigned ty)) w
  | 2 => if flt then fm.signBit + fm.infBits else wrapN (loOf w (tySigned ty)) w
  | 3 => 2 ^ w - 1
  | _ => 0

/-- The lanes below i. -/
def lanesBelow (i : Nat) : Mask := maskWhere (fun l => l < i)

def execLred (h : Hdr) (f : F0) (s : State) : Host.Outcome State Fault Refusal :=
  let ty := f.ty.toNat
  let op := f.sub.toNat % 8
  let r := (treeReduce (redStep ty op (rndOf s f)) (crossVal s f) s.sel.act 5 0).getD (redIdentity ty op, 0)
  if bit f.sub.toNat 5 then
    .next (advanceLanes (deliver s (sWrites s (wide0 f) f.d.toNat r.1 (lastGroup s) 8 ++
      flagWrite s r.2 (lastGroup s + 8) 8)) h)
  else laneResult s h 8 (wide0 f) f.d (fun _ => r)

def execLscan (h : Hdr) (f : F0) (s : State) : Host.Outcome State Fault Refusal :=
  let ty := f.ty.toNat
  let op := f.sub.toNat % 8
  laneResult s h 8 (wide0 f) f.d (fun l =>
    let m := s.sel.act &&& lanesBelow (if bit f.sub.toNat 3 then l else l + 1)
    (treeReduce (redStep ty op (rndOf s f)) (crossVal s f) m 5 0).getD (redIdentity ty op, 0))

/-- The lane that BCAST reads. -/
def bcastLane (s : State) (f : F0) : Nat := if bit f.sub.toNat 0 then lowestLane s.sel.act else s.selChain.readS f.b.toNat s.sel.t0 % 32

def execBcast (h : Hdr) (f : F0) (s : State) : Host.Outcome State Fault Refusal :=
  let v := crossVal s f (bcastLane s f)
  if bit f.sub.toNat 1 then
    .next (advanceLanes (deliver s (sWrites s (wide0 f) f.d.toNat v (lastGroup s) 4)) h)
  else laneResult s h 4 (wide0 f) f.d (fun _ => (v, 0))

/-! ## Complex multiply (R213) -/

def execCmul (h : Hdr) (f : F0) (s : State) : Host.Outcome State Fault Refusal :=
  let fm := tyFmt f.ty.toNat
  let w := fm.width
  let part (x i : Nat) : FVal := fdecode fm (x / 2 ^ (w * i) % 2 ^ w)
  laneResult s h (l4 f) (wide0 f) f.d (fun l =>
    let a := srcVal s f.ua (wide0 f) f.a l
    let b := srcVal s f.ub (wide0 f) f.b l
    let r := cplxMul fm (rndOf s f) (part a 0) (part a 1) (part b 0) (signed (bit f.sub.toNat 0) (part b 1))
    (r.1.1 + 2 ^ w * r.1.2, r.2))

end Sys2Proof.Machine
end

