-- ==== Sys2Proof/Machine/Issue.lean ====
section
/-!
DEFINITION. The issue slot of a core (R30, R31, R33, R35, R36): choosing a chain and an entry, fetch (R155, R158), decode
(R73, R79), the role and register checks (R40, R45), the interlock (R68), the checking scoreboard (R70), redundant pairs
(R188 to R191), and running the instruction.
-/
namespace Sys2Proof.Machine

/-- What preparing an issue answers: the chain must wait; the issue ended in a trap or had no active lane; or the
instruction that now performs. -/
inductive Prep where
  | wait (s : State)
  | done (s : State)
  | go (i : Instr) (s : State)
deriving Inhabited

/-- The entry that issues, and the priority class whose rotated flags this issue clears (R31, R33). -/
def pickEntry (fr : List Entry) : Option (Entry × Option Nat) :=
  match fr with
  | [] => none
  | e :: _ =>
    if (fr.filter (fun x => x.prio = e.prio)).all (·.rot) then
      match fr.find? (fun x => x.prio < e.prio) with
      | some l => some (l, some e.prio)
      | none => some (e, none)
    else some (e, none)

/-! ## Fetch -/

/-- Fetches the word at a program counter (R155, R158): from the fetch buffer, else as a read-shared package-scope load
that fills it (log entry 13). -/
def fetch (s : State) (ch pc : Nat) : Res W64 :=
  let c := Tab.get {} s.chains ch
  let core := coreOf ch
  let va := c.kern.base + pc
  let key := keyFor s c.ctx va
  let word (d : BitVec 512) : W64 := BitVec.ofNat 64 (sectorBytes d (va % 64) 8)
  match Tab.find (s.coreAt core).fbuf key with
  | some cp => .ok s (word cp.data)
  | none =>
    match cohRead s { ctx := c.ctx, core, share := 1, scope := 3, fetch := true } key (s.coreAt core).lclk false with
    | .ok s1 r =>
      .ok (s1.modCore core (fun k => { k with fbuf := Tab.put k.fbuf key { st := .L, data := r.data, wts := r.wts, rts := r.t } }))
        (word r.data)
    | .fault s1 cause d => .fault s1 cause d
    | .wait => .wait

/-! ## Interlock and scoreboard -/

def regOfCell : CellId → Option Reg
  | .g r _ => some (.g r)
  | .s r => some (.s r)
  | .k r => some (.k r)
  | .p r _ => some (.p r)
  | .fpst => none

/-- A load that missed the L1 has yet to write a register (R37). -/
def missed (c : Chain) (r : Reg) : Bool := c.outs.any (fun o => o.load && o.cells.any (fun x => regOfCell x = some r))

/-- Whether a register has an outstanding write of class V at cycle t (R68). -/
def outstanding (c : Chain) (t : Nat) (r : Reg) : Bool :=
  c.outs.any (fun o => o.cells.any (fun x => regOfCell x = some r)) ||
    c.pend.any (fun w => decide (w.lat = 0) && decide (t < w.land) && regOfCell w.cell = some r)

/-- File code of R70. -/
def fileCode : Reg → Nat
  | .g _ => 0
  | .s _ => 1
  | .p _ => 2
  | .k _ => 3

def regNum : Reg → Nat
  | .g r => r
  | .s r => r
  | .p r => r
  | .k r => r

/-- TVAL of R70. -/
def stallTval (lane at_ : Nat) (w : PendW) (r : Reg) : Nat :=
  lane * 2 ^ 18 + min 15 (at_ - w.start) * 2 ^ 14 + w.lat * 2 ^ 10 + fileCode r * 2 ^ 8 + regNum r

/-- A fixed-class write to a cell that has not landed at cycle t. -/
def lateWrite (c : Chain) (cell : CellId) (t : Nat) : Option PendW :=
  c.pend.find? (fun w => decide (w.cell = cell) && decide (w.lat ≠ 0) && decide (t < w.land))

/-- The lane cell of a register. -/
def cellOf (r : Reg) (lane : Nat) : CellId :=
  match r with
  | .g x => .g x lane
  | .s x => .s x
  | .k x => .k x
  | .p x => .p x lane

def isLaneReg : Reg → Bool
  | .g _ => true
  | .p _ => true
  | _ => false

/-- The cycle in which an instruction reads and writes a lane's registers: that of the lane's group, or the one cycle of an
instruction that does not act per lane (R30, R67). -/
def regCycle (s : State) (iop lane : Nat) : Nat := if perLane iop then laneCycle s lane else s.sel.t0

/-- The cycle from which a chain-uniform result counts its latency: the last issue cycle (R67, R194; log entry 88). -/
def uniCycle (s : State) (iop : Nat) : Nat := if perLane iop then s.sel.t0 + groupsOf s.sel.pack - 1 else s.sel.t0

/-- The first stall-count failure of a lane, as its TVAL (R70). What is written to p7 is discarded (R46). -/
def laneStall (s : State) (c : Chain) (u : Uses) (iop lane : Nat) : Option Nat :=
  let at_ := regCycle s iop lane
  let rd (r : Reg) : Option Nat :=
    let t := if isLaneReg r then at_ else s.sel.t0
    if r = .p 7 then none else (lateWrite c (cellOf r lane) t).map (fun w => stallTval lane t w r)
  let wr (r : Reg) : Option Nat :=
    if u.lat = 0 ∨ r = .p 7 then none
    else
      let t := if isLaneReg r then at_ else uniCycle s iop
      (c.pend.find? (fun w => decide (w.cell = cellOf r lane) && decide (w.lat ≠ 0) && decide (t + u.lat ≤ w.land))).map
        (fun w => stallTval lane t w r)
  match u.reads.findSome? rd with
  | some x => some x
  | none => u.writes.findSome? wr

/-- The lanes whose source register a cross-lane instruction reads (R194), with its first register and their number. -/
def crossSrc (s : State) (i : Instr) : Option (List Nat × Nat × Nat) :=
  let act := lanesOf s.sel.act
  let one (f : F0) (ls : List Nat) := some (ls, f.a.toNat, span (wide0 f))
  match i with
  | .shfl _ f => one f (act.map (fun l => shflLane f.sub.toNat l (srcVal s f.ub false f.b l)))
  | .shflx _ f => one f (act.map (fun l => shflxLane f.sub.toNat l (srcVal s f.ub false f.b l)))
  | .lred _ f => one f (List.range 32)
  | .lscan _ f => one f (List.range 32)
  | .bcast _ f => one f [bcastLane s f]
  | _ => none

/-- A source lane of a cross-lane instruction read early (R194): its TVAL, for every active lane. -/
def crossStall (s : State) (c : Chain) (i : Instr) : Option Nat :=
  match crossSrc s i with
  | none => none
  | some (ls, a, n) =>
    (List.range 32).findSome? (fun l => if !(ls.contains l) then none else
      (gRun a n).findSome? (fun r => (lateWrite c (cellOf r l) s.sel.t0).map (fun w => stallTval l s.sel.t0 w r)))

/-- The registers that each lane reads at its own group's cycle: of a cross-lane instruction, all but its source register. -/
def ownReads (s : State) (i : Instr) (u : Uses) : Uses :=
  match crossSrc s i with
  | none => u
  | some (_, a, n) => { u with reads := u.reads.drop ((gRun a n).length) }

/-- The lanes that the checking scoreboard fails and their TVAL: an s or k dependence fails every active lane (R70). -/
def stallFaults (s : State) (c : Chain) (i : Instr) (u0 : Uses) (iop : Nat) : List LaneFault :=
  let u := ownReads s i u0
  let act := lanesOf s.sel.act
  let uni := u.reads.any (fun r => !(isLaneReg r) && (lateWrite c (cellOf r 0) s.sel.t0).isSome) ||
    (u.lat ≠ 0 && u.writes.any (fun r => !(isLaneReg r) &&
      c.pend.any (fun w => decide (w.cell = cellOf r 0) && decide (w.lat ≠ 0) && decide (uniCycle s iop + u.lat ≤ w.land))))
  let us : Uses := { u with reads := u.reads.filter (fun r => !(isLaneReg r)), writes := u.writes.filter (fun r => !(isLaneReg r)) }
  if uni then act.map (fun l => { lane := l, cause := 3, tval := (laneStall s c us iop (lowestLane s.sel.act)).getD 0 })
  else match crossStall s c i with
    | some tv => act.map (fun l => { lane := l, cause := 3, tval := tv })
    | none => act.filterMap (fun l => (laneStall s c u iop l).map (fun tv => { lane := l, cause := 3, tval := tv }))

/-- The registers of an instruction as it stands: a CPYW reads its value from s(c + 1) or from the pair s(c + 2), s(c + 3), as its
destination's format has it (R265). -/
def usesIn (c : Chain) (t : Nat) (i : Instr) : Uses :=
  match i with
  | .cpyw _ f =>
    if (rform (Ptr.ofBits (c.readK f.pb.toNat t)).fmt false).isSome then usesOf i else { usesOf i with reads := kRun f.pb.toNat 1 ++ [.s f.sop.toNat, .s (f.sop.toNat + 2), .s (f.sop.toNat + 3)] }
  | _ => usesOf i

/-- Lanes whose guard is read before a fixed-class write to it has landed (R67). -/
def guardFaults (s : State) (c : Chain) (g : Nat) : List LaneFault :=
  if g = 7 then []
  else (lanesOf s.sel.entry).filterMap (fun l =>
    (lateWrite c (.p g l) s.sel.t0).map (fun w => { lane := l, cause := 3, tval := stallTval l s.sel.t0 w (.p g) }))

/-- The first extended register a chain does not hold among an instruction's registers (R45). Which of several TVAL reports is the
model's choice: destinations come before sources (DESIGN CHOICE, log entry 87). -/
def missingReg (c : Chain) (u : Uses) : Option Nat :=
  (u.writes ++ u.reads).findSome? (fun r => match r with
    | .g x => if 32 ≤ x ∧ c.blocks ≤ (x - 32) / 16 then some x else none
    | _ => none)

/-! ## Preparing an issue -/

def hdr0 : Hdr := { gneg := false, guard := 7, stall := 1 }

/-- The active lanes of an entry under a guard (R54). -/
def guardLanes (c : Chain) (t : Nat) (h : Hdr) (m : Mask) : Mask :=
  maskWhere (fun l => m.getLsbD l && (c.readP h.guard.toNat l t != h.gneg))

/-- Stops the issue with a trap of every active lane (R79). -/
def stopAll (s : State) (h : Hdr) (cause tval : Nat) : Prep := .done (trapIssue s h cause tval)

/-- A wait before the instruction is tried; swap says that it swaps the chain out (R37). -/
def holdOff (s : State) (swap : Bool) : Prep :=
  .wait (if swap then waitLong s
         else { (s.modChain s.sel.chain (fun c => { c with waiting := false })) with sel := { s.sel with waited := true } })

/-- The wide unit's wait and its busy time (R193). -/
def takeWide (s : State) (n : Nat) : State := s.modCore s.selCore (fun k => { k with wideFree := s.sel.t0 + 4 * n })

/-- The checks of an instruction whose word has decoded: role, registers, interlock, wide unit (R40, R45, R68, R193). An
instruction that the unit accepts keeps it busy even when the checking scoreboard then fails all its lanes (DESIGN CHOICE, log
entry 93). -/
def prepareInstr (s : State) (c : Chain) (h : Hdr) (i : Instr) (iop : Nat) : Prep :=
  let u := usesIn c s.sel.t0 i
  match missingReg c u with
  | some r => stopAll s h 1 r
  | none =>
    if (.p h.guard.toNat :: (u.reads ++ u.writes)).any (outstanding c s.sel.t0) then
      holdOff s ((.p h.guard.toNat :: (u.reads ++ u.writes)).any (missed c))
    else
      let ty := bits s.sel.word.toNat 51 48
      if wideUnit iop ty && decide (s.sel.t0 < (s.coreAt s.selCore).wideFree) then holdOff s false
      else .go i (if wideUnit iop ty then takeWide s (groupsOf s.sel.pack) else s)

/-- The header that an instruction's end goes by: EXIT has no stall count (R66). -/
def stallHdr (i : Instr) (h : Hdr) : Hdr :=
  match i with
  | .exit _ _ => { h with stall := 1 }
  | _ => h

/-- The same for a word that no lane performs. -/
def idleHdr (d : Decoded) (h : Hdr) : Hdr :=
  match d with
  | .instr i => stallHdr i h
  | _ => h

/-- Decodes a fetched word and judges it in the order of R79. -/
def prepareWord (s0 : State) (c : Chain) (w : W64) : Prep :=
  let h := hdrOf w
  let t := s0.sel.t0
  let g := h.guard.toNat
  if outstanding c t (.p g) then holdOff { s0 with sel := { s0.sel with word := w } } (missed c (.p g))
  else
    let act := guardLanes c t h s0.sel.entry
    let s := { s0 with sel := { s0.sel with word := w, act, pack := act } }
    if act = 0 then
      let h1 := idleHdr (decodeWord (s.ctxAt c.ctx).dtab w) h
      (if c.chksb && !(guardFaults s c g).isEmpty then .done (advanceUniform (trapLanes s (guardFaults s c g)) h1)
       else .done (advanceUniform s h1))
    else
      let t := (s.ctxAt c.ctx).dtab
      let opc := (w.extractLsb' 0 10).toNat
      let iop := ((tableEntry t opc).extractLsb' 12 10).toNat
      match decodeWord t w with
      | .empty => stopAll s h 0x22 w.toNat
      | .reserved _ => stopAll s h 0x02 w.toNat
      | .illegal _ => if roleAllows c.kern.role iop then stopAll s h 0x01 w.toNat else stopAll s h 0x01 opc
      | .instr i => if roleAllows c.kern.role iop then prepareInstr s c h i iop else stopAll s h 0x01 opc

/-- Lands results, chooses the entry, fetches and decodes. -/
def prepare (s0 : State) (ch : Nat) : Prep :=
  let s := commit s0 ch
  match s.chain? ch with
  | none => .wait s
  | some c =>
    match pickEntry c.frontier with
    | none => .wait s
    | some (e, demote) =>
      let k := s.coreAt (coreOf ch)
      let s1 := { s with sel := { chain := ch, word := 0, pc := e.pc, prio := e.prio, entry := e.lanes, act := e.lanes,
                                  pack := e.lanes, t0 := k.cc, seq := k.seq, demote } }
      if 8 * c.kern.nwords ≤ e.pc then stopAll s1 hdr0 1 e.pc
      else match fetch s1 ch e.pc with
        | .ok s2 w => prepareWord s2 c w
        | .fault s2 cause d =>
          .done (advanceUniform (trapLanes s2 ((lanesOf e.lanes).map (fun l =>
            { lane := l, cause, tval := (c.kern.base + e.pc) % 2 ^ 57 })) d) hdr0)
        | .wait => holdOff s1 false

/-! ## Performing -/

/-- Runs the instruction on the lanes that the scoreboard passes; the others fault at the word (R70). -/
def perform (exec : Instr → State → Host.Outcome State Fault Refusal) (i : Instr) (s : State) :
    Host.Outcome State Fault Refusal :=
  let c := s.selChain
  let h := hdrOf s.sel.word
  let iop := ((tableEntry (s.ctxAt c.ctx).dtab (s.sel.word.extractLsb' 0 10).toNat).extractLsb' 12 10).toNat
  if !c.chksb then exec i s
  else
    let fs := guardFaults s c h.guard.toNat ++ stallFaults s c i (usesIn c s.sel.t0 i) iop
    if fs.isEmpty then exec i s
    else
      let bad := faultMask fs
      let s1 := { s with sel := { s.sel with act := s.sel.act &&& ~~~bad, entry := s.sel.entry &&& ~~~bad } }
      if s1.sel.act = 0 then
        .next (advance (trapLanes s1 fs) (stallHdr i h) (if perLane iop then groupsOf s.sel.pack else 1))
      else match exec i s1 with
        | .next s2 =>
          if s2.sel.waited then .next s2
          else
            let (rid, s3) := record s2 s.sel.chain s.sel.seq s.sel.pc false fs 0
            .next (s3.modChain s.sel.chain (fun c => c.park bad (.trap rid) s.sel.pc s.sel.prio))
        | x => x

/-! ## Redundant pairs -/

/-- Every live lane of a chain faults (R182): lanes in the frontier park where they stand, parked ones when released. -/
def faultChain (s : State) (ch cause tval pc : Nat) : State :=
  match s.chain? ch with
  | none => s
  | some c =>
    let fs := (lanesOf c.live).map (fun l => ({ lane := l, cause, tval } : LaneFault))
    if fs.isEmpty then s
    else
      let (rid, s1) := record s ch (s.coreAt (coreOf ch)).seq pc false fs 0
      s1.modChain ch (fun c =>
        let held := c.parked.foldl (fun m q => m ||| q.lanes) 0
        let c1 := c.frontier.foldl (fun c e => c.park e.lanes (.trap rid) e.pc e.prio) c
        { c1 with latch := if held = 0 then c1.latch else c1.latch ++ [(rid, held)], held := none, ahead := [] })

/-- BARW that arrives forces a monument; one that follows a BARA, and BARW.nb, only take the barrier's result (R175). -/
def waitsOnly (s : State) (i : Instr) : Bool :=
  match i with
  | .barw _ f => f.nb || (match handleObj s s.selChain.ctx f.hnd.toNat with
      | .barrier _ obj => (arrival s.selChain obj).2
      | _ => false)
  | _ => false

/-- Instructions that write no memory and force no monument, whose results the chain that issues first produces for both (R188, R410):
loads, LDPRS, SGET, HOPS, TOPO, QPEEK, PAIRQ and the BARWs that do not arrive. -/
def shared (s : State) (iop : Nat) (i : Instr) : Bool :=
  iop = 0x207 || iop = 0x209 || iop = 0x211 || iop = 0x020 || iop = 0x021 || iop = 0x025 || iop = 0x026 || iop = 0x327 || waitsOnly s i

/-- Instructions that both chains of a pair perform once: those that write memory or force a monument, and the waits and queries of
engines, whose commands are the pair's (R188, R189; log entry 14). -/
def rendezvous (iop : Nat) (i : Instr) : Bool :=
  (0x280 ≤ iop) || (0x207 ≤ iop && iop ≤ 0x20F) || iop = 0x202 || (0x01A ≤ iop && iop ≤ 0x01F) || iop = 0x024 || iop = 0x007 ||
    (match i with
     | .sset _ f => f.imm = 1
     | _ => false)

/-- The units of a lane's access. -/
def sigUnits (s : State) (i : Instr) (l : Nat) : List RawUnit :=
  let at_ (f : F2) : List RawUnit :=
    let (a, w, _) := unitAt (ptrReg s f) f.dw (elemIndex s f f.off.toNat 12 l) 0
    [{ a, size := w, sub := 0, cells := dataCells f l 0 }]
  match i with
  | .ld _ f => lsUnits s f (ptrReg s f) l
  | .st _ f => lsUnits s f (ptrReg s f) l
  | .ldx _ f => lxUnits s f (ptrReg s f) l
  | .stx _ f => lxUnits s f (ptrReg s f) l
  | .ldprs _ f => (lsUnits s f (ptrReg s f) l).take 1
  | .atom _ f => at_ f
  | .amred _ f => at_ f
  | .acas _ f => (at_ f).map (fun u => { u with cells := u.cells ++ dataCells f l 1 })
  | _ => []

/-- The registers that an instruction without an address supplies for a lane. -/
def sigRegs (s : State) (i : Instr) (l : Nat) : List Byte :=
  (usesOf i).reads.flatMap (fun r => match r with
    | .g x => toBytes 4 (s.selChain.readG x l s.sel.t0)
    | .s x => toBytes 4 (s.selChain.readS x s.sel.t0)
    | _ => [])

/-- What a lane supplies to the signature: the byte offset of each of its units and, where it writes, their data; for an instruction
without an address its source registers. -/
def sigLane (s : State) (i : Instr) (base : Nat) (reads : Bool) (l : Nat) : List Byte :=
  match sigUnits s i l with
  | [] => sigRegs s i l
  | us => us.flatMap (fun u => toBytes 8 (wrapN (u.a - base) 64) ++ (if reads then [] else toBytes 8 (cellsVal s u.cells)))

/-- The access signature of R189: the word, its 16-byte pointer or its handle, the active lanes, and what each lane supplies. -/
def signature (s : State) (iop : Nat) (i : Instr) : Nat :=
  let c := s.selChain
  let ptr := match (usesOf i).reads.find? (fun r => match r with | .k _ => true | _ => false) with
    | some (.k r) => c.readK r s.sel.t0
    | _ => BitVec.ofNat 128 (bits s.sel.word.toNat 25 18)
  (crc32 (toBytes 8 s.sel.word.toNat ++ toBytes 16 ptr.toNat ++ toBytes 4 s.sel.act.toNat ++
    (lanesOf s.sel.act).flatMap (sigLane s i (Ptr.ofBits ptr).base (iop = 0x207 || iop = 0x209 || iop = 0x211)))).toNat

/-- TVAL of R191. -/
def pairTval (timeout : Bool) (pc : Nat) : Nat := (if timeout then 2 ^ 63 else 0) + pc % 2 ^ 32

/-- What the shadow takes over from its primary when an instruction performed once for both (R188, R189). -/
def mirror (s : State) (sh : Nat) : State :=
  let p := s.selChain
  let m := s.sel.entry
  let ofSeq (w : PendW) : Bool := decide (w.seq = s.sel.seq)
  s.modChain sh (fun c =>
    let c0 := c.unparkLanes m
    let c1 : Chain := { c0 with frontier := p.frontier.foldl (fun fr e => enter fr { e with lanes := e.lanes &&& m }) (leave c0.frontier m) }
    let c2 : Chain := { c1 with
      parked := c1.parked ++ ((p.parked.map (fun q => { q with lanes := q.lanes &&& m })).filter (fun q => q.lanes ≠ 0)) }
    { c2 with
      live := c.live &&& (p.live ||| ~~~m),
      latch := c2.latch ++ ((p.latch.map (fun l => (l.1, l.2 &&& m))).filter (fun l => l.2 ≠ 0 && !(c2.latch.contains l))),
      pend := c.pend ++ p.pend.filter ofSeq,
      outs := c.outs ++ p.outs.filter (fun o => o.seq = s.sel.seq),
      blocks := p.blocks, bars := p.bars, accs := p.accs, elig := p.elig, lastIssue := p.lastIssue, waiting := false, held := none,
      spin := p.spin, ncmp := c.ncmp + 1, cause := p.cause, tpc := p.tpc, tval := p.tval, lanecause := p.lanecause })

/-- Performs a compared instruction as the primary's, then moves the shadow along. -/
def performPair (exec : Instr → State → Host.Outcome State Fault Refusal) (i : Instr) (s : State) (sh : Nat) :
    Host.Outcome State Fault Refusal :=
  match perform exec i s with
  | .next s1 =>
    if s1.sel.waited then .next s1
    else .next ((mirror s1 sh).modChain s1.sel.chain (fun c => { c with held := none, ncmp := c.ncmp + 1 }))
  | x => x

/-- Holds an instruction of a pair until its partner has issued it too. -/
def holdPair (s : State) (sig : Nat) : State :=
  (waitIssue s).modChain s.sel.chain (fun c =>
    { c with held := match c.held with
        | some (_, t) => some (sig, t)
        | none => some (sig, s.sel.t0) })

/-- Both chains of a pair fault with 0x1C, each with a trap record of its own (DESIGN CHOICE, log entry 92): pcs are those of the
issuing chain's instruction and of its partner's. -/
def mismatch (s : State) (partner pc pc2 : Nat) : State :=
  let v := pairTval false (if s.selChain.shadow then pc2 else pc)
  (faultChain (faultChain s s.sel.chain 0x1C v pc) partner 0x1C v pc2).modCore s.selCore (fun k => { k with cc := k.cc + 1, seq := k.seq + 1 })

/-- The program counter at which a chain stands. -/
def standsAt (s : State) (ch : Nat) : Nat := ((pickEntry (Tab.get {} s.chains ch).frontier).map (fun e => e.1.pc)).getD 0

/-- An instruction of a pair that is performed once, when both chains have issued it (R189). -/
def issuePair (exec : Instr → State → Host.Outcome State Fault Refusal) (iop : Nat) (i : Instr) (s : State) (partner : Nat) :
    Host.Outcome State Fault Refusal :=
  let ch := s.sel.chain
  let sig := signature s iop i
  let q := Tab.get {} s.chains partner
  if q.ahead.any (·.took.isNone) then .next (mismatch s partner s.sel.pc (standsAt s partner))
  else match q.held with
  | none => .next (holdPair s sig)
  | some _ =>
    if s.selChain.ahead.any (·.took.isNone) then .next (mismatch s partner s.sel.pc (standsAt s partner))
    else match prepare s partner with
    | .go j s2 =>
      if signature s2 iop j ≠ sig then .next (mismatch s partner s.sel.pc s2.sel.pc)
      else if s.selChain.shadow then performPair exec j s2 ch
      else performPair exec i s partner
    | _ => .next (holdPair s sig)

/-! ## Results that the first of a pair produces (R188) -/

/-- The park of a queue or barrier instruction. -/
def isWaitPark (w : ParkWhy) : Bool :=
  match w with
  | .queue _ => true
  | .barrier _ _ => true
  | _ => false

/-- What a chain has just issued is kept for its partner; lanes that wait for an absent line have issued nothing yet (R232). -/
def noteAhead (s0 s : State) (sig : Nat) : State :=
  let c := s.selChain
  let here := c.parked.filter (fun q => decide (q.pc = s0.sel.pc ∧ q.lanes &&& s0.sel.entry ≠ 0))
  if here.any (fun q => q.why = .line) then s
  else s.modChain s.sel.chain (fun c => { c with ncmp := c.ncmp + 1, ahead := c.ahead ++ [{
    seqs := [s0.sel.seq], sig, t0 := s0.sel.t0, n := (s.coreAt s.selCore).cc - s0.sel.t0,
    rot := ((entryAt c.frontier (s0.sel.pc + 8)).map (·.rot)).getD false,
    vals := c.pend.filter (fun w => w.seq = s0.sel.seq),
    why := (here.map (·.why)).find? isWaitPark }] })

/-- The trap records of what the partner issued, taken by a chain: lanes of an unresolved one park with it, those that had gone past the
instruction after it; lanes that TRET.kill ended end. -/
def takeRecs (s : State) (rs : List (Nat × Rec)) (after : Bool) : State :=
  rs.foldl (fun s x =>
    let m := (if after then x.2.lanes &&& x.2.past else x.2.lanes &&& ~~~x.2.past) &&& s.sel.entry
    let ch := s.sel.chain
    if m = 0 then s
    else match x.2.loc with
    | .resolved 2 => s.modChain ch (fun c => { (c.endLanes m) with killed := true })
    | .resolved _ => s
    | _ => if after then parkFor s ch x.1 m else s.modChain ch (fun c => c.park m (.trap x.1) s.sel.pc s.sel.prio)) s

/-- A chain takes the results that its partner produced for the instruction that it now issues. -/
def takeAhead (s : State) (partner : Nat) (a : Ahead) (h : Hdr) : State :=
  let p := Tab.get {} s.chains partner
  let t := s.sel.t0
  let ch := s.sel.chain
  let rs := s.recs.filter (fun e => decide (e.2.chain = partner) && a.seqs.contains e.2.seq)
  let ws := a.vals.map (fun w => { w with seq := s.sel.seq, start := w.start + (t - a.t0),
                                          land := if w.lat = 0 then max w.land t else w.land + (t - a.t0) })
  let parks := p.parked.filter (fun q => a.why = some q.why && decide (q.pc = s.sel.pc))
  let s1 := (takeRecs s rs false).modChain ch (fun c =>
    let c1 : Chain := { (c.addPend ws) with
      outs := c.outs ++ p.outs.filter (fun o => a.seqs.contains o.seq), bars := p.bars, ncmp := c.ncmp + 1,
      lanecause := (lanesOf (rs.foldl (fun m e => m ||| e.2.lanes) 0 &&& s.sel.entry)).foldl (fun l i => Cells.set 0 l i (Cells.get 0 p.lanecause i)) c.lanecause }
    let c2 := match rs.getLast? with
      | some e => setTrapRegs c1 e.2
      | none => c1
    parks.foldl (fun c q => c.park (q.lanes &&& s.sel.entry) q.why s.sel.pc s.sel.prio) c2)
  let s2 := s1.modChain partner (fun c =>
    { c with ahead := (c.ahead.takeWhile (·.took.isSome)) ++ { a with took := some s.sel.seq } :: (c.ahead.dropWhile (·.took.isSome)).drop 1 })
  takeRecs (advance (setRot s2 a.rot) h a.n) rs true

/-- An instruction whose results the first chain of a pair to issue it produces: the second compares its signature and takes them. -/
def issueShared (exec : Instr → State → Host.Outcome State Fault Refusal) (iop : Nat) (i : Instr) (s : State) (partner : Nat) :
    Host.Outcome State Fault Refusal :=
  let sig := signature s iop i
  match (Tab.get {} s.chains partner).ahead.find? (·.took.isNone) with
  | some a =>
    if a.sig ≠ sig then .next (mismatch s partner s.sel.pc (standsAt s partner))
    else perform (fun _ s => .next (takeAhead s partner a (hdrOf s.sel.word))) i s
  | none => match perform exec i s with
    | .next s1 => if s1.sel.waited then .next s1 else .next (noteAhead s s1 sig)
    | x => x

/-! ## The core's turn -/

/-- One chain tries to issue; sel.waited says that it had to wait. -/
def issueChain (exec : Instr → State → Host.Outcome State Fault Refusal) (s : State) (ch : Nat) :
    Host.Outcome State Fault Refusal :=
  match prepare s ch with
  | .wait s1 => .next { s1 with sel := { s1.sel with waited := true } }
  | .done s1 => .next s1
  | .go i s1 =>
    let c := s1.selChain
    let iop := ((tableEntry (s1.ctxAt c.ctx).dtab (s1.sel.word.extractLsb' 0 10).toNat).extractLsb' 12 10).toNat
    match c.pair with
    | some p =>
      -- a spin-parked partner has yet to have what its load returns
      if (Tab.get {} s1.chains p).spinPark.isSome then .next (waitLong s1)
      else if shared s1 iop i then issueShared exec iop i s1 p
      else if rendezvous iop i then issuePair exec iop i s1 p else perform exec i s1
    | none => perform exec i s1

/-- A chain whose GACQ waits is parked whole (R174). -/
def poolWait (c : Chain) : Bool := c.parked.any (fun q => match q.why with
  | .gacq _ _ => true
  | _ => false)

/-- A chain that could issue if its next instruction does not wait (R35). -/
def mayIssue (cc : Nat) (c : Chain) : Bool :=
  c.started && decide (c.elig ≤ cc) && !c.frontier.isEmpty && c.spinPark.isNone && c.hold.isNone && !(poolWait c)

/-- Chains of a core, by slot. -/
def chainsOf (s : State) (core : Nat) : List (Nat × Chain) := s.chains.filter (fun e => coreOf e.1 = core)

/-- Chains of a core whose context has been sent no stop. -/
def issuersOf (s : State) (core : Nat) : List (Nat × Chain) := (chainsOf s core).filter (fun e => !(s.ctxAt e.2.ctx).out)

/-- The order of R36: least recently issued first, ties to the lower slot. -/
def issueOrder (l : List (Nat × Chain)) : List Nat :=
  (l.foldr (fun x acc => ins x acc) []).map (·.1)
where
  ins (x : Nat × Chain) : List (Nat × Chain) → List (Nat × Chain)
    | [] => [x]
    | y :: r => if x.2.lastIssue < y.2.lastIssue ∨ (x.2.lastIssue = y.2.lastIssue ∧ x.1 < y.1) then x :: y :: r
                else y :: ins x r

/-- The cycle from which a chain has been eligible. -/
def since (c : Chain) : Nat := max c.elig c.eligSince

/-- The chain of a list that has been eligible longest, ties to the lower slot (R37, R38). -/
def longest (l : List (Nat × Chain)) : Option Nat :=
  (l.foldl (fun (a : Option (Nat × Chain)) x =>
    match a with
    | none => some x
    | some y => if since x.2 < since y.2 ∨ (since x.2 = since y.2 ∧ x.1 < y.1) then some x else some y)
    none).map (·.1)

/-- A pending chain that could issue: its next instruction waits on nothing either (R35). -/
def mayEnter (cc : Nat) (c : Chain) : Bool := mayIssue cc c && !c.blocked

/-- An active chain that meets a condition of R37. -/
def mustSwap (c : Chain) : Bool := c.waiting || c.frontier.isEmpty || c.spinPark.isSome || poolWait c

/-- The active chain of a list that has been active longest, ties to the lower slot (R38). -/
def oldest (l : List (Nat × Chain)) : Option Nat :=
  (l.foldl (fun (a : Option (Nat × Chain)) x =>
    match a with
    | none => some x
    | some y => if x.2.activeSince < y.2.activeSince ∨ (x.2.activeSince = y.2.activeSince ∧ x.1 < y.1) then some x else some y)
    none).map (·.1)

/-- Two chains exchange sets. -/
def exchange (s : State) (core out inn : Nat) : State :=
  let cc := (s.coreAt core).cc
  (s.modChain out (fun c => { c with active := false, eligSince := cc })).modChain inn (fun c =>
    { c with active := true, activeSince := cc })

/-- Chains that met a swap condition exchange sets with the longest-eligible pending chains (R37). -/
def swapOut : Nat → List Nat → State → Nat → State
  | 0, _, s, _ => s
  | n + 1, outs, s, core =>
    let cc := (s.coreAt core).cc
    let cs := issuersOf s core
    match oldest (cs.filter (fun e => e.2.active && outs.contains e.1)), longest (cs.filter (fun e => !e.2.active && !(outs.contains e.1) && mayEnter cc e.2)) with
    | some a, some b => swapOut n (outs.filter (· ≠ a)) (exchange s core a b) core
    | _, _ => s

/-- A pending chain that has stayed eligible for 256 cc replaces the oldest active one (R38). -/
def promote (s : State) (core : Nat) : State :=
  let cs := issuersOf s core
  let cc := (s.coreAt core).cc
  match oldest (cs.filter (·.2.active)), longest (cs.filter (fun e => !e.2.active && mayEnter cc e.2 && decide (since e.2 + 256 ≤ cc))) with
  | some a, some b => exchange s core a b
  | _, _ => s

/-- Fills empty active positions with eligible pending chains (R37). -/
def fillActive : Nat → State → Nat → State
  | 0, s, _ => s
  | n + 1, s, core =>
    let cc := (s.coreAt core).cc
    let cs := issuersOf s core
    if 8 ≤ (cs.filter (fun e => e.2.active)).length then s
    else match longest (cs.filter (fun e => !e.2.active && mayEnter cc e.2)) with
      | none => s
      | some i => fillActive n (s.modChain i (fun c => { c with active := true, activeSince := cc })) core

/-- Tries the candidates in order; with none issuing, the slot stays idle for a cycle. -/
def tryChains (exec : Instr → State → Host.Outcome State Fault Refusal) (core : Nat) :
    List Nat → State → Host.Outcome State Fault Refusal
  | [], s => .next (s.modCore core (fun k => { k with cc := k.cc + 1 }))
  | ch :: r, s =>
    match issueChain exec s ch with
    | .next s1 => if s1.sel.waited then tryChains exec core r s1 else .next s1
    | x => x

/-- Whether a chain's next instruction must wait, and whether that wait swaps the chain out (R35, R37): what trying it would find. -/
def lookAhead (exec : Instr → State → Host.Outcome State Fault Refusal) (s : State) (ch : Nat) : Bool × Bool :=
  match issueChain exec s ch with
  | .next s1 => (s1.sel.waited, s1.sel.waited && (Tab.get {} s1.chains ch).waiting)
  | _ => (false, false)

/-- Notes which chains of a core wait in this cycle; a chain is eligible anew when its wait ends. -/
def noteWaits (exec : Instr → State → Host.Outcome State Fault Refusal) (s : State) (core : Nat) : State :=
  let cc := (s.coreAt core).cc
  ((issuersOf s core).filter (fun e => mayIssue cc e.2)).foldl (fun s e =>
    let (b, w) := lookAhead exec s e.1
    s.modChain e.1 (fun c => { c with blocked := b, waiting := w, eligSince := if c.blocked && !b then cc else c.eligSince })) s

/-- The chain sets at the start of a cycle (R35 to R38): chains that met a swap condition in the cycle before leave, empty positions
are filled, and a chain that has waited long enough comes in. -/
def arrange (exec : Instr → State → Host.Outcome State Fault Refusal) (s : State) (core : Nat) : State :=
  let outs := ((issuersOf s core).filter (fun e => e.2.active && mustSwap e.2)).map (·.1)
  promote (fillActive 8 (swapOut 8 outs (noteWaits exec s core) core) core) core

/-- A monument whose log has fewer than 128 of its 512 slots free is taken anew at the boundary (R185). -/
def spillLogs (s : State) (core : Nat) : State :=
  ((s.coreAt core).mons.filter (fun e => decide (512 - 128 < e.2.slots))).foldl (fun s e => monument s core e.1) s

/-- Drops what both chains of a pair have issued before their context's monument and no result is outstanding of. -/
def Chain.tidy (m : Option Monument) (c : Chain) : Chain :=
  { c with ahead := c.ahead.filter (fun a => match a.took with
    | none => true
    | some n => (m.map (·.seq)).any (· ≤ n) || c.outs.any (fun o => a.seqs.contains o.seq)) }

def tidyAhead (s : State) (core : Nat) : State :=
  ((chainsOf s core).filter (fun e => !e.2.ahead.isEmpty)).foldl (fun s e => s.modChain e.1 (Chain.tidy (Tab.find (s.coreAt core).mons e.2.ctx))) s

/-- The issue that a turn ends with leaves no log too full. -/
def atBoundary (core : Nat) (r : Host.Outcome State Fault Refusal) : Host.Outcome State Fault Refusal :=
  match r with
  | .next s => .next (tidyAhead (spillLogs s core) core)
  | x => x

/-- A core's issue slot in one cycle (R36). A fenced core issues nothing (R471). -/
def coreTurn (exec : Instr → State → Host.Outcome State Fault Refusal) (s0 : State) (core : Nat) :
    Host.Outcome State Fault Refusal :=
  if (s0.coreAt core).fenced then .next s0
  else
    let s := arrange exec (releaseJoins s0 core) core
    let cc := (s.coreAt core).cc
    atBoundary core (tryChains exec core (issueOrder ((issuersOf s core).filter (fun e => e.2.active && mayIssue cc e.2))) s)

/-- An event's turn: instructions are not events. -/
def eventTurn (exec : Instr → State → Host.Outcome State Fault Refusal) (i : Instr) (s : State) :
    Host.Outcome State Fault Refusal :=
  match encode i with
  | some _ => .next s
  | none => exec i s

/-! ## Placing one instruction (log entry 5) -/

/-- A core that holds no chain. -/
def freeCore (s : State) : Nat :=
  if (chainsOf s 0).isEmpty then 0 else s.chains.foldl (fun a e => max a (coreOf e.1)) 0 + 1

/-- A chain of all 32 lanes at word 0 of code whose address is 0, with role mixed. -/
def bareChain : Chain :=
  { kern := { base := 0, nwords := 2, it := [0], role := 3, team := 1, parcel := 1, regs := 0, acc := 0, prio := 128, wbuf := 0,
              abuf := 0, cshr := 0, image := 0, ypath := 0 },
    frontier := [{ prio := 128, pc := 0, rot := false, lanes := allLanes }], live := allLanes, active := true, started := true }

/-- Places a chain on a free core with a word in its fetch buffer, and gives that core the next turn. -/
def loadWord (s : State) (w : Nat) : State :=
  let core := freeCore s
  let s1 := (s.setChain (16 * core) bareChain).modCore core (fun k =>
    { k with fenced := false, fbuf := Tab.put k.fbuf (keyFor s 0 0) { st := .L, data := BitVec.ofNat 512 (w % 2 ^ 64), wts := 0, rts := 0 } })
  { s1 with turns := .core core :: s1.turns }

end Sys2Proof.Machine
end

