-- ==== Sys2Proof/Machine/CopyEngine.lean ====
section
/-!
DEFINITION. The copy engine (R254 to R278): CPY, CPYX, CPYW, CPYG, CPWAIT, the landing and the fault of a unit, stage
rings and EASEQ.
-/
namespace Sys2Proof.Machine

/-! ## Operands -/

/-- Rounding code and .wrap as a command keeps them (R263). -/
def copyMode (s : State) (f : F4) : Nat := modeOf s.selChain (f.sub.extractLsb' 0 3) + (if bit f.sub.toNat 3 then 8 else 0)

/-- Accumulator memory is no copy operand (R262). -/
def noAccum (p : Ptr) : Option (Nat × Nat) := if p.space = 3 then some (0x48, p.base) else none

/-- A conversion that R264 does not provide. -/
def convCheck (s : State) (fs fd : Nat) : Option (Nat × Nat) :=
  if convertible fs fd then none else some (0x01, s.sel.word.toNat)

/-- The range of a command in its keep: first byte and length of what it writes. -/
def Cmd.lo (c : Cmd) : Nat := c.keep.getD 0 0
def Cmd.len (c : Cmd) : Nat := c.keep.getD 1 0
/-- The destination lines of a command (R256). -/
def Cmd.lines (c : Cmd) : Nat := (linesOf c.lo c.len).length

/-- Accepts a copy command, or with nothing to copy completes it at once (R264). -/
def acceptCopy (s : State) (h : Hdr) (o : Offer) : Host.Outcome State Fault Refusal :=
  if o.cmd.len = 0 then
    orTrap s h o (
      if o.held || !(ordered s.selChain o.scope) || decide (8 ≤ (engQueue s .copy o.cmd.core).length) then .next (offerWait s o)
      else .next (finish (s.modChain s.sel.chain (fun x =>
        let g := x.grp .copy o.cmd.grp
        x.setGrp .copy o.cmd.grp { g with ncmd := g.ncmd + 1 })) h))
  else accept s h o

def copyGrp (f : F4) : Nat := bits f.imm.toNat 2 0

/-- A destination may not lie in an open region (R246). -/
def regionCheck (s : State) (dsts : List Rng) (base : Nat) : Option (Nat × Nat) :=
  if inRegion (s.coreAt s.selCore) dsts then some (0x41, base) else none

/-! ## CPY, CPYW and CPYG at issue (R263 to R266) -/

def cpyOffer (h : Hdr) (f : F4) (s : State) : Offer :=
  let ctx := s.selChain.ctx
  let d := kPtr s f 0
  let p := kPtr s f 1
  let n := sOp s f 0
  let db := elemBytes d.fmt n
  let sb := elemBytes p.fmt n
  let dr := rngOf s ctx d d.base db
  let sr := rngOf s ctx p p.base sb
  { fault := firstFault [operandCheck s f.pb.toNat d (noAccum d) true d.base db (baseAligned d),
      operandCheck s (f.pb.toNat + 1) p (noAccum p) false p.base sb (baseAligned p), convCheck s p.fmt d.fmt,
      (if (Fmt.isBS p.fmt || Fmt.isBS d.fmt) && n % 16 ≠ 0 then some (0x49, if Fmt.isBS d.fmt then d.base else p.base) else none),
      (if rngsMeet dr sr then some (0x4C, d.base) else none), regionCheck s dr d.base],
    cmd := { (newCmd s .copy (.cpy h f) (copyGrp f) [kOp s f 0, kOp s f 1] [n]) with mode := copyMode s f, keep := [d.base, db] },
    scope := widest [d, p], srcs := sr, dsts := dr }

def execCpy (h : Hdr) (f : F4) (s : State) : Host.Outcome State Fault Refusal := acceptCopy s h (cpyOffer h f s)

/-- The value that CPYW writes: pattern and flags (R265). -/
def fillValue (fmt mode : Nat) (x : Nat) : Nat × Flags :=
  if fmt = 0 then (x % 2 ^ 32, 0)
  else if Fmt.isBS fmt then bsEncode (Fmt.bsM fmt) (List.replicate 16 (fdecode .f32 (x % 2 ^ 32))) (mode % 8)
  else
    let dw := (rform fmt false).isNone
    if samePattern fmt dw then (x % 2 ^ (8 * Fmt.size fmt dw), 0)
    else match rform fmt dw with
      | some rf => (eencode fmt (mode % 8) (decide (8 ≤ mode)) (regVal rf x)).getD (0, 0)
      | none => (0, 0)

def cpywOffer (h : Hdr) (f : F4) (s : State) : Offer :=
  let ctx := s.selChain.ctx
  let d := kPtr s f 0
  let n := sOp s f 0
  let c := f.sop.toNat
  let dw := (rform d.fmt false).isNone
  let db := elemBytes d.fmt n
  let dr := rngOf s ctx d d.base db
  let (v, fl) := fillValue d.fmt (copyMode s f) (if dw then sOp64 s f 2 else sOp s f 1)
  { fault := firstFault [operandCheck s f.pb.toNat d (noAccum d) true d.base db (baseAligned d),
      (if dw && c % 2 = 1 then some (0x02, s.sel.word.toNat) else none),
      (if dw && decide (63 < c + 3) then some (0x01, s.sel.word.toNat) else none),
      (if Fmt.isBS d.fmt && n % 16 ≠ 0 then some (0x49, d.base) else none), regionCheck s dr d.base],
    cmd := { (newCmd s .copy (.cpyw h f) (copyGrp f) [kOp s f 0] [n, v]) with flags := if n = 0 then 0 else fl, keep := [d.base, db] },
    scope := widest [d], srcs := [], dsts := dr, held := dw && [Reg.s (c + 2), Reg.s (c + 3)].any (outstanding s.selChain s.sel.t0) }

def execCpyw (h : Hdr) (f : F4) (s : State) : Host.Outcome State Fault Refusal := acceptCopy s h (cpywOffer h f s)

def cpygOffer (h : Hdr) (f : F4) (s : State) : Offer :=
  let ctx := s.selChain.ctx
  let d := kPtr s f 0
  let p := kPtr s f 1
  let q := kPtr s f 2
  let n := sOp s f 0
  let db := elemBytes d.fmt n
  let dr := rngOf s ctx d d.base db
  let sr := rngOf s ctx p p.base p.len ++ rngOf s ctx q q.base (4 * n)
  { fault := firstFault [operandCheck s f.pb.toNat d (noAccum d) true d.base db (baseAligned d),
      operandCheck s (f.pb.toNat + 1) p (noAccum p) false p.base (if n = 0 then 0 else p.len) (baseAligned p),
      operandCheck s (f.pb.toNat + 2) q (noAccum q) false q.base (4 * n) (q.base % 4 = 0),
      (if q.fmt = 4 ∨ q.fmt = 5 then none else some (0x01, s.sel.word.toNat)),
      (if Fmt.isBS d.fmt ∨ Fmt.isBS p.fmt then some (0x01, s.sel.word.toNat) else none), convCheck s p.fmt d.fmt,
      (if rngsMeet dr sr then some (0x4C, d.base) else none), regionCheck s dr d.base],
    cmd := { (newCmd s .copy (.cpyg h f) (copyGrp f) [kOp s f 0, kOp s f 1, kOp s f 2] [n]) with
      mode := copyMode s f, keep := [d.base, db] },
    scope := widest [d, p, q], srcs := sr, dsts := dr }

def execCpyg (h : Hdr) (f : F4) (s : State) : Host.Outcome State Fault Refusal := acceptCopy s h (cpygOffer h f s)

/-! ## CPYX (R267) -/

/-- A box: its extents. -/
def boxOf (w : Nat) : Nat × Nat × Nat := (bits w 10 0, bits w 20 11, bits w 31 21)

/-- The strided address of packed index j. -/
def stridedAt (l : Layout) (base w j : Nat) : Nat :=
  let (d1, d2, _) := boxOf w
  l.addr base (j % d1) (j / d1 % d2) (j / d1 / d2)

/-- The lowest and highest element addresses of a box before its bank permutation, from the last of each dimension. -/
def boxEnds (l : Layout) (base w : Nat) : Nat × Nat :=
  let (d1, d2, d3) := boxOf w
  let a := base + l.off
  (a / 64 * 64, (a + (d1 - 1) * l.s1 + (d2 - 1) * l.s2 + (d3 - 1) * l.s3) / 64 * 64 + 63)

/-- First and last byte that the elements of a box touch. -/
def boxSpan (l : Layout) (base w size : Nat) : Nat × Nat :=
  let (d1, d2, d3) := boxOf w
  let as := (List.range (d1 * d2 * d3)).map (stridedAt l base w)
  (as.foldl min (as.headD base), as.foldl max (as.headD base) + size)

/-- Alignment of a strided operand, from its offset and every stride (R267). -/
def boxAligned (l : Layout) (p : Ptr) : Bool :=
  let z := elemSize p.fmt
  [p.base + l.off, l.s1, l.s2, l.s3].all (fun x => x % z = 0)

def cpyxOffer (h : Hdr) (f : F4) (s : State) : Offer :=
  let ctx := s.selChain.ctx
  let d := kPtr s f 0
  let p := kPtr s f 1
  let scat := bit f.sub.toNat 4
  let x := if scat then d else p
  let q := if scat then p else d
  let l := Layout.ofWords (sOp s f 0) (sOp s f 1) (sOp s f 2)
  let w := sOp s f 3
  let (d1, d2, d3) := boxOf w
  let n := d1 * d2 * d3
  let (lo, hi) := if n = 0 then (x.base, x.base) else boxSpan l x.base w (elemSize x.fmt)
  let qb := elemBytes q.fmt n
  let xchk (kreg : Nat) (wr : Bool) := operandCheck s kreg x (noAccum x) wr lo (hi - lo) (n = 0 || boxAligned l x)
  let qchk (kreg : Nat) (wr : Bool) := operandCheck s kreg q (noAccum q) wr q.base qb (baseAligned q)
  let k0 := f.pb.toNat
  let ends := boxEnds l x.base w
  let xr := if n = 0 then [] else rngOf s ctx x ends.1 (ends.2 + 1 - ends.1)
  let qr := rngOf s ctx q q.base qb
  let dr := if scat then xr else qr
  let sr := if scat then qr else xr
  let keep := match dr.head? with
    | some r => [r.lo, r.hi + 1 - r.lo]
    | none => [d.base, 0]
  { fault := firstFault [(if scat then xchk k0 true else qchk k0 true), (if scat then qchk (k0 + 1) false else xchk (k0 + 1) false),
      (if l.res ≠ 0 then some (0x02, s.sel.word.toNat) else none),
      (if l.space ≠ x.space then some (0x0A, x.base) else none),
      (if Fmt.isBS d.fmt || Fmt.isBS p.fmt || (elemSize x.fmt = 8 && decide (1 ≤ l.mode ∧ l.mode ≤ 14)) then
        some (0x01, s.sel.word.toNat) else none), convCheck s p.fmt d.fmt,
      (if rngsMeet dr sr then some (0x4C, d.base) else none), regionCheck s dr d.base],
    cmd := { (newCmd s .copy (.cpyx h f) (copyGrp f) [kOp s f 0, kOp s f 1] [sOp s f 0, sOp s f 1, sOp s f 2, w]) with
      mode := copyMode s f, keep },
    scope := widest [d, p], srcs := sr, dsts := dr }

def execCpyx (h : Hdr) (f : F4) (s : State) : Host.Outcome State Fault Refusal := acceptCopy s h (cpyxOffer h f s)

/-! ## The units of a command (R256, R264 to R267) -/

/-- How a command writes: items written, each item's address and size. -/
structure CopyPlan where
  items : Nat
  size : Nat
  addr : Nat → Nat
  packed : Bool

/-- One item is an element, a BS block, or a byte of raw data. -/
def copyPlan (c : Cmd) : CopyPlan :=
  let d := ptrAt c.ks 0
  let p := ptrAt c.ks 1
  let z := elemSize d.fmt
  let n := c.ss.getD 0 0
  match c.ins with
  | .cpyx _ f =>
    let l := Layout.ofWords (c.ss.getD 0 0) (c.ss.getD 1 0) (c.ss.getD 2 0)
    let w := c.ss.getD 3 0
    let (d1, d2, d3) := boxOf w
    let scat := bit f.sub.toNat 4
    { items := d1 * d2 * d3, size := z, packed := !scat,
      addr := fun j => if scat then stridedAt l d.base w j else d.base + j * elemSize (if scat then p.fmt else d.fmt) }
  | _ =>
    { items := if Fmt.isBS d.fmt then n / 16 else n, size := z, packed := true, addr := fun j => d.base + j * z }

/-- The address of a CPYX command's source element. -/
def cpyxSrc (c : Cmd) (scat : Bool) (j : Nat) : Nat :=
  let p := ptrAt c.ks 1
  if scat then p.base + j * elemSize p.fmt
  else stridedAt (Layout.ofWords (c.ss.getD 0 0) (c.ss.getD 1 0) (c.ss.getD 2 0)) p.base (c.ss.getD 3 0) j

/-- Reads one source element at an address and converts it: value and flags. -/
def convAt (s : State) (c : Cmd) (p : Ptr) (fd a : Nat) : EngRes (Nat × Flags) :=
  (rdBytes s c.ctx c.core c.readTime p a (elemSize p.fmt)).bind (fun s1 x =>
    .ok s1 (convElem p.fmt fd (c.mode % 8) (decide (8 ≤ c.mode)) x))

/-- The 16 values of source group j. -/
def groupVals (fs x : Nat) : List FVal :=
  if Fmt.isBS fs then bsDecode (Fmt.bsM fs) x
  else
    let z := elemSize fs
    (List.range 16).map (fun i => evalReal (edecode fs (x / 2 ^ (8 * z * i) % 2 ^ (8 * z))))

/-- One item of a command: its bytes, flags, and 1 for an index out of range. -/
def copyItem (s : State) (c : Cmd) (j : Nat) : EngRes (Nat × Flags × Nat) :=
  let d := ptrAt c.ks 0
  let p := ptrAt c.ks 1
  let rt := c.readTime
  let mode := c.mode % 8
  let plain (r : EngRes (Nat × Flags)) : EngRes (Nat × Flags × Nat) := r.bind (fun s1 x => .ok s1 (x.1, x.2, 0))
  match c.ins with
  | .cpyw _ _ => .ok s (if d.fmt = 0 then c.ss.getD 1 0 / 2 ^ (8 * (j % 4)) % 256 else c.ss.getD 1 0, 0, 0)
  | .cpyx _ f => plain (convAt s c p d.fmt (cpyxSrc c (bit f.sub.toNat 4) j))
  | .cpyg _ _ =>
    let q := ptrAt c.ks 2
    (rdBytes s c.ctx c.core rt q (q.base + 4 * j) 4).bind (fun s1 x =>
      let i : Int := if q.fmt = 4 then sextN x 32 else x
      let z := elemSize p.fmt
      if i < 0 ∨ p.len < (i.toNat + 1) * z then .ok s1 (0, 0, 1)
      else plain (convAt s1 c p d.fmt (p.base + i.toNat * z)))
  | _ =>
    if Fmt.isBS d.fmt then
      let sb := if Fmt.isBS p.fmt then elemSize p.fmt else 16 * elemSize p.fmt
      (rdBytes s c.ctx c.core rt p (p.base + j * sb) sb).bind (fun s1 x =>
        if p.fmt = d.fmt then .ok s1 (x, 0, 0)
        else
          let (y, fl) := bsEncode (Fmt.bsM d.fmt) (groupVals p.fmt x) mode
          .ok s1 (y, fl, 0))
    else if Fmt.isBS p.fmt then
      (rdBytes s c.ctx c.core rt p (p.base + j / 16 * elemSize p.fmt) (elemSize p.fmt)).bind (fun s1 x =>
        let (y, fl) := (eencode d.fmt mode (decide (8 ≤ c.mode)) (.flt (bsDecode1 (Fmt.bsM p.fmt) x (j % 16)))).getD (0, 0)
        .ok s1 (y, fl, 0))
    else plain (convAt s c p d.fmt (p.base + j * elemSize p.fmt))

/-- The items that touch a line. -/
def lineItems (pl : CopyPlan) (line : Nat) : List Nat :=
  let a := 256 * line
  if pl.packed then
    let b := pl.addr 0
    let j0 := (max a b - b) / pl.size
    (List.range (256 / pl.size + 2)).map (· + j0) |>.filter (fun j =>
      decide (j < pl.items) && decide (pl.addr j < a + 256) && decide (a < pl.addr j + pl.size))
  else (List.range pl.items).filter (fun j => decide (pl.addr j < a + 256) && decide (a < pl.addr j + pl.size))

/-- Gathers the bytes of a line from its items. -/
def lineBytesOf (c : Cmd) (pl : CopyPlan) (line : Nat) : List Nat → State → SecWrites → Flags → Nat → EngRes (SecWrites × Flags × Nat)
  | [], s, l, fl, oor => .ok s (l, fl, oor)
  | j :: r, s, l, fl, oor =>
    (copyItem s c j).bind (fun s1 x =>
      let a := pl.addr j
      let lo := max a (256 * line)
      let hi := min (a + pl.size) (256 * line + 256)
      lineBytesOf c pl line r s1 (putBytes l lo (hi - lo) (x.1 / 2 ^ (8 * (lo - a)))) (fl ||| x.2.1)
        (oor + (if 256 * line ≤ a then x.2.2 else 0)))

/-- The progress of a command is its lowest unit that has not landed (R278); the indices that units below it found out of
range are the command's. -/
def Cmd.settle : Nat → Cmd → Cmd
  | 0, c => c
  | n + 1, c =>
    match c.landed.find? (fun x => x.1 = c.next) with
    | some x => Cmd.settle n { c with next := c.next + 1, cnt := c.cnt + x.2, landed := c.landed.filter (fun y => y.1 ≠ x.1) }
    | none => c

/-- Unit u of a command lands: its line is written whole (R256). -/
def copyUnit (s : State) (c : Cmd) (u : Nat) : EngRes Cmd :=
  let line := c.lo / 256 + u
  let pl := copyPlan c
  (lineBytesOf c pl line (lineItems pl line) s [] 0 0).bind (fun s1 x =>
    (wrSectors c.ctx c.core c.readTime (ptrAt c.ks 0) x.1 s1 0).bind (fun s2 t =>
      .ok s2 (Cmd.settle c.lines { c with landed := c.landed ++ [(u, x.2.2)], stamp := max c.stamp t, flags := c.flags ||| x.2.1 })))

/-! ## The order of units (R256, R278, R282) -/

/-- A unit of a command that has neither landed nor faulted. -/
def Cmd.unitOpen (c : Cmd) (u : Nat) : Bool := decide (c.next ≤ u) && !(c.landed.any (fun x => x.1 = u)) && !(c.bad.contains u)

/-- How many units of a command may have started by now: a stopped one, and one whose context is told to stop, starts no more. -/
def startable (s : State) (c : Cmd) : Nat := if c.stopped.isSome || (s.ctxAt c.ctx).out then c.started else c.lines

/-- The units that may land next: a command's start once every unit of the command ahead of it has started. -/
def landable (s : State) : List Cmd → List (Cmd × Nat)
  | [] => []
  | c :: r => ((List.range (startable s c)).filter c.unitOpen).map (fun u => (c, u)) ++ (if startable s c < c.lines then [] else landable s r)

/-- One of a list: the only one, or the one that a free number picks. -/
def pickOf {α : Type} (l : List α) (n : Nat) : Option α :=
  match l with
  | [] => none
  | [x] => some x
  | l => l[n % l.length]?

/-- A number from a to b: the only one, or a free one. -/
def between (a b n : Nat) : Nat := if b ≤ a then a else a + n % (b + 1 - a)

/-- The unit that lands or faults next: latencies decide which of the started ones, and how many have started (R256); the
model leaves both free (log entry 102). The commands ahead have then started whole. -/
def nextUnit (s : State) (core : Nat) : Option (State × Cmd × Nat) :=
  let q := (s.coreAt core).copyq
  (pickOf (landable s q) (Config.freeNat s.tick)).map (fun x =>
    let c := { x.1 with started := between (max x.1.started (x.2 + 1)) (startable s x.1) (Config.freeNat (s.tick + 1)) }
    let ahead := q.takeWhile (fun y => y.id ≠ c.id)
    (({ s with tick := s.tick + 2 } : State).modCore core (fun k =>
      { k with copyq := ahead.map (fun y => { y with started := y.lines }) ++ c :: (q.dropWhile (fun y => y.id ≠ c.id)).drop 1 }), c, x.2))

/-! ## Rings (R273 to R275) -/

namespace StageRing

def space (r : StageRing) : Nat := bits r.desc.toNat 50 48
def logn (r : StageRing) : Nat := bits r.desc.toNat 47 45
def slots (r : StageRing) : Nat := 2 ^ r.logn
def slotSize (r : StageRing) : Nat := (bits r.desc.toNat 44 39 + 1) * 256
def base (r : StageRing) : Nat := bits r.desc.toNat 20 0
def slotOf (r : StageRing) (k : Nat) : Nat := k % r.slots
/-- The pass phase of a sequence number. -/
def phase (r : StageRing) (k : Nat) : Bool := decide (k / r.slots % 2 = 1)
def full (r : StageRing) (j : Nat) : Bool := Cells.get false r.v j
def phaseBit (r : StageRing) (j : Nat) : Bool := Cells.get false r.ph j
def time (r : StageRing) (j : Nat) : Nat := Cells.get 0 r.t j
def addr (r : StageRing) (k : Nat) : Nat := r.base + r.slotOf k * r.slotSize

/-- A descriptor that may be used. -/
def ok (r : StageRing) : Bool :=
  (r.space = 1 || r.space = 2 || r.space = 4) && decide (1 ≤ r.logn ∧ r.logn ≤ 6) && decide (r.base % 256 = 0) &&
    decide (bits r.desc.toNat 38 21 = 0) && decide (r.base + r.slots * r.slotSize ≤ (Ptr.spaceSize r.space).getD 0)

/-- The scope whose home check and releases a ring follows. -/
def scope (r : StageRing) : Nat := if r.space = 4 then 1 else 0

/-- Whether the slot of a sequence is full, or empty, in its phase. -/
def ready (r : StageRing) (k : Nat) (isFull : Bool) : Bool :=
  (r.full (r.slotOf k) == isFull) && (r.phaseBit (r.slotOf k) == r.phase k)

/-- Whether a counter has issued a sequence number. -/
def issued (x k : Nat) : Bool := decide (k < 65536) && decide (1 ≤ (x + 65536 - k) % 65536) && decide ((x + 65536 - k) % 65536 ≤ 32768)

def setFull (r : StageRing) (j t : Nat) : StageRing := { r with v := Cells.set false r.v j true, t := Cells.set 0 r.t j t }
def setEmpty (r : StageRing) (j : Nat) : StageRing :=
  { r with v := Cells.set false r.v j false, ph := Cells.set false r.ph j (!(r.phaseBit j)) }

end StageRing

/-- A core's clock as a ring's times are kept, in the epoch of the latest broadcast (R128, R274). -/
def ringTime (s : State) (core t : Nat) : Nat := stampTo (s.coreAt core).epoch s.rebase.epoch t

/-- Pending .after releases take effect once the group's earlier commands have completed (R275). -/
def ringAfters (s : State) : State :=
  { s with rings := s.rings.map (fun e =>
      let due (a : Nat × Nat × Nat × Nat) : Bool :=
        -- chains of pre-empted contexts have names from 2^40 on
        decide (a.2.1 < 2 ^ 40) && !((engQueue s .copy (coreOf a.2.1)).any (fun c => decide (c.chain = a.2.1 ∧ c.grp = a.2.2.1 ∧ c.seq < a.2.2.2)))
      let r := (e.2.after.filter due).foldl (fun r a =>
        r.setFull a.1 (ringTime s (coreOf a.2.1)
          (max (s.coreAt (coreOf a.2.1)).lclk ((Tab.get {} s.chains a.2.1).grp .copy a.2.2.1).stamp))) e.2
      (e.1, { r with after := e.2.after.filter (fun a => !(due a)) })) }

/-! ## Landing and faults (R256, R257, R278) -/

def execCopyUnitLanding (core : Nat) (s : State) : Host.Outcome State Fault Refusal :=
  match nextUnit s core with
  | none => .next s
  | some (s0, c, u) =>
    match copyUnit s0 c u with
    | .ok s1 c1 =>
      let s2 := setPresent s1 core (ptrAt c.ks 0).space (256 * (c.lo / 256 + u)) 256
      if c1.next < c1.lines then .next (putCmd s2 c1)
      else .next (ringAfters (complete s2 c1 (fun g => { g with aux := g.aux + c1.cnt })))
    | _ => .next s0

/-- A unit's translation fault stops its command; one of a command that has stopped stays unlanded (R278). -/
def execCopyFault (core : Nat) (s : State) : Host.Outcome State Fault Refusal :=
  match nextUnit s core with
  | none => .next s
  | some (s0, c, u) =>
    match copyUnit s0 c u with
    | .fault s1 cause va d =>
      let c1 := { c with bad := c.bad ++ [u] }
      .next (if c.stopped.isSome then putCmd s1 c1 else stopCmd s1 c1 cause va d)
    | _ => .next s0

/-! ## CPWAIT (R269, R270) -/

/-- The status word of R270. -/
def copyStatus (g : Grp) : Nat := min 255 g.ncmd * 2 ^ 24 + min 65535 g.aux * 2 ^ 8 + g.flags.toNat % 64

def execCpwait (h : Hdr) (f : F4) (s : State) : Host.Outcome State Fault Refusal :=
  groupWait s h f .copy (if bit f.sub.toNat 0 then List.range 8 else [copyGrp f]) 2 (fun g => [copyStatus g])

/-! ## Ring instructions (R275) -/

/-- The ring that a handle names, with the checks of R47, R273 and R117. -/
def withRing (s : State) (h : Hdr) (f : F4) (k : Nat → StageRing → Host.Outcome State Fault Refusal) :
    Host.Outcome State Fault Refusal :=
  match handleObj s s.selChain.ctx f.hnd.toNat with
  | .ring obj =>
    let r := Tab.get { desc := 0, ctx := 0 } s.rings obj
    let p : Ptr := Ptr.ofBits 0
    let home : Ptr := { p with hdie := bits r.desc.toNat 63 57, hclu := bits r.desc.toNat 56 54, hcore := bits r.desc.toNat 53 51,
                               scope := r.scope }
    if !r.ok then .next (trapIssue s h 0x4B r.base)
    else if !(homeOk s s.selChain.ctx s.selCore home) then .next (trapIssue s h 0x09 r.base)
    else k obj r
  | _ => .next (trapIssue s h 0x21 f.hnd.toNat)

def setRing (s : State) (obj : Nat) (r : StageRing) : State := { s with rings := Tab.put s.rings obj r }

/-- The latency of a ring's results (R275). -/
def ringLat (r : StageRing) : Nat := if r.space = 4 then 24 else 6

/-- Kinds of waits: 0 RINGACQ.prod, 1 RINGACQ.cons, 2 RINGWT.full, 3 RINGWT.empty. -/
def wantsFull (kind : Nat) : Bool := kind = 1 || kind = 2

/-- Whether a wait's slot is ready for a core. -/
def ringReady (s : State) (core kind : Nat) (r : StageRing) (k : Nat) : Bool :=
  r.ready k (wantsFull kind) && (!(wantsFull kind) || peerEpoch s core)

/-- LCLK takes the slot's time when a full slot is acquired or seen. -/
def ringClock (s : State) (core kind : Nat) (r : StageRing) (k : Nat) : State :=
  if wantsFull kind then raiseLclk s core (r.time (r.slotOf k)) else s

/-- The registers of an acquisition. -/
def acqCells (r : StageRing) (kind sop k : Nat) : List (CellId × Nat) :=
  if kind ≤ 1 then [(.s sop, r.addr k), (.s (sop + 1), k)] else []

def bumpRing (r : StageRing) (kind : Nat) : StageRing :=
  match kind with
  | 0 => { r with acqp := (r.acqp + 1) % 65536 }
  | 1 => { r with acqc := (r.acqc + 1) % 65536 }
  | _ => r

/-- RINGACQ and RINGWT on a sequence: at once, not at all, or parked. -/
def ringWait (s : State) (h : Hdr) (f : F4) (obj : Nat) (r : StageRing) (kind k : Nat) : Host.Outcome State Fault Refusal :=
  let fin (s : State) : State := if kind ≤ 1 then withMonument (advanceUniform (clearSpin s) h) else advanceUniform s h
  if ringReady s s.selCore kind r k then
    let s1 := ringClock (setRing s obj (bumpRing r kind)) s.selCore kind r k
    .next (fin (landV s1 (ringLat r) (acqCells r kind f.sop.toNat k ++ (if f.nb then pwCells s f.pw true else []))))
  else if f.nb then .next (nbFail s h f.pw (ringLat r))
  else
    let (op, s1) := s.fresh
    let r1 := bumpRing r kind
    let s2 := setRing s1 obj { r1 with wait := r1.wait ++ [(op, s.sel.chain, kind, k, f.sop.toNat)] }
    .next (fin (s2.modChain s.sel.chain (fun c => c.park (restLanes s) (.ring op) s.sel.pc s.sel.prio)))

def execRingacqProd (h : Hdr) (f : F4) (s : State) : Host.Outcome State Fault Refusal :=
  withRing s h f (fun obj r => ringWait s h f obj r 0 r.acqp)

def execRingacqCons (h : Hdr) (f : F4) (s : State) : Host.Outcome State Fault Refusal :=
  withRing s h f (fun obj r => ringWait s h f obj r 1 r.acqc)

/-- RINGWT judges its sequence against ACQP. -/
def ringWtMeaning (h : Hdr) (f : F4) (s : State) (kind : Nat) : Host.Outcome State Fault Refusal :=
  withRing s h f (fun obj r =>
    if StageRing.issued r.acqp (sOp s f 0) then ringWait s h f obj r kind (sOp s f 0) else .next (trapIssue s h 0x4A r.base))

def execRingwtFull (h : Hdr) (f : F4) (s : State) : Host.Outcome State Fault Refusal := ringWtMeaning h f s 2
def execRingwtEmpty (h : Hdr) (f : F4) (s : State) : Host.Outcome State Fault Refusal := ringWtMeaning h f s 3

/-- A producer may release a sequence: issued, empty in its phase, not already released with .after. -/
def prodOk (r : StageRing) (k : Nat) : Bool :=
  StageRing.issued r.acqp k && r.ready k false && !(r.after.any (fun a => a.1 = r.slotOf k))

def execRingrelProd (h : Hdr) (f : F4) (s : State) : Host.Outcome State Fault Refusal :=
  withRing s h f (fun obj r =>
    let k := sOp s f 0
    if !(prodOk r k) then .next (trapIssue s h 0x4A r.base)
    else if !(earlierWrites s.selChain r.scope).isEmpty then .next (waitIssue s)
    else .next (finish (setRing s obj (r.setFull (r.slotOf k) (ringTime s s.selCore (s.coreAt s.selCore).lclk))) h))

def execRingrelProdAfter (h : Hdr) (f : F4) (s : State) : Host.Outcome State Fault Refusal :=
  withRing s h f (fun obj r =>
    let k := sOp s f 0
    let g := copyGrp f
    match stoppedOf s .copy (fun x => x = g) with
    | some c => .next (raiseGroup s h c)
    | none =>
      if !(prodOk r k) then .next (trapIssue s h 0x4A r.base)
      else if !(earlierWrites s.selChain r.scope).isEmpty then .next (waitIssue s)
      else .next (finish (ringAfters (setRing s obj { r with after := r.after ++ [(r.slotOf k, s.sel.chain, g, s.sel.seq)] })) h))

def execRingrelCons (h : Hdr) (f : F4) (s : State) : Host.Outcome State Fault Refusal :=
  withRing s h f (fun obj r =>
    let k := sOp s f 0
    let c := s.selChain
    let busy := (easeHits (s.coreAt s.selCore) (tagIn s c.ctx r.space r.base) r.space (r.addr k) (r.addr k + r.slotSize - 1)).any
      (fun e => !e.dst)
    if !(StageRing.issued r.acqc k) || !(r.ready k true) then .next (trapIssue s h 0x4A r.base)
    else if c.outs.any (·.load) || c.parked.any (fun q => q.why = .line) || busy then .next (waitIssue s)
    else .next (finish (setRing s obj (r.setEmpty (r.slotOf k))) h))

/-- Parked acquisitions and waits whose slots are ready are served in order of arrival; an acquisition that performs forces a
monument (R254, R152). -/
def serveRing (obj : Nat) (s : State) (w : Nat × Nat × Nat × Nat × Nat) : State :=
  let (op, ch, kind, k, sop) := w
  let r := Tab.get { desc := 0, ctx := 0 } s.rings obj
  let core := coreOf ch
  match (Tab.get {} s.chains ch).parked.find? (fun q => q.why = .ring op) with
  | none => s
  | some q =>
    if !(ringReady s core kind r k) then s
    else
      let s1 := setRing s obj { r with wait := r.wait.filter (fun x => x.1 ≠ op) }
      let s2 := writeNow (ringClock s1 core kind r k) ch (s.coreAt core).seq (acqCells r kind sop k)
      let s3 := reenter s2 ch q ((q.pc + 8) % 2 ^ 32)
      if kind ≤ 1 then monument s3 core (Tab.get {} s3.chains ch).ctx else s3

def execRingSlotReady (ring : Nat) (s : State) : Host.Outcome State Fault Refusal :=
  .next ((Tab.get { desc := 0, ctx := 0 } s.rings ring).wait.foldl (serveRing ring) s)

/-! ## EASEQ (R276) -/

def execEaseqCount (h : Hdr) (f : F4) (s : State) : Host.Outcome State Fault Refusal :=
  .next (advanceUniform (landV s 4 [sCell f 0 (32 - (s.coreAt s.selCore).ease.length)]) h)

/-- The entries that overlap the range of a pointer. -/
def ptrEases (s : State) (p : Ptr) : List Ease :=
  let hits (lo n : Nat) : List Ease := easeHits (s.coreAt s.selCore) (tagIn s s.selChain.ctx p.space p.base) p.space lo (lo + n - 1)
  if p.len = 0 then []
  else if p.space ≠ 3 then hits p.base p.len
  else ((accPieces p.base (min p.len (2 ^ 17))).flatMap (fun x => match accAddr s.selChain x.1 with
    | some a => hits a x.2
    | none => [])).eraseDups

/-- Which of the 32 entries an easement holds is the table's own choice: the lowest overlapping one's number is free. -/
def execEaseqProbe (h : Hdr) (f : F4) (s : State) : Host.Outcome State Fault Refusal :=
  let p := kPtr s f 0
  if !p.valid then .next (trapIssue s h 0x0C f.pb.toNat)
  else
    let es := ptrEases s p
    let (n, s1) := freeVal s
    let w := if es.isEmpty then 0
      else (if es.any (·.dst) then 1 else 0) + (if es.any (fun e => !e.dst) then 2 else 0) + (n % 32) * 2 ^ 8 + 2 ^ 31
    .next (advanceUniform (landV s1 4 [sCell f 0 w]) h)

def execEaseqWait (h : Hdr) (f : F4) (s : State) : Host.Outcome State Fault Refusal :=
  let p := kPtr s f 0
  if !p.valid then .next (trapIssue s h 0x0C f.pb.toNat)
  else if (ptrEases s p).isEmpty then
    .next (advanceUniform (landV s 4 (if f.nb then pwCells s f.pw true else [])) h)
  else .next (orWait s h f.nb f.pw 4)

end Sys2Proof.Machine
end

