-- ==== Sys2Proof/Machine/HomeEvents.lean ====
section
/-!
DEFINITION. Requests at a home slice (R125, R126, R131, R132, R139, R140, R144, R146, R154, R454): reads, write leases,
atomics, publication freezes and writes, and the answers of owners.
-/
namespace Sys2Proof.Machine

/-! ## Messages and epochs -/

/-- A clock or stamp sent by a unit of one epoch as a unit of another reads it (R129); none while it must be held. -/
def clkFor (s : State) (sent here : Bool) (t : Nat) : Option Nat :=
  if sent == here then some t
  else if here == s.rebase.epoch then some (t - 0x400000)
  else none

/-- Takes a message out and acts on it; it stays when it may not be taken yet (R17, R19, R25). -/
def takeMsg (s : State) (id : Nat) (act : State → Msg → Option State) : Host.Outcome State Fault Refusal :=
  match findMsg s id with
  | none => .next s
  | some m =>
    if due s m then
      (match act (received s m) m with
       | some s1 => .next s1
       | none => .next s)
    else .next s

/-- Puts a message back: its turn has only sent for something it needs. -/
def keepMsg (s : State) (m : Msg) : State := { s with msgs := s.msgs ++ [m] }

/-- Sends an answer from a home to the core of a request. -/
def answer (s : State) (line site core : Nat) (body : Body) : State :=
  send s 1 line site (siteOf core) (s.sliceAt site).epoch body

/-- Stamps of peer sectors are of the latest broadcast's epoch: a slice passes accesses to them in that epoch (R129). -/
def passEpoch (s : State) (site : Nat) : Bool := (s.sliceAt site).epoch == s.rebase.epoch

/-- Changes a chain and its shadow. -/
def modPair (s : State) (ch : Nat) (f : Chain → Chain) : State :=
  let s1 := s.modChain ch f
  match shadowOf s ch with
  | some j => s1.modChain j f
  | none => s1

/-- Issues a load of a chain again: its units, under a sequence number of their own, from the program counter that it has. None
while they must wait. The instruction's own lane of sequencing is put back after. A partner that has yet to issue the load, whose
number was `old`, takes these results with it (R188). -/
def reload (s : State) (ch old : Nat) (acc : Acc) (pc : Nat) (lanes : Mask) (us : List LUnit) (first : Bool) : Option State :=
  let seq := (s.coreAt acc.core).seq
  let units := us.map (fun u =>
    { u with data := 0, keys := (atomKey s acc u.va, 0) ::
        (if u.va / 64 = (u.va + u.size - 1) / 64 then [] else [(atomKey s acc (u.va + u.size - 1), 1)]) })
  let keys := (units.flatMap (fun u => u.keys.map (·.1))).eraseDups
  let s0 := (s.modCore acc.core (fun k => { k with seq := seq + 1 })).modChain ch (fun c =>
    { c with ahead := c.ahead.map (fun a => if a.seqs.contains old then { a with seqs := seq :: a.seqs } else a) })
  if keys.any (sectorOpen s ch) then none
  else match loadAll ch acc (acc.share = 2) keys { s0 with sel := { s.sel with chain := ch, seq, pc, demote := if first then none else some 0 } }
      { units } with
    | none => none
    | some (s1, a) =>
      let ready := a.units.filter (fun u => u.keys.isEmpty)
      let open_ := a.units.filter (fun u => !u.keys.isEmpty)
      let s2 := writeNow s1 ch seq (ready.flatMap (fun u => let x := unitRegs u; x.1 ++ flagCell x.2))
      let s3 := if open_.isEmpty then s2
        else modMate s2 ch seq (fun c => { c with outs := c.outs ++ [{
          seq, cells := open_.flatMap (·.cells), acq := decide (acc.share = 2), load := true, units := open_, lanes, pc, first, all := units }] })
      let s4 := a.faults.foldl (fun s x =>
        send s 1 (x.1 / 4) (homeOfKey s x.1) (siteOf acc.core) (s.coreAt acc.core).epoch
          (.fault ch acc.core seq pc 0 x.2.1 0 x.2.2
            (.read acc ch seq pc x.1 (s.coreAt acc.core).lclk (s.ctxAt acc.ctx).lease))) s3
      some { s4 with sel := s.sel }

/-- Asks the owner of a private page for its flush, once (R132). -/
def askFlush (s : State) (site key owner : Nat) : State :=
  let page := pageOfKey key
  if s.msgs.any (fun m => match m.body with
      | .pageFlush p _ => decide (p = page)
      | _ => false) then s
  else send s 4 (key / 4) site (siteOf owner) (s.sliceAt site).epoch (.pageFlush page owner)

/-- Asks the host to give up a line, once (R454). -/
def askHost (s : State) (site key : Nat) : State :=
  if s.msgs.any (fun m => match m.body with
      | .backInv k => decide (k = key)
      | _ => false) then s
  else send s 4 (key / 4) site site (s.sliceAt site).epoch (.backInv key)

/-- The core whose private page a requester reaches from outside. -/
def foreignOwner (s : State) (site key : Nat) (me : Option Nat) : Option Nat :=
  match pageMark s site (pageOfKey key) with
  | some (.priv o) => if me = some o then none else some o
  | _ => none

/-- Makes the page usable by a requester: none when a flush has to be waited for. A queued request flushes at once. -/
def readyPage (s : State) (site key : Nat) (me : Option Nat) (queued : Bool) : Option State :=
  match foreignOwner s site key me with
  | none => some (pageClass s site key me).1
  | some o => if queued then some (flushPage s site (pageOfKey key) o) else none

/-- Sends a request's sector to its owner's core for the data (R154), holding the request. -/
def forwardTo (s : State) (site key : Nat) (h : HomeSec) (x : Nat) (m : Msg) : State :=
  send (homeSet s site key { h with st := .F, queue := m :: h.queue }) 4 (key / 4) site (siteOf x) (s.sliceAt site).epoch
    (.forward key x)

/-- A request that must wait behind others at its sector joins them. -/
def enqueue (s : State) (site key : Nat) (h : HomeSec) (m : Msg) : State :=
  homeSet s site key { h with queue := h.queue ++ [m] }

/-- The sector holds requests back (R154). -/
def busySec (h : HomeSec) : Bool := h.st = .F || h.st = .X || !h.queue.isEmpty

/-! ## Reads -/

/-- What a home answers to a read: fill code, and XP + 1 of an image. -/
def fillCode (acc : Acc) (priv : Bool) : Nat :=
  if acc.nt || acc.tns || acc.scope = 4 then 0 else if priv then 3 else if acc.share = 2 then 1 else 2

/-- A compressed-view read of an image returns its stored bytes (R147). -/
def serveStored (s : State) (m : Msg) (acc : Acc) (ch seq key clk : Nat) : Option State :=
  if !acc.cv then none
  else match imageAt s acc.ctx key with
    | some (s1, d) => some (answer s1 m.line (homeOfKey s key) acc.core (.readAns acc ch seq key d 0 0 clk 0 0))
    | none => none

def serveRead (s : State) (m : Msg) (acc : Acc) (ch seq pc key clk0 lease : Nat) (queued : Bool) : Option State :=
  let site := homeOfKey s key
  let sync := acc.share = 2
  let me := if acc.tns then none else some acc.core
  match clkFor s m.ep (s.sliceAt site).epoch clk0, homeGet s acc.ctx key false false false with
  | none, _ => none
  | _, .wait => none
  | some _, .fault s1 c d => some (answer s1 m.line site acc.core (.fault ch acc.core seq pc 0 c 0 d m.body))
  | some clk, .ok s1 (.peer t) =>
    let (w, r) := peerStamp s1 t.pa
    let t1 := if sync then max clk w else clk
    let rts := max r (t1 + lease)
    if !(passEpoch s1 site) || stampMax < t1 + lease then none
    else some (answer (setPeerStamp s1 t.pa w rts) m.line site acc.core
      (.readAns acc ch seq key (BitVec.ofNat 512 (physRead s1 t.pa 64)) w rts t1 0 0))
  | some clk, .ok s1 (.home h) =>
    let t1 := if sync then max clk h.wts else clk
    if h.st = .Z && h.queue.isEmpty && decide (t1 ≤ h.rts) then
      some (answer s1 m.line site acc.core (.readAns acc ch seq key h.data h.wts h.rts t1 0 0))
    else if !queued && (busySec h || h.st = .Z) then some (enqueue s1 site key h m)
    else match readyPage s1 site key me queued with
      | none => some (askFlush (keepMsg s1 m) site key ((foreignOwner s1 site key me).getD 0))
      | some s2 =>
        let h2 := (homeFind s2 site key).getD h
        let priv := decide (pageMark s2 site (pageOfKey key) = some (.priv acc.core))
        if priv then
          let d := match l1Find s2 acc.core key with
            | some c => if c.st = .Q then c.data else h2.data
            | none => h2.data
          some (answer s2 m.line site acc.core (.readAns acc ch seq key d h2.wts h2.rts clk (fillCode acc true) 0))
        else match h2.own with
          | some x => some (forwardTo s2 site key h2 x m)
          | none =>
            if stampMax < t1 + lease then none
            else
              let (s3, r, rts) := homeLease s2 site key clk lease sync h2
              some (answer s3 m.line site acc.core (.readAns acc ch seq key r.data r.wts rts r.t (fillCode acc false)
                (match h2.cmp with
                 | some xp => xp + 1
                 | none => 0)))

/-! ## Writes -/

/-- An earlier write of the chain to the same sector is still on its way (R133). -/
def earlierSame (s : State) (ch seq key : Nat) : Bool :=
  match s.chain? ch with
  | some c => c.writes.any (fun w => decide (w.key = key ∧ w.seq < seq) &&
      !((s.coreAt (coreOf ch)).side.any (fun e => e.wid = w.id)))
  | none => false

/-- What a write must wait for before it is performed: earlier loads, writes to its sector, and those a release follows
(R133 to R135, R250). -/
def heldBack (s : State) (ch seq key : Nat) (after : List Nat) : Bool :=
  writesOpen s ch after || earlierSame s ch seq key ||
    (match s.chain? ch with
     | some c => loadsOpen c seq
     | none => false)

/-- Sends a write's grant; a synchronising write or an atomic has forced a monument (R152). -/
def granted (s : State) (line site ch core wid scope t : Nat) (force : Bool) : State :=
  let c := Tab.get {} s.chains ch
  let s1 := noteWrite s (s.sliceAt site).epoch ch c.part c.sid scope t
  let s2 := if force then monument s1 core c.ctx else s1
  answer s2 line site core (.grant ch core wid t)

/-- The side-log entry of a write that met a cause (R249). -/
def entOf (s : State) (acc : Acc) (ch seq pc wid va : Nat) (data : BitVec 512) (mask : BitVec 64) (vas : List (Nat × Nat))
    (at_ : Option AtomOp) : SideEnt :=
  let c := Tab.get {} s.chains ch
  { chain := ch, rid := 0, seq, wid, acc, va, data, mask, vas, atom := at_, pc, part := c.part, sid := c.sid }

/-- Hands the sector to the storing core in state O, its old data logged first (R126, R185). What the core or its cluster wrote of it
through narrower pointers while the store was on its way has gone up to the home before (R133, R141). -/
def handOver (s : State) (acc : Acc) (ch seq site key t : Nat) (h : HomeSec) (data : BitVec 512) (mask : BitVec 64) : State :=
  let ctx := (Tab.get {} s.chains ch).ctx
  let s1 := homeSet s site key { h with wts := t, rts := t, own := some acc.core }
  let own (d : BitVec 512) : Copy := { st := .O, data := d, wts := t, rts := t, dirty := true, pt := 2 }
  let s2 := l1Insert s1 acc.core key (own h.data)
  let s3 := if acc.share = 2 then s2 else logSector s2 acc.core ctx seq key
  l1Set s3 acc.core key (own (sectorMerge h.data data mask))

/-- A store to a private page that leaves no copy below writes the home's data, with no stamp, an image being expanded first
(R132, R146, R230). -/
def storeHome (s : State) (ctx site key : Nat) (h : HomeSec) (data : BitVec 512) (mask : BitVec 64) : State :=
  let (s1, h1) := expandHome s ctx site key h
  logWrite (homeSet s1 site key { h1 with data := sectorMerge h1.data data mask, dirty := true }) key

def serveStore (s : State) (m : Msg) (acc : Acc) (ch seq pc key wid : Nat) (data : BitVec 512) (mask : BitVec 64)
    (vas : List (Nat × Nat)) (clk0 : Nat) (after : List Nat) (queued : Bool) : Option State :=
  let site := homeOfKey s key
  let sync := decide (acc.share = 2)
  let now := if sync then (s.coreAt acc.core).lclk else clk0
  let low := !acc.nt && !acc.tns && acc.scope ≠ 4
  let me := if acc.tns then none else some acc.core
  if heldBack s ch seq key after then none
  else match clkFor s (if sync then (s.coreAt acc.core).epoch else m.ep) (s.sliceAt site).epoch now,
      homeGet s acc.ctx key true false (mask = BitVec.allOnes 64) with
  | none, _ => none
  | _, .wait => none
  | some _, .fault s1 c d =>
    some (answer s1 m.line site acc.core (.logged acc.core (entOf s acc ch seq pc wid (vaOfKey key) data mask vas none) c d))
  | some clk, .ok s1 (.peer t) =>
    let (_, r) := peerStamp s1 t.pa
    let st := max clk (r + 1)
    let new := sectorMerge (BitVec.ofNat 512 (physRead s1 t.pa 64)) data mask
    if !(passEpoch s1 site) || stampMax < st then none
    else some (granted (setPeerStamp (physWrite s1 t.pa 64 new.toNat) t.pa st st) m.line site ch acc.core wid acc.scope st sync)
  | some clk, .ok s1 (.home h) =>
    if !queued && (busySec h || h.st = .Z) then some (enqueue s1 site key h m)
    else if h.host then (if queued then none else some (askHost (enqueue s1 site key h m) site key))
    else match readyPage s1 site key me queued with
      | none => some (askFlush (keepMsg s1 m) site key ((foreignOwner s1 site key me).getD 0))
      | some s2 =>
        let h2 := (homeFind s2 site key).getD h
        if decide (pageMark s2 site (pageOfKey key) = some (.priv acc.core)) then
          let put (s : State) (old : Copy) : State :=
            let s3 := if sync then s else logSector s acc.core acc.ctx seq key
            l1Set s3 acc.core key { old with st := .Q, data := sectorMerge old.data data mask, dirty := true }
          let s3 := if low then qFill s2 acc.core key h2 else s2
          let s4 := match l1Find s3 acc.core key with
            | some c => if c.st = .Q then put s3 c else storeHome s3 acc.ctx site key h2 data mask
            | none => storeHome s3 acc.ctx site key h2 data mask
          some (granted s4 m.line site ch acc.core wid acc.scope 0 sync)
        else match h2.own with
          | some x => some (forwardTo s2 site key h2 x m)
          | none =>
            let s2' := if low then pushUp s2 acc.core key else s2
            let (s3, h3) := expandHome s2' acc.ctx site key ((homeFind s2' site key).getD h2)
            let t := max clk (h3.rts + 1)
            let clean := match l1Find s3 acc.core key with
              | some c => decide (c.umask = 0)
              | none => true
            if stampMax < t then none
            else
              let s4 := if low && clean then handOver s3 acc ch seq site key t h3 data mask
                else homeSet s3 site key { h3 with data := sectorMerge h3.data data mask, wts := t, rts := t, dirty := true }
              some (granted (logWrite (wake s4 2 site key) key) m.line site ch acc.core wid acc.scope t sync)

/-- A write of a chain has returned: an acquire without a register that waits for no other write of its instruction ends (R140). -/
def endHold (s : State) (ch wid : Nat) : State :=
  let side := (s.coreAt (coreOf ch)).side
  s.modChain ch (fun c =>
    match c.writes.find? (fun w => w.id = wid) with
    | none => c
    | some w =>
      if c.writes.any (fun x => decide (x.seq = w.seq ∧ x.id ≠ wid) && !(side.any (fun e => e.wid = x.id))) then c
      else { c with outs := c.outs.filter (fun o => !(o.acq && o.cells.isEmpty && !o.load && decide (o.seq = w.seq))) })

/-- A write of a chain is performed with its grant returned. -/
def dropWrite (s : State) (ch wid : Nat) : State :=
  (endHold s ch wid).modChain ch (fun c => { c with writes := c.writes.filter (fun w => w.id ≠ wid) })

/-- A synchronising store below the home has been performed with a stamp: its chain's clock rises, and a monument is taken (R126,
R152). -/
def lateDone (s : State) (core ch wid scope t : Nat) : State :=
  let c := Tab.get {} s.chains ch
  monument (noteWrite (raiseLclk (dropWrite s ch wid) core t) (s.coreAt core).epoch ch c.part c.sid scope t) core c.ctx

/-- A synchronising store that followed earlier accesses of its chain is performed where its sector now is: in the L1, at the point of
its scope, or by a request to the home (R126, R132, R135, R230). -/
def serveLate (s : State) (m : Msg) (acc : Acc) (ch seq pc key wid : Nat) (data : BitVec 512) (mask : BitVec 64) (vas : List (Nat × Nat))
    (after : List Nat) : Option State :=
  let core := acc.core
  let clk := (s.coreAt core).lclk
  let ended (r : Res Nat) : Option State :=
    match r with
    | .ok s1 t => some (lateDone s1 core ch wid acc.scope t)
    | .wait => none
    | .fault s1 c d => some (send s1 1 m.line (homeOfKey s key) (siteOf core) (s.coreAt core).epoch
        (.logged core (entOf s acc ch seq pc wid (vaOfKey key) data mask vas none) c d))
  let home : Option State :=
    some (send s 0 m.line (siteOf core) (homeOfKey s key) (s.coreAt core).epoch (.store acc ch seq pc key wid data mask vas clk []))
  if heldBack s ch seq key after then none
  else match l1Find s core key with
    | some c =>
      if c.st = .Q then ended (.ok (l1Set s core key { c with data := sectorMerge c.data data mask, dirty := true }) 0)
      else if ownsFor c acc.scope then
        let t := max clk (c.rts + 1)
        if stampMax < t then none
        else ended (.ok (wake (l1Set (l1Touch s core key) core key
          { c with data := sectorMerge c.data data mask, wts := t, rts := t, dirty := true }) 0 core key) t)
      else if acc.scope = 0 then ended (cohWrite s acc key data mask clk)
      else if acc.scope = 1 then ended (storeCluster s acc key data mask)
      else home
    | none =>
      if acc.scope = 0 then ended (cohWrite s acc key data mask clk)
      else if acc.scope = 1 then ended (storeCluster s acc key data mask)
      else home

/-- The same in spaces 1 to 4. -/
def serveLateLocal (s : State) (core ctx ch seq space wid : Nat) (bytes : List (Nat × Nat × Nat)) (after : List Nat) : Option State :=
  let key := bytes.foldl (fun _ b => localKey space b.1) 0
  if writesOpen s ch after || earlierSame s ch seq key || (space = 4 && loadsOpen (Tab.get {} s.chains ch) seq) then none
  else some (lateDone (bytes.foldl (fun s b => localWrite (logLocal s core ctx seq space b.1 b.2.1) core space b.1 b.2.1 b.2.2) s) core ch wid 0 0)

/-! ## Atomics -/

/-- A ticket of the pod's designated module, numbered from 2^32 on to tell it from one of this package (R140). -/
def isPodTicket (n : Nat) : Bool := 2 ^ 32 ≤ n

/-- The ticket that a slice performs next of a sequence. -/
def turnOf (sl : Slice) (n : Nat) : Nat := if isPodTicket n then 2 ^ 32 + sl.nextPod else sl.nextTicket

/-- A ticket is used, whether its atomic performed or faulted (R140). -/
def useTicket (s : State) (site : Nat) (ticket : Option Nat) : State :=
  match ticket with
  | none => s
  | some n => s.modSlice site (fun sl =>
      if isPodTicket n then { sl with nextPod := (sl.nextPod + 1) % 2 ^ 32 } else { sl with nextTicket := (sl.nextTicket + 1) % 2 ^ 32 })

/-- A performed atomic answers its lane, or grants a reduction (R214, R240 to R242). -/
def atomDone (s : State) (m : Msg) (acc : Acc) (ch seq wid lane site : Nat) (op : AtomOp) (cells : List CellId) (red : Bool)
    (ticket : Option Nat) (x : Performed) : State :=
  let s1 := useTicket s site ticket
  if red then granted (orFlagWord s1 acc.ctx (some site) x.flags) m.line site ch acc.core wid acc.scope x.stamp true
  else
    let c := Tab.get {} s1.chains ch
    let s2 := monument (noteWrite s1 (s.sliceAt site).epoch ch c.part c.sid acc.scope x.stamp) acc.core c.ctx
    answer s2 m.line site acc.core
      (.atomAns ch acc.core seq wid lane cells x.old op.fmt op.dw x.flags x.stamp (acc.share = 2 || ticket.isSome))

def serveAtom (s : State) (m : Msg) (acc : Acc) (ch seq pc va wid lane : Nat) (vas : List (Nat × Nat)) (op : AtomOp)
    (cells : List CellId) (red : Bool) (clk0 : Nat) (after : List Nat) (ticket : Option Nat) (queued : Bool) : Option State :=
  let key := atomKey s acc va
  let site := homeOfKey s key
  let sync := acc.share = 2 || ticket.isSome
  let now := if sync then (s.coreAt acc.core).lclk else clk0
  let turn := match ticket with
    | none => true
    | some n => decide (turnOf (s.sliceAt site) n = n)
  let fault (s1 : State) (c d : Nat) : State :=
    let s2 := useTicket s1 site ticket
    if red then answer s2 m.line site acc.core (.logged acc.core (entOf s acc ch seq pc wid va 0 0 vas (some op)) c d)
    else answer s2 m.line site acc.core
      (.fault ch acc.core seq pc (faultMask (vas.map (fun v => { lane := v.1, cause := c, tval := v.2 }))) c va d m.body)
  if heldBack s ch seq key after || !turn then none
  else match clkFor s (if sync then (s.coreAt acc.core).epoch else m.ep) (s.sliceAt site).epoch now,
      homeGet s acc.ctx key true false false with
  | none, _ => none
  | _, .wait => none
  | some _, .fault s1 c d => some (fault s1 c d)
  | some clk, .ok s1 (.peer t) =>
    if !(passEpoch s1 site) then none
    else (match atomPeer s1 acc t va op clk with
     | .ok s2 x => some (atomDone s2 m acc ch seq wid lane site op cells red ticket x)
     | .fault s2 c d => some (fault s2 c d)
     | .wait => none)
  | some clk, .ok s1 (.home h) =>
    if !queued && (busySec h || h.st = .Z) then some (enqueue s1 site key h m)
    else if h.host then (if queued then none else some (askHost (enqueue s1 site key h m) site key))
    else match readyPage s1 site key none queued with
      | none => some (askFlush (keepMsg s1 m) site key ((foreignOwner s1 site key none).getD 0))
      | some s2 =>
        let h2 := (homeFind s2 site key).getD h
        match h2.own with
        | some x => some (forwardTo s2 site key h2 x m)
        | none =>
          match atomSector s2 acc.ctx site key va op clk h2 with
          | .ok s3 x => some (atomDone s3 m acc ch seq wid lane site op cells red ticket x)
          | .fault s3 c d => some (fault s3 c d)
          | .wait => none

/-! ## Publication (R144) -/

def regionOf (s : State) (core id : Nat) : Option Region := (s.coreAt core).regions.find? (fun g => g.id = id)

def putRegion (s : State) (core : Nat) (g : Region) : State :=
  s.modCore core (fun k => { k with regions := k.regions.map (fun x => if x.id = g.id then g else x) })

/-- The L1 gives up a sector's U bytes; the copy beneath them stays. -/
def clearU (s : State) (core key : Nat) : State :=
  match l1Find s core key with
  | none => s
  | some c =>
    if c.bare then l1Erase s core key
    else l1Set s core key { c with umask := 0, udata := 0, st := if c.st = .U then SSt.L else c.st }

/-- How a region's accesses count in the memory system. -/
def regionAcc (g : Region) (core : Nat) : Acc := { ctx := g.ctx, core, share := 0, scope := 2 }

/-- The freeze of one sector has been answered; after the last one the U sectors are sent (steps 2 and 3). -/
def frozen (s : State) (core : Nat) (g : Region) (key : Nat) (rts : Option Nat) : Option State :=
  match g.pub with
  | none => some s
  | some (keys, r, ws) =>
    let keys1 := keys.filter (· ≠ key)
    let r1 := max r (rts.getD 0)
    let ws1 := if rts.isSome then ws ++ [key] else ws
    if !keys1.isEmpty then some (putRegion s core { g with pub := some (keys1, r1, ws1) })
    else
      let tp := max (s.coreAt core).lclk r1 + 1
      if stampMax < tp then none
      else if ws1.isEmpty then some (closeRegion s core g tp)
      else
        let s1 := putRegion s core { g with pub := some ([], tp, ws1) }
        some (ws1.foldl (fun s k =>
          let c := (l1Find s core k).getD { st := .U, data := 0, wts := 0, rts := 0 }
          send s 0 (k / 4) (siteOf core) (homeOfKey s k) (s.coreAt core).epoch (.publish core g.id k tp c.udata c.umask)) s1)

/-- A faulting sector of a region: its U bytes retire into the side log. -/
def dropFrozen (s : State) (core : Nat) (g : Region) (key c d : Nat) : Option State :=
  let cp := (l1Find s core key).getD { st := .U, data := 0, wts := 0, rts := 0 }
  let ch := Tab.get {} s.chains g.chain
  let (wid, s1) := s.fresh
  let s2 := s1.modChain g.chain (fun c => { c with writes := c.writes ++ [{ id := wid, seq := ch.seq, scope := 2, key }] })
  let ent := entOf s2 (regionAcc g core) g.chain (2 ^ 66 + g.id) 0 wid (vaOfKey key) cp.udata cp.umask
    ((lanesOf ch.live).map (fun l => (l, vaOfKey key))) none
  frozen (answer (clearU s2 core key) (key / 4) (homeOfKey s key) core (.logged core ent c d)) core g key none

def serveFreeze (s : State) (m : Msg) (core id key : Nat) (queued : Bool) : Option State :=
  let site := homeOfKey s key
  match regionOf s core id with
  | none => some s
  | some g =>
    match homeGet s g.ctx key true false false with
    | .wait => none
    | .fault s1 c d => dropFrozen s1 core g key c d
    | .ok s1 (.peer t) => if !(peerEpoch s1 core) then none else frozen s1 core g key (some (peerStamp s1 t.pa).2)
    | .ok s1 (.home h) =>
      if !queued && h.st ≠ .Z && busySec h then some (enqueue s1 site key h m)
      else if h.host then (if queued then none else some (askHost (enqueue s1 site key h m) site key))
      else match readyPage s1 site key (some core) queued with
        | none => some (askFlush (keepMsg s1 m) site key ((foreignOwner s1 site key (some core)).getD 0))
        | some s2 =>
          let h2 := (homeFind s2 site key).getD h
          match h2.own, clkFor s2 (s2.sliceAt site).epoch (s2.coreAt core).epoch h2.rts with
          | some x, _ => some (forwardTo s2 site key h2 x m)
          | none, none => none
          | none, some rts => frozen (homeSet s2 site key { h2 with st := .Z, freezes := h2.freezes + 1 }) core g key (some rts)

/-! ## The queue of a sector -/

def serveReq (s : State) (m : Msg) (queued : Bool) : Option State :=
  match m.body with
  | .read acc ch seq pc key clk lease =>
    (match serveStored s m acc ch seq key clk with
     | some s1 => some s1
     | none => serveRead s m acc ch seq pc key clk lease queued)
  | .store acc ch seq pc key wid data mask vas clk after => serveStore s m acc ch seq pc key wid data mask vas clk after queued
  | .atom acc ch seq pc va wid lane vas op cells red clk after ticket =>
    serveAtom s m acc ch seq pc va wid lane vas op cells red clk after ticket queued
  | .freeze core id key => serveFreeze s m core id key queued
  | _ => some s

def isFreeze (m : Msg) : Bool := match m.body with
  | .freeze _ _ _ => true
  | _ => false

def isRead (m : Msg) : Bool := match m.body with
  | .read _ _ _ _ _ _ _ => true
  | _ => false

/-- The request of a sector's queue that is served next: the first, or while it is frozen a freeze (R144). -/
def nextOf (h : HomeSec) : Option Msg :=
  if h.st = .F ∨ h.st = .X then none
  else if h.st = .Z then h.queue.find? isFreeze
  else h.queue.head?

/-- Serves the held requests of a sector in arrival order, as far as it may (R144, R154). -/
def serveQueue : Nat → State → Nat → Nat → State
  | 0, s, _, _ => s
  | n + 1, s, site, key =>
    match homeFind s site key with
    | none => s
    | some h =>
      match nextOf h with
      | none => s
      | some m =>
        let s0 := if h.host && !(isRead m) then askHost s site key else s
        match serveReq (homeSet s0 site key { h with queue := h.queue.filter (fun x => x.id ≠ m.id) }) m true with
        | none => s0
        | some s1 => serveQueue n s1 site key

/-- A region whose core has failed gives back the sectors that it has frozen (R144, R471). -/
def thaw (s : State) (g : Region) : State :=
  match g.pub with
  | none => s
  | some (_, _, ws) =>
    ws.foldl (fun s key =>
      let site := homeOfKey s key
      match homeFind s site key with
      | some h =>
        serveQueue 64 (homeSet s site key { h with freezes := h.freezes - 1, st := if h.freezes ≤ 1 then SSt.L else h.st }) site key
      | none => s) s

/-! ## Events of requests -/

def execHomeRead (msg : Nat) (s : State) : Host.Outcome State Fault Refusal :=
  takeMsg s msg (fun s m => match m.body with
    | .read _ _ _ _ _ _ _ => serveReq s m false
    | _ => none)

def execHomeWriteLease (msg : Nat) (s : State) : Host.Outcome State Fault Refusal :=
  takeMsg s msg (fun s m => match m.body with
    | .store _ _ _ _ _ _ _ _ _ _ _ => serveReq s m false
    | .late acc ch seq pc key wid data mask vas after => serveLate s m acc ch seq pc key wid data mask vas after
    | .lateLocal core ctx ch seq space wid bytes after => serveLateLocal s core ctx ch seq space wid bytes after
    | _ => none)

def execAtomicAtHome (msg : Nat) (s : State) : Host.Outcome State Fault Refusal :=
  takeMsg s msg (fun s m => match m.body with
    | .atom _ _ _ _ _ _ _ _ _ _ _ _ _ _ => serveReq s m false
    | _ => none)

def execPublicationFreeze (msg : Nat) (s : State) : Host.Outcome State Fault Refusal :=
  takeMsg s msg (fun s m => match m.body with
    | .freeze _ _ _ => serveReq s m false
    | _ => none)

/-- A published sector at its home: bytes merged, stamped tp, its freeze lifted (R144). -/
def publishAt (s : State) (g : Region) (core key tp : Nat) (data : BitVec 512) (mask : BitVec 64) : Option State :=
  match homeGet s g.ctx key true false false with
  | .wait => none
  | .fault s1 _ _ => some s1
  | .ok s1 (.peer t) =>
    let new := sectorMerge (BitVec.ofNat 512 (physRead s1 t.pa 64)) data mask
    some (setPeerStamp (physWrite s1 t.pa 64 new.toNat) t.pa tp tp)
  | .ok s1 (.home h) =>
    let site := homeOfKey s1 key
    let (s2, h2) := expandHome s1 g.ctx site key h
    let t := max tp h2.rts
    let h3 := { h2 with data := sectorMerge h2.data data mask, wts := t, rts := t, dirty := true, freezes := h2.freezes - 1,
                        st := if h2.freezes ≤ 1 then SSt.L else h2.st }
    let s3 := logWrite (wake (homeSet s2 site key h3) 2 site key) key
    some (match l1Find s3 core key with
      | some c => if c.st = .Q then l1Set s3 core key { c with data := sectorMerge c.data data mask } else s3
      | none => s3)

def execPublicationWrite (msg : Nat) (s : State) : Host.Outcome State Fault Refusal :=
  takeMsg s msg (fun s m => match m.body with
    | .publish core id key tp0 data mask =>
      let site := homeOfKey s key
      match regionOf s core id, clkFor s m.ep (s.sliceAt site).epoch tp0 with
      | none, _ => some s
      | _, none => none
      | some g, some tp =>
        match publishAt s g core key tp data mask with
        | none => none
        | some s1 =>
          let c := Tab.get {} s1.chains g.chain
          let s2 := noteWrite (clearU s1 core key) (s.sliceAt site).epoch g.chain c.part c.sid 2 tp
          let s3 := match g.pub with
            | some (ks, r, ws) =>
              let ws1 := ws.filter (· ≠ key)
              if ws1.isEmpty then closeRegion s2 core g r else putRegion s2 core { g with pub := some (ks, r, ws1) }
            | none => s2
          some (serveQueue 64 s3 site key)
    | _ => none)

/-- The next ticket of a slice for an access. -/
def takeTicket (s : State) (acc : Acc) (site : Nat) : Nat × State :=
  if acc.scope = 4 ∧ s.designated ≠ s.module then
    (2 ^ 32 + Cells.get 0 s.podTickets site, { s with podTickets := Cells.set 0 s.podTickets site ((Cells.get 0 s.podTickets site + 1) % 2 ^ 32) })
  else (Cells.get 0 s.tickets site, { s with tickets := Cells.set 0 s.tickets site ((Cells.get 0 s.tickets site + 1) % 2 ^ 32) })

/-- The meridian gives the next ticket of a slice; an instruction's lanes ask in lane order. At pod scope the ticket is the designated
module's, which keeps a sequence of its own for the slice where it is another module (R140, R463; log entry 54). -/
def execMeridianTicket (msg : Nat) (s : State) : Host.Outcome State Fault Refusal :=
  takeMsg s msg (fun s m => match m.body with
    | .ticket site (.atom acc ch seq pc va wid lane vas op cells red clk after _) =>
      let before := s.msgs.any (fun x => match x.body with
        | .ticket _ (.atom _ ch2 seq2 _ _ _ _ _ _ _ _ _ _ _) => decide (ch2 = ch ∧ seq2 = seq ∧ x.id < m.id)
        | _ => false)
      if before then none
      else
        let (n, s1) := takeTicket s acc site
        some (send s1 5 m.line 135 site m.ep (.atom acc ch seq pc va wid lane vas op cells red clk after (some n)))
    | _ => none)

/-! ## Owners (R132, R154) -/

/-- An owner's answer to a forward: its data, of which it keeps a clean copy, or that it no longer holds the sector. -/
def execForwardedRead (msg : Nat) (s : State) : Host.Outcome State Fault Refusal :=
  takeMsg s msg (fun s m => match m.body with
    | .forward key x =>
      let site := homeOfKey s key
      let reply (s : State) (b : Body) : State := sendBy s 4 (key / 4) (siteOf x) site (s.coreAt x).epoch b [(clusterOf x, 0)]
      let gone : State :=
        let (w, r) := Tab.get (0, 0) (s.coreAt x).final key
        reply (s.modCore x (fun k => { k with final := Tab.erase k.final key })) (.gone key w r)
      some (match l1Find s x key with
        | some c =>
          if c.st = .O ∧ c.pt = 2 then
            let s1 := exitMonument s x key
            reply (l1Set s1 x key { c with st := if c.umask = 0 then SSt.L else SSt.U, dirty := false }) (.ownerData key c.data c.wts c.rts)
          else gone
        | none => gone)
    | _ => none)

/-- An owner's message takes effect on the home sector, then held requests are served. -/
def atOwned (s : State) (m : Msg) (key w r : Nat) (f : HomeSec → Nat → Nat → HomeSec) : Option State :=
  let site := homeOfKey s key
  let ep := (s.sliceAt site).epoch
  match clkFor s m.ep ep w, clkFor s m.ep ep r, homeFind s site key with
  | some w1, some r1, some h => some (serveQueue 64 (wake (homeSet s site key (f h w1 r1)) 2 site key) site key)
  | some _, some _, none => some s
  | _, _, _ => none

def execOwnerWriteBack (msg : Nat) (s : State) : Host.Outcome State Fault Refusal :=
  takeMsg s msg (fun s m => match m.body with
    | .writeBack key x data w r _ => atOwned s m key w r (fun h w r =>
        if h.own = some x then
          { h with data, wts := w, rts := max h.rts r, dirty := true, own := none, st := if h.st = .F then .X else .L }
        else h)
    | .absorb key data w => absorb? s key data m.ep w
    | _ => none)

def execOwnershipCleanReturn (msg : Nat) (s : State) : Host.Outcome State Fault Refusal :=
  takeMsg s msg (fun s m => match m.body with
    | .cleanReturn key x r => atOwned s m key 0 r (fun h _ r =>
        if h.own = some x then { h with rts := max h.rts r, own := none, st := if h.st = .F then .X else .L } else h)
    | _ => none)

def execOwnerDataAnswer (msg : Nat) (s : State) : Host.Outcome State Fault Refusal :=
  takeMsg s msg (fun s m => match m.body with
    | .ownerData key data w r => atOwned s m key w r (fun h w r =>
        if h.st = .F then { h with data, wts := w, rts := max h.rts r, dirty := true, own := none, st := .L } else h)
    | _ => none)

def execGoneAnswer (msg : Nat) (s : State) : Host.Outcome State Fault Refusal :=
  takeMsg s msg (fun s m => match m.body with
    | .gone key w r => atOwned s m key w r (fun h w r =>
        if h.st = .X ∨ h.st = .F then { h with wts := max h.wts w, rts := max h.rts r, own := none, st := .L } else h)
    | _ => none)

def execPageFlush (msg : Nat) (s : State) : Host.Outcome State Fault Refusal :=
  takeMsg s msg (fun s m => match m.body with
    | .pageFlush page core =>
      if pageMark s m.src page = some (.priv core) then some (flushPage s m.src page core) else some s
    | _ => none)

/-- The host has given the line up: held writes proceed (R454). -/
def execBackInvalidateResponse (msg : Nat) (s : State) : Host.Outcome State Fault Refusal :=
  takeMsg s msg (fun s m => match m.body with
    | .backInv key =>
      let site := homeOfKey s key
      match homeFind s site key with
      | some h => some (serveQueue 64 (homeSet s site key { h with host := false }) site key)
      | none => some s
    | _ => none)

end Sys2Proof.Machine
end

