-- ==== Sys2Proof/Machine/CoreEvents.lean ====
section
/-!
DEFINITION. What reaches a core (R125, R126, R182, R231, R242, R249, R252), spin-parking (R39, R127), the chain sets
(R37, R38), the timeout of a redundant pair (R189) and rebasing (R128, R129).
-/
namespace Sys2Proof.Machine

/-! ## Answers -/

/-- Fills the levels that a load's answer passes (R125, R132). -/
def fillLevels (s : State) (core key : Nat) (data : BitVec 512) (wts rts fill cmp : Nat) : State :=
  match fill with
  | 0 => s
  | 1 => l1Fill s core key data wts rts (cmp ≠ 0)
  | 2 =>
    let s1 := l2Fill s (clusterOf core) key data wts rts (if cmp = 0 then none else some (cmp - 1))
    l1Fill s1 core key data wts rts (cmp ≠ 0)
  | _ =>
    if pageMark s (homeOfKey s key) (pageOfKey key) = some (.priv core) then qFill s core key { st := .L, data, wts, rts } else s

/-- What an outstanding load still waits for after units have been served or cancelled. -/
def Out.keep (o : Out) (us : List LUnit) : Out := { o with units := us, cells := us.flatMap (·.cells) }

/-- Replaces an outstanding result, dropping it when nothing is left. -/
def putOut (c : Chain) (seq : Nat) (o : Out) : Chain :=
  { c with outs := (c.outs.map (fun x => if x.seq = seq then o else x)).filter (fun x => x.seq ≠ seq || !x.cells.isEmpty) }

/-- A sector's bytes reach the units that await it: finished units land in their registers (R231). -/
def landUnits (s : State) (ch seq key : Nat) (data : BitVec 512) : State :=
  match (Tab.get {} s.chains ch).outs.find? (fun o => o.seq = seq) with
  | none => s
  | some o =>
    let us := o.units.map (fun u => fillUnit u key data)
    let ws := (us.filter (fun u => u.keys.isEmpty)).flatMap (fun u => let r := unitRegs u; r.1 ++ flagCell r.2)
    modMate (writeNow s ch seq ws) ch seq (fun c => putOut c seq (o.keep (us.filter (fun u => !u.keys.isEmpty))))

/-- Each lane's first unit notes the wts that a synchronising load found (R33). -/
def noteUnits (s : State) (ch : Nat) (o : Out) (key wts : Nat) : State :=
  (o.units.zipIdx.filter (fun x => x.1.keys.contains (key, 0) && !((o.units.take x.2).any (fun u => u.lane = x.1.lane)))).foldl
    (fun s x => noteSeen s ch x.1.lane x.1.va wts) s

def execLoadResponse (msg : Nat) (s : State) : Host.Outcome State Fault Refusal :=
  takeMsg s msg (fun s m => match m.body with
    | .readAns acc ch seq key data wts0 rts0 t0 fill cmp =>
      let ep := (s.coreAt acc.core).epoch
      match clkFor s m.ep ep wts0, clkFor s m.ep ep rts0, clkFor s m.ep ep t0 with
      | some wts, some rts, some t =>
        let sync := acc.share = 2 && fill ≠ 3
        let s1 := cluFor (fillLevels (cluFor s acc.core) acc.core key data wts rts fill cmp) acc.core
        let s2 := if sync then raiseLclk s1 acc.core t else s1
        (match (Tab.get {} s2.chains ch).outs.find? (fun o => o.seq = seq) with
         | none => some s2
         | some o =>
           let s3 := landUnits s2 ch seq key (if acc.cv then data else seenData s2 ch seq key data)
           let s4 := if sync then noteUnits s3 ch o key wts else s3
           some (if sync && o.first then noteRenewal s4 ch key wts 2 { acc, pc := o.pc, lanes := o.lanes, units := o.all, seq } else s4))
      | _, _, _ => none
    | _ => none)

def execStoreWriteGrant (msg : Nat) (s : State) : Host.Outcome State Fault Refusal :=
  takeMsg s msg (fun s m => match m.body with
    | .grant ch core wid t0 =>
      match clkFor s m.ep (s.coreAt core).epoch t0 with
      | some t => some (dropWrite (raiseLclk s core t) ch wid)
      | none => none
    | _ => none)

/-- An atomic's old value lands and its flags enter FPST (R227, R241, R242). -/
def execAtomicReturn (msg : Nat) (s : State) : Host.Outcome State Fault Refusal :=
  takeMsg s msg (fun s m => match m.body with
    | .atomAns ch core seq wid lane cells old fmt dw fl t0 _ =>
      match clkFor s m.ep (s.coreAt core).epoch t0 with
      | none => none
      | some t =>
        let s1 := dropWrite (raiseLclk s core t) ch wid
        match (Tab.get {} s1.chains ch).outs.find? (fun o => o.seq = seq) with
        | none => some s1
        | some o =>
          let r := oldRegs { lane, va := 0, op := { op := 0, fmt, dw, x := 0, cmp := 0 }, cells, vas := [] } old
          let s2 := writeNow s1 ch seq (r.1 ++ flagCell (r.2 ||| fl))
          some (modMate s2 ch seq (fun c => putOut c seq { o with cells := o.cells.filter (fun x => !(cells.contains x)) }))
    | _ => none)

/-! ## Faults that return (R182, R249, R252) -/

/-- Lanes join a record, in their chain and in the partner that shares the instruction (R188). -/
def parkPair (s : State) (ch seq rid : Nat) (m : Mask) : State :=
  let s1 := parkFor s ch rid m
  match mateOf s ch seq with
  | some j => parkFor s1 j rid m
  | none => s1

/-- Adds to a record what its retry sends again. -/
def addRedo (s : State) (rid : Nat) (m : Mask) (us : List LUnit) (redo : List Body) : State :=
  match Tab.find s.recs rid with
  | some r => { s with recs := Tab.put s.recs rid { r with past := r.past ||| m, units := r.units ++ us, redo := r.redo ++ redo } }
  | none => s

/-- The lanes a returning fault reaches, each with its TVAL: the unit's address, or for an expansion that failed that of the
line (R160, R295). -/
def faultLanes (o : Out) (us : List LUnit) (key cause : Nat) : List LaneFault :=
  us.flatMap (fun u =>
    let tval := if cause = 0x51 then vaOfKey key / 256 * 256 else u.va
    if u.lane = 32 then (lanesOf o.lanes).map (fun l => { lane := l, cause, tval }) else [{ lane := u.lane, cause, tval }])

/-- A load's fault returns: every unit of the lanes it reaches is cancelled and kept for the retry. -/
def loadFault (s : State) (ch seq pc key cause detail : Nat) (redo : Body) : State :=
  match (Tab.get {} s.chains ch).outs.find? (fun o => o.seq = seq) with
  | none => s
  | some o =>
    let hit := o.units.filter (fun u => u.keys.any (fun k => k.1 = key))
    if hit.isEmpty then s
    else
      let lanes := hit.map (·.lane)
      let gone := o.units.filter (fun u => lanes.contains u.lane)
      let s1 := modMate s ch seq (fun c => putOut c seq (o.keep (o.units.filter (fun u => !(lanes.contains u.lane)))))
      let fs := faultLanes o hit key cause
      let (rid, s2) := record s1 ch seq pc false fs detail
      addRedo (parkPair s2 ch seq rid (faultMask fs)) rid (faultMask fs) gone [redo]

/-- An atomic's fault returns to its lanes. -/
def atomFault (s : State) (ch seq pc cause detail : Nat) (redo : Body) (cells : List CellId) (vas : List (Nat × Nat)) : State :=
  match (Tab.get {} s.chains ch).outs.find? (fun o => o.seq = seq) with
  | none => s
  | some o =>
    let s1 := modMate s ch seq (fun c => putOut c seq { o with cells := o.cells.filter (fun x => !(cells.contains x)) })
    let fs : List LaneFault := vas.map (fun v => { lane := v.1, cause, tval := v.2 })
    let (rid, s2) := record s1 ch seq pc false fs detail
    addRedo (parkPair s2 ch seq rid (faultMask fs)) rid (faultMask fs) [] [redo]

/-- A side-log entry enters in issue order (R249). -/
def insertSide (l : List SideEnt) (e : SideEnt) : List SideEnt :=
  l.filter (fun x => x.seq ≤ e.seq) ++ e :: l.filter (fun x => e.seq < x.seq)

/-- The write of an entry as a request again (R252). -/
def entBody (s : State) (e : SideEnt) : Body :=
  match e.atom with
  | none => .store e.acc e.chain e.seq e.pc (keyFor s e.acc.ctx e.va) e.wid e.data e.mask e.vas 0 []
  | some o => .atom e.acc e.chain e.seq e.pc e.va e.wid 0 e.vas o [] true 0 [] none

/-- A write's fault returns: it retires into the side log, or its lanes park when the log has no room; what a retry sends again is then
no write on its way (R252). -/
def writeFault (s00 : State) (core : Nat) (e : SideEnt) (cause detail : Nat) : State :=
  let s := endHold s00 e.chain e.wid
  let fs : List LaneFault := e.vas.map (fun v => { lane := v.1, cause, tval := v.2 })
  if (s.coreAt core).side.length < 512 then
    let (rid, s1) := record s e.chain e.seq e.pc true fs detail
    s1.modCore core (fun k => { k with side := insertSide k.side { e with rid } })
  else
    let (rid, s1) := record s e.chain e.seq e.pc false fs detail
    addRedo (parkPair (dropWrite s1 e.chain e.wid) e.chain e.seq rid (faultMask fs)) rid (faultMask fs) [] [entBody s e]

def execMemorySideFaultReturn (msg : Nat) (s : State) : Host.Outcome State Fault Refusal :=
  takeMsg s msg (fun s m => match m.body with
    | .fault ch _ seq pc _ cause _ detail (.read acc ch2 seq2 pc2 key clk lease) =>
      some (loadFault s ch seq pc key cause detail (.read acc ch2 seq2 pc2 key clk lease))
    | .fault ch _ seq pc _ cause _ detail (.atom acc ch2 seq2 pc2 va wid lane vas op cells red clk after tk) =>
      some (atomFault (dropWrite s ch wid) ch seq pc cause detail
        (.atom acc ch2 seq2 pc2 va wid lane vas op cells red clk after tk) cells vas)
    | .logged core e cause detail => some (writeFault s core e cause detail)
    | _ => none)

/-! ## Spin-park (R39, R127) -/

/-- A spin-parked chain may issue again: it reissues the load, which renews its lease (R39, R127). None while the load must wait. -/
def unspin (s : State) (ch : Nat) (p : SpinLoad) : Option State :=
  reload { (s.modChain ch (fun c => { c with spinPark := none, renew := some p.key, eligSince := (s.coreAt (coreOf ch)).cc })) with
    spins := s.spins.filter (fun r => r.2.2.2.1 ≠ ch) } ch p.seq p.acc p.pc p.lanes p.units true

/-- The load that spin-parked a chain on a sector. -/
def spunOn (s : State) (ch key : Nat) : Option SpinLoad := (Tab.get {} s.chains ch).spinPark.filter (fun p => p.key = key)

def execSpinParkRegistration (msg : Nat) (s : State) : Host.Outcome State Fault Refusal :=
  takeMsg s msg (fun s m => match m.body with
    | .spinReg ch key wts0 _ =>
      let site := homeOfKey s key
      match clkFor s m.ep (s.sliceAt site).epoch wts0 with
      | none => none
      | some wts =>
        let cur := if isPeerKey key then some (peerStamp s (peerKeyPa key)).1 else (homeFind s site key).map (·.wts)
        if (spunOn s ch key).isNone then some s
        else if cur = some wts then some { s with spins := s.spins ++ [(2, site, key, ch, wts)] }
        else some (send s 4 (key / 4) site (siteOf (coreOf ch)) (s.sliceAt site).epoch (.spinWake ch key))
    | _ => none)

def execSpinParkWake (msg : Nat) (s : State) : Host.Outcome State Fault Refusal :=
  takeMsg s msg (fun s m => match m.body with
    | .spinWake ch key =>
      (match spunOn s ch key with
       | some p => unspin s ch p
       | none => some s)
    | _ => none)

def execSpinParkTimeout (core slot : Nat) (s : State) : Host.Outcome State Fault Refusal :=
  let ch := 16 * core + slot
  match (Tab.get {} s.chains ch).spinPark with
  | some p => .next (if p.since + 4096 ≤ (s.coreAt core).cc then (unspin s ch p).getD s else s)
  | none => .next s

/-! ## The active and pending sets (R37, R38) -/

/-- The exchange at a cycle's start (R37); a core's turn makes it too (`arrange`), so that the schedule cannot pass it over. -/
def execChainSetExchange (core : Nat) (s : State) : Host.Outcome State Fault Refusal :=
  .next (swapOut 1 (((issuersOf s core).filter (fun e => e.2.active && mustSwap e.2)).map (·.1)) s core)

/-- The promotion at a cycle's start (R38), made by a core's turn too. -/
def execPendingChainPromotion (core : Nat) (s : State) : Host.Outcome State Fault Refusal := .next (promote s core)

/-! ## Redundant pairs (R189, R191) -/

def execRedundantPairTimeout (core slot : Nat) (s : State) : Host.Outcome State Fault Refusal :=
  let ch := 16 * core + slot
  let c := Tab.get {} s.chains ch
  match c.held, c.pair with
  | some (_, t), some p =>
    if (s.coreAt core).cc < t + 65536 then .next s
    else
      let at_ (i : Nat) : Nat := ((pickEntry (Tab.get {} s.chains i).frontier).map (fun e => e.1.pc)).getD 0
      let pc := if c.shadow then at_ p else at_ ch
      let s1 := faultChain (faultChain s ch 0x1C (pairTval true pc) (at_ ch)) p 0x1C (pairTval true pc) (at_ p)
      .next (s1.modCore core (fun k => { k with seq := k.seq + 1 }))
  | _, _ => .next s

/-! ## Rebasing (R128, R129) -/

def overClock (t : Nat) : Bool := 0xC00000 ≤ t

def overCopies (l : Tab Copy) : Bool := l.any (fun e => overClock e.2.wts || overClock e.2.rts)

/-- Some unit has produced a clock or a stamp of 0xC0_0000 or above. -/
def rebaseDue (s : State) : Bool :=
  s.cores.any (fun e => overClock e.2.lclk || overCopies e.2.l1) || s.clusters.any (fun e => overCopies e.2.l2) ||
    s.slices.any (fun e => e.2.secs.any (fun x => overClock x.2.wts || overClock x.2.rts)) ||
    s.peerStamps.any (fun e => overClock e.2.1 || overClock e.2.2)

/-- The stamps that a chain keeps, lowered. -/
def lowerChain (c : Chain) : Chain :=
  let low (m : Grp) : Grp := { m with stamp := lowerT m.stamp, top := lowerT m.top }
  let lows (c : Cells Grp) : Cells Grp := (c.map (fun e => (e.1, low e.2))).filter (fun e => e.2 ≠ {})
  { c with syncSeen := c.syncSeen.map (fun x => (x.1, lowerT (x.2 - 1) + 1)),
           spin := c.spin.map (fun p => { p with wts := lowerT p.wts }),
           cpy := lows c.cpy, xfm := lows c.xfm, mat := lows c.mat, qnt := lows c.qnt, ten := lows c.ten }

def lowerCmd (c : Cmd) : Cmd := { c with readTime := lowerT c.readTime, stamp := lowerT c.stamp }

/-- The clock and stamps that a core keeps, lowered, and its L1 swept; its epoch bit toggles. -/
def lowerCore (k : Core) : Core :=
  let l1 := sweepCopies k.l1
  let k1 : Core :=
    { k with lclk := lowerT k.lclk, epoch := !k.epoch, l1, lru := keepLines k.lru l1,
             final := k.final.map (fun e => (e.1, (lowerT e.2.1, lowerT e.2.2))),
             regions := k.regions.map (fun g => { g with pub := g.pub.map (fun p => (p.1, lowerT p.2.1, p.2.2)) }) }
  { k1 with copyq := k.copyq.map lowerCmd, matq := k.matq.map lowerCmd, qntq := k.qntq.map lowerCmd, tenq := k.tenq.map lowerCmd }

/-- The broadcast leaves the meridian: stamps kept outside cores and caches (peer sectors, rings, surveys, what is saved of
pre-empted contexts) are of its epoch from then on. -/
def startRebase (s : State) : State :=
  { s with rebase := { active := true, queued := false, epoch := !s.rebase.epoch },
           rings := s.rings.map (fun e => (e.1, { e.2 with t := (e.2.t.map (fun x => (x.1, lowerT x.2))).filter (fun x => x.2 ≠ 0) })),
           queues := s.queues.map (fun e => (e.1, { e.2 with data := e.2.data.map (fun x => (x.1, lowerT x.2)) })),
           savedCores := s.savedCores.map (fun e => (e.1, lowerCore e.2)),
           saved := s.saved.map (fun e => (e.1, e.2.map (fun x => (x.1, { lowerChain x.2 with top := lowerT x.2.top })))),
           chains := s.chains.map (fun e => (e.1, { e.2 with top := lowerT e.2.top })),
           surveys := s.surveys.map (fun e => (e.1, { e.2 with tc := lowerT e.2.tc, clock := lowerT e.2.clock })),
           peerStamps := (s.peerStamps.map (fun e => (e.1, (lowerT e.2.1, lowerT e.2.2)))).filter (fun e => e.2 ≠ (0, 0)) }

def execRebaseNotice (s : State) : Host.Outcome State Fault Refusal :=
  if !(rebaseDue s) then .next s
  else if s.rebase.active then .next { s with rebase := { s.rebase with queued := true } }
  else .next (startRebase s)

/-- A core receives REBASE: its clock and the stamps it keeps are lowered, its L1 swept. -/
def execRebaseBroadcastReceipt (core : Nat) (s : State) : Host.Outcome State Fault Refusal :=
  let k := s.coreAt core
  if k.epoch == s.rebase.epoch then .next s
  else
    let s1 := (chainsOf s core).foldl (fun s e => s.modChain e.1 lowerChain) s
    .next ((s1.setCore core (lowerCore k)).modCluster (clusterOf core) (fun u =>
      { u with xfmq := u.xfmq.map (fun c => if c.core = core then lowerCmd c else c) }))

/-- A cache sweeps its tags: level 1 a cluster cache, 2 a slice. An L1 is swept when its core receives the broadcast. -/
def execCacheRebaseSweep (level index : Nat) (s : State) : Host.Outcome State Fault Refusal :=
  if level = 1 ∧ (s.clusterAt index).epoch ≠ s.rebase.epoch then .next (sweepL2 s index)
  else if level = 2 ∧ (s.sliceAt index).epoch ≠ s.rebase.epoch then .next (sweepSlice s index)
  else .next s

/-- The meridian declares the rebase complete once every unit has taken part and no message of the older epoch can still arrive
(R129); a queued notice starts the next. -/
def execRebaseComplete (s : State) : Host.Outcome State Fault Refusal :=
  let ep := s.rebase.epoch
  if !s.rebase.active || s.cores.any (fun e => e.2.epoch != ep) || s.clusters.any (fun e => e.2.epoch != ep) ||
      s.slices.any (fun e => e.2.epoch != ep) ||
      s.msgs.any (fun m => m.ep != ep && !(s.fencedPairs.contains (m.cls, m.src, m.dst))) then .next s
  else if s.rebase.queued then .next (startRebase s)
  else .next { s with rebase := { s.rebase with active := false } }

end Sys2Proof.Machine
end

