-- ==== Sys2Proof/Machine/HomePort.lean ====
section
/-!
DEFINITION. Accesses that units without a core make at the home slice (R131, R151, R389, R426, R429): the dispatch and
context engines and the host.
-/
namespace Sys2Proof.Machine

/-- A read of one sector for such a unit, of which a page is shared from then on; with a lease it renews as a synchronising
load at clock clk does, without one it grants nothing. -/
def portRead (s : State) (ctx key clk : Nat) (lease : Option Nat) : Res Read :=
  match homeGet s ctx key false false false with
  | .fault s1 c d => .fault s1 c d
  | .wait => .wait
  | .ok s1 (.peer t) =>
    let (w, r) := peerStamp s1 t.pa
    let c := max clk w
    let s2 := match lease with
      | some n => setPeerStamp s1 t.pa w (max r (c + n))
      | none => s1
    .ok s2 { data := BitVec.ofNat 512 (physRead s1 t.pa 64), wts := w, t := c }
  | .ok s1 (.home h) =>
    let site := homeOfKey s1 key
    if !(quiet h) || !(passEpoch s1 site) then .wait
    else
      let (s2, _) := pageClass s1 site key none
      let (s3, h3) := recallOwner s2 site key ((homeFind s2 site key).getD h)
      match lease with
      | some n =>
        let (s4, r, _) := homeLease s3 site key clk n true h3
        .ok s4 r
      | none => .ok s3 { data := h3.data, wts := h3.wts, t := max clk h3.wts }

/-- A write of bytes of one sector by such a unit: its stamp. -/
def portWrite (s : State) (ctx key : Nat) (data : BitVec 512) (mask : BitVec 64) (clk : Nat) : Res Nat :=
  match homeGet s ctx key true false (mask = BitVec.allOnes 64) with
  | .fault s1 c d => .fault s1 c d
  | .wait => .wait
  | .ok s1 (.peer _) => homeWrite s1 ctx none key data mask clk
  | .ok s1 (.home _) =>
    let site := homeOfKey s1 key
    if !(passEpoch s1 site) then .wait
    else
      let (s2, _) := pageClass s1 site key none
      homeWrite s2 ctx none key data mask clk

/-- Reads pieces of a range, lowest address first. -/
def portPieces (ctx clk : Nat) (lease : Option Nat) : List (Nat × Nat) → State → Nat → Nat → EngRes Nat
  | [], s, _, v => .ok s v
  | (a, n) :: r, s, sh, v =>
    match portRead s ctx (keyFor s ctx a) clk lease with
    | .ok s1 x => portPieces ctx clk lease r s1 (sh + 8 * n) (v + sectorBytes x.data (a % 64) n * 2 ^ sh)
    | .fault s1 c d => .fault s1 c a d
    | .wait => .wait

/-- Reads n bytes at an address of a context. -/
def portBytes (s : State) (ctx a n clk : Nat) (lease : Option Nat) : EngRes Nat := portPieces ctx clk lease (pieces a n) s 0 0

/-- Writes n bytes of a value at an address of a context: the largest stamp. -/
def portPutAll (ctx clk : Nat) : SecWrites → State → Nat → EngRes Nat
  | [], s, t => .ok s t
  | e :: r, s, t =>
    match portWrite s ctx (keyFor s ctx (64 * e.1)) e.2.1 e.2.2 clk with
    | .ok s1 x => portPutAll ctx clk r s1 (max t x)
    | .fault s1 c d => .fault s1 c (64 * e.1) d
    | .wait => .wait

def portPut (s : State) (ctx a n v clk : Nat) : EngRes Nat := portPutAll ctx clk (putBytes [] a n v) s 0

end Sys2Proof.Machine
end

