-- ==== Sys2Proof/Machine/Matrix.lean ====
section
/-!
DEFINITION. The matrix engine (R316 to R341): MMA, MMAC, AREL, AZERO, AREAD, AWRITE, MWAIT, MSTAT, the landing of K steps,
the transfers of accumulators, the clearing of slots and the faults of commands.
-/
namespace Sys2Proof.Machine

/-! ## Accumulator slots (R318, R319) -/

/-- Slots that a resident chain of the core holds. -/
def heldSlots (s : State) (core : Nat) : List Nat :=
  ((s.chains.filter (fun e => coreOf e.1 = core)).flatMap (fun e => e.2.accs.map (·.2))).eraseDups

/-- The cleared free slots, ascending. -/
def freeSlots (s : State) (core : Nat) : List Nat :=
  (List.range 8).filter (fun i => !((heldSlots s core).contains i) && !((s.coreAt core).clearing.contains i))

/-- The mapping of accumulators that a chain does not hold to the lowest free slots; none when too few are free. -/
def mapSlots (s : State) (c : Chain) (core : Nat) (as : List Nat) : Option (List (Nat × Nat)) :=
  let new := as.filter (fun a => (Tab.find c.accs a).isNone)
  let fr := freeSlots s core
  if fr.length < new.length then none else some (new.zip fr)

/-- The bytes of a slot (R319). -/
def slotRng (s : State) (slot : Nat) : Rng :=
  { tag := 2 * s.selChain.ctx, space := 3, lo := 16384 * slot, hi := 16384 * slot + 16383 }

/-- The slot of an accumulator once the mapping is made. -/
def slotWith (c : Chain) (maps : List (Nat × Nat)) (a : Nat) : Nat :=
  ((Tab.find c.accs a).or ((maps.find? (fun m => m.1 = a)).map (·.2))).getD 0

/-- The mask of accumulators that a chain would hold. -/
def holdMask (c : Chain) (as : List Nat) : Nat :=
  (List.range 8).foldl (fun m a => if as.contains a || (Tab.find c.accs a).isSome then m + 2 ^ a else m) 0

/-- The quota (R318): 0x58 names the mask. -/
def quotaCheck (c : Chain) (as : List Nat) : Option (Nat × Nat) :=
  let m := holdMask c as
  if c.kern.acc < popN 8 m then some (0x58, m) else none

/-- An AREL of the chain that has not performed names one of the accumulators: a later command stands behind it (R331). -/
def arelPending (s : State) (as : List Nat) : Bool :=
  (engQueue s .matrix s.selCore).any (fun c => decide (c.chain = s.sel.chain) && (match c.ins with
    | .arel _ f => as.any (fun a => bit f.imm.toNat a)
    | _ => false))

/-- The slots that a matrix command's accumulators `first` take when it is accepted now. -/
def mapsFor (s : State) (first : List Nat) : List (Nat × Nat) := (mapSlots s s.selChain s.selCore first).getD []

/-- A matrix instruction: its checks, the accumulators it names, which it writes or reads (R317, R318, R325). It waits while
too few slots are free, and behind an AREL of its accumulators. -/
def matOffer (s : State) (i : Instr) (grp : Nat) (ks : List W128) (ss : List Nat) (mode scope : Nat) (first : List Nat)
    (srcs dsts : List Rng) (wr : Bool) (checks : List (Option (Nat × Nat))) : Offer :=
  let slots := first.map (slotWith s.selChain (mapsFor s first))
  let acc := slots.map (slotRng s)
  { fault := firstFault checks, cmd := { (newCmd s .matrix i grp ks ss) with mode, keep := slots }, scope,
    srcs := srcs ++ (if wr then [] else acc), dsts := dsts ++ (if wr then acc else []), own := true,
    held := (mapSlots s s.selChain s.selCore first).isNone || arelPending s first }

/-- The chain holds the accumulators that a command writes first. -/
def mapIn (s : State) (first : List Nat) : State :=
  let maps := mapsFor s first
  s.modChain s.sel.chain (fun x => { x with accs := maps.foldl (fun t m => Tab.put t m.1 m.2) x.accs })

/-- Accepts a matrix command. -/
def acceptMatrix (s : State) (h : Hdr) (first : List Nat) (o : Offer) : Host.Outcome State Fault Refusal :=
  orTrap s h o (if offerReady s o then .next (finish (takeIn (mapIn s first) o) h) else .next (offerWait s o))

/-! ## The format word and the vote (R323, R324) -/

/-- Every active lane's format word agrees with the elected lane's, or the divergence fault. -/
def voteCheck (s : State) (r : Nat) : Option (Nat × Nat) :=
  let w (l : Nat) : Nat := s.selChain.readG r l s.sel.t0
  let f := w (lowestLane s.sel.act)
  match (lanesOf s.sel.act).find? (fun l => w l ≠ f) with
  | some l => some (0x04, f + 2 ^ 32 * l)
  | none => none

def fmtWord (s : State) (r : Nat) : Nat := s.selChain.readG r (lowestLane s.sel.act) s.sel.t0

def wordFA (w : Nat) : Nat := bits w 4 0
def wordFB (w : Nat) : Nat := bits w 9 5

/-- A format word that R323 calls valid. -/
def fmtWordOk (cplx : Bool) (w : Nat) : Bool :=
  let fa := wordFA w
  let fb := wordFB w
  decide (w / 2 ^ 14 = 0) && decide (bits w 12 10 ≤ 5) &&
    (if cplx then decide (fa = 14 ∧ fb = 14)
     else decide (bits w 13 13 = 0) && ((Fmt.isBS fa && Fmt.isBS fb) || decide (fa = 8 ∧ fb = 8)))

/-! ## MMA and MMAC at issue (R320, R325, R327) -/

/-- Bytes of n K indices of a row. -/
def rowBytes (fmt n : Nat) : Nat := if Fmt.isBS fmt then n / 16 * Fmt.size fmt false else n * Fmt.size fmt false

/-- Check 4 of an operand: spaces and formats. -/
def matSpace (kreg : Nat) (p : Ptr) (fmt : Nat) : Option (Nat × Nat) :=
  if [0, 1, 2, 4].contains p.space && (p.fmt = fmt || p.fmt = 0) then none else some (0x5C, kreg)

/-- Check 6 of an operand: extent, space and alignment over the whole operand. -/
def matExtent (s : State) (p : Ptr) (unit rows stride row : Nat) : Option (Nat × Nat) :=
  let n := (rows - 1) * stride + row
  if p.len < n then some (0x0A, p.base)
  else match spaceFault s s.selChain p p.base n with
    | some f => some f
    | none => if p.base % unit ≠ 0 ∨ stride % unit ≠ 0 then some (0x0B, p.base) else none

def matUnit (fmt : Nat) : Nat := if Fmt.isBS fmt then 1 else Fmt.size fmt false

/-- The unit of an MMA operand: a raw one is read in the format word's format (R320). -/
def mmaUnit (p : Ptr) (fmt : Nat) : Nat := if p.fmt ≠ 0 then matUnit p.fmt else if fmt = 8 ∨ fmt = 14 then matUnit fmt else 1

/-- Check 2 of an operand, on BASE alone; an accumulator operand is refused by check 4 (R319, R320). -/
def matCheck (s : State) (kreg : Nat) (p : Ptr) (write : Bool) (unit : Nat) : Option (Nat × Nat) :=
  match operandCheck s kreg p none write p.base 1 (p.base % unit = 0) with
  | some (0x59, _) => if p.base % unit = 0 then none else some (0x0B, p.base)
  | r => r

def mmaM (w : Nat) : Nat := bits w 21 16 + 1
def mmaN (w : Nat) : Nat := bits w 29 24 + 1
def mmaK (w : Nat) : Nat := bits w 15 0

/-- The accumulator field of MMA, MMAC, AREAD and AWRITE. -/
def matAcc (f : F4) : Nat := bits f.imm.toNat 9 7
def matGrp (f : F4) : Nat := bits f.imm.toNat 12 10

/-- What MMA and MMAC ask for. -/
def mmaOffer (f : F4) (s : State) (i : Instr) (cplx : Bool) : Offer :=
  let r := bits f.imm.toNat 6 0
  let a := kPtr s f 0
  let b := kPtr s f 1
  let w := fmtWord s r
  let p := sOp s f 0
  let sa := sOp s f 1
  let sb := sOp s f 2
  let ra := rowBytes (wordFA w) (mmaK p)
  let rb := rowBytes (wordFB w) (mmaK p)
  let ctx := s.selChain.ctx
  let rnd : BitVec 3 := BitVec.ofNat 3 (bits w 12 10)
  matOffer s i (matGrp f) [kOp s f 0, kOp s f 1] [p, sa, sb, w] (modeOf s.selChain rnd) (widest [a, b]) [matAcc f]
    (rngOf s ctx a a.base ((mmaM p - 1) * sa + ra) ++ rngOf s ctx b b.base ((mmaN p - 1) * sb + rb)) [] true
    [voteCheck s r, matCheck s f.pb.toNat a false (mmaUnit a (wordFA w)), matCheck s (f.pb.toNat + 1) b false (mmaUnit b (wordFB w)),
     (if fmtWordOk cplx w then none else some (0x5A, w)),
     matSpace f.pb.toNat a (wordFA w), matSpace (f.pb.toNat + 1) b (wordFB w),
     (if bits p 31 30 ≠ 0 ∨ bits p 23 22 ≠ 0 ∨ mmaK p % 16 ≠ 0 ∨ (cplx ∧ 32 < mmaN p) then some (0x5B, p + 2 ^ 32 * f.sop.toNat) else none),
     matExtent s a (matUnit (wordFA w)) (mmaM p) sa ra, matExtent s b (matUnit (wordFB w)) (mmaN p) sb rb,
     quotaCheck s.selChain [matAcc f]]

def execMma (h : Hdr) (f : F4) (s : State) : Host.Outcome State Fault Refusal :=
  acceptMatrix s h [matAcc f] (mmaOffer f s (.mma h f) false)
def execMmac (h : Hdr) (f : F4) (s : State) : Host.Outcome State Fault Refusal :=
  acceptMatrix s h [matAcc f] (mmaOffer f s (.mmac h f) true)

/-! ## AREAD and AWRITE at issue (R333, R334) -/

def shapeM (w : Nat) : Nat := bits w 21 16 + 1
def shapeN (w : Nat) : Nat := bits w 29 24 + 1
def shapeCol (w : Nat) : Nat := bits w 13 8
def shapeRow (w : Nat) : Nat := bits w 5 0

/-- A shape word that R333 calls valid for a memory format. -/
def shapeOk (fmt w : Nat) : Bool :=
  let cols := if Fmt.isCplx fmt then 32 else 64
  decide (bits w 31 30 = 0 ∧ bits w 23 22 = 0 ∧ bits w 15 14 = 0 ∧ bits w 7 6 = 0) &&
    decide (shapeRow w + shapeM w ≤ 64 ∧ shapeCol w + shapeN w ≤ cols) &&
    (!(Fmt.isBS fmt) || decide (shapeN w % 16 = 0 ∧ shapeCol w % 16 = 0))

/-- The format of a region's elements: FP32 words, or CF32 pairs. -/
def tileFmt (fmt : Nat) : Nat := if Fmt.isCplx fmt then 15 else 9

/-- What AREAD (rd) and AWRITE ask for. -/
def moveOffer (f : F4) (s : State) (i : Instr) (rd : Bool) : Offer :=
  let p := kPtr s f 0
  let st := sOp s f 0
  let w := sOp s f 1
  let wrap := bit f.sub.toNat 3
  let row := rowBytes p.fmt (shapeN w)
  let n := (shapeM w - 1) * st + row
  let mr := rngOf s s.selChain.ctx p p.base n
  let pairOk := p.fmt = 0 || (if rd then convertible (tileFmt p.fmt) p.fmt else convertible p.fmt (tileFmt p.fmt))
  let lines := ((List.range (shapeM w)).flatMap (fun i => linesOf (p.base + i * st) row)).eraseDups
  let o := matOffer s i (matGrp f) [kOp s f 0] [st, w] (modeOf s.selChain (f.sub.extractLsb' 0 3) + (if wrap then 8 else 0)) p.scope [matAcc f]
    (if rd then [] else mr) (if rd then mr else []) (!rd)
    [matCheck s f.pb.toNat p rd (matUnit p.fmt),
     (if [0, 1, 2, 4].contains p.space && pairOk then none else some (0x5C, f.pb.toNat)),
     (if wrap && p.fmt = 0 then some (0x01, s.sel.word.toNat) else none),
     (if shapeOk p.fmt w then none else some (0x5B, w + 2 ^ 32 * (f.sop.toNat + 1))),
     matExtent s p (matUnit p.fmt) (shapeM w) st row,
     (if rd && (Tab.find s.selChain.accs (matAcc f)).isNone then some (0x59, matAcc f) else none),
     (if rd then none else quotaCheck s.selChain [matAcc f]),
     (if rd && inRegion (s.coreAt s.selCore) mr then some (0x41, p.base) else none)]
  { o with touch := some lines }

def execAread (h : Hdr) (f : F4) (s : State) : Host.Outcome State Fault Refusal :=
  acceptMatrix s h [matAcc f] (moveOffer f s (.aread h f) true)
def execAwrite (h : Hdr) (f : F4) (s : State) : Host.Outcome State Fault Refusal :=
  acceptMatrix s h [matAcc f] (moveOffer f s (.awrite h f) false)

/-! ## Queue order (R317) -/

/-- Easement entries of a command. -/
def cmdEases (s : State) (c : Cmd) : List Ease := (s.coreAt c.core).ease.filter (fun e => e.id = c.id)

/-- Two commands conflict: one accumulator, or a memory range that one of them writes. -/
def conflicts (s : State) (x y : Cmd) : Bool :=
  (cmdEases s x).any (fun a => (cmdEases s y).any (fun b =>
    decide (a.tag = b.tag) && decide (a.space = b.space) && decide (a.lo ≤ b.hi) && decide (b.lo ≤ a.hi) &&
      (a.dst || b.dst || decide (a.space = 3))))

def Cmd.isMma (c : Cmd) : Bool :=
  match c.ins with
  | .mma _ _ => true
  | .mmac _ _ => true
  | _ => false

def Cmd.isArel (c : Cmd) : Bool :=
  match c.ins with
  | .arel _ _ => true
  | _ => false

/-- Commands that stand before one in the queue. -/
def matBefore (s : State) (c : Cmd) : List Cmd := (engQueue s .matrix c.core).takeWhile (fun x => x.id ≠ c.id)

/-- No earlier command of the queue conflicts with it; the array runs MMAs in queue order, and a stopped one holds its
accumulator. -/
def matReady (s : State) (c : Cmd) : Bool :=
  (matBefore s c).all (fun y =>
    if c.isMma && y.isMma then (if y.stopped.isSome then !(conflicts s c y) else false) else !(conflicts s c y))

/-! ## Releasing and zeroing (R331, R332) -/

/-- Unmaps accumulators of a chain: their slots are to be cleared. -/
def unmapAccs (s : State) (ch : Nat) (as : List Nat) : State :=
  let slots := as.filterMap (fun a => Tab.find (Tab.get {} s.chains ch).accs a)
  (modPair s ch (fun c => { c with accs := as.foldl (fun t a => Tab.erase t a) c.accs })).modCore (coreOf ch)
    (fun k => { k with clearing := k.clearing ++ slots })

/-- The accumulators of a mask. -/
def maskAccs (m : Nat) : List Nat := (List.range 8).filter (fun a => bit m a)

/-- Commands that wait for nothing in the queue perform at once: each AREL that no earlier command holds back. -/
def settleArels : Nat → State → Nat → State
  | 0, s, _ => s
  | fuel + 1, s, core =>
    match (engQueue s .matrix core).find? (fun c => c.isArel && matReady s c) with
    | none => s
    | some c =>
      let m := match c.ins with
        | .arel _ f => bits f.imm.toNat 7 0
        | _ => 0
      let s1 := dropEases (dropCmd s c) core c.id
      let s2 := match ownerOf s1 c with
        | some _ => unmapAccs s1 c.chain (maskAccs m)
        | none => s1
      settleArels fuel (releaseExit s2 c.chain) core

def settleMatrix (s : State) (core : Nat) : State := settleArels 8 s core

/-- The accumulators that AREL names and its chain holds. -/
def arelAccs (f : F4) (s : State) : List Nat := (maskAccs (bits f.imm.toNat 7 0)).filter (fun a => (Tab.find s.selChain.accs a).isSome)

def arelOffer (h : Hdr) (f : F4) (s : State) : Offer := matOffer s (.arel h f) 99 [] [] 0 0 (arelAccs f s) [] [] true []

/-- AREL performs at once when no earlier command of the queue holds it back (R331). -/
def execArel (h : Hdr) (f : F4) (s : State) : Host.Outcome State Fault Refusal :=
  let o := arelOffer h f s
  if offerReady s o then .next (settleMatrix (finish (takeIn s o) h) s.selCore) else .next (offerWait s o)

def azeroAccs (f : F4) : List Nat := maskAccs (bits f.imm.toNat 7 0)

def azeroOffer (h : Hdr) (f : F4) (s : State) : Offer :=
  matOffer s (.azero h f) (matGrp f) [] [] 0 0 (azeroAccs f) [] [] true [quotaCheck s.selChain (azeroAccs f)]

def execAzero (h : Hdr) (f : F4) (s : State) : Host.Outcome State Fault Refusal := acceptMatrix s h (azeroAccs f) (azeroOffer h f s)

/-- A slot's 16,384 bytes become +0. -/
def zeroSlot (s : State) (core slot : Nat) : State :=
  s.modCore core (fun k => { k with accm := k.accm.filter (fun e => !(decide (16384 * slot ≤ e.1 ∧ e.1 < 16384 * (slot + 1)))) })

/-- A slot is cleared once no command works on it: those of a chain that has ended complete first (R331). -/
def execAccumulatorSlotCleared (core slot : Nat) (s : State) : Host.Outcome State Fault Refusal :=
  if (s.coreAt core).clearing.contains slot && !((s.coreAt core).ease.any (fun e => decide (e.space = 3) && decide (e.lo / 16384 = slot))) then
    .next ((zeroSlot s core slot).modCore core (fun k => { k with clearing := k.clearing.filter (· ≠ slot) }))
  else .next s

/-! ## Operand lines (R321, R322) -/

/-- Every way of a line's set of the cluster cache is pinned: no line enters it (R322). -/
def l2Pinned (s : State) (clu line : Nat) : Bool :=
  let k := s.clusterAt clu
  let same := (k.lru.filter (fun x => x % 512 = line % 512)).filter (· ≠ line)
  decide (16 - k.ways ≤ same.length) && same.all (fun x => k.l2.any (fun e => e.1 / 4 = x && !e.2.pins.isEmpty))

/-- A tile fetch of one sector: through the L1, the cluster cache, else the home, filling the cluster cache. -/
def tileSector (s : State) (acc : Acc) (key clock : Nat) : Res (BitVec 512) :=
  match l1Find s acc.core key with
  | some c => if l1Serves c clock then .ok (l1Touch s acc.core key) (viewCopy c) else fetch s
  | none => fetch s
where
  fetch (s : State) : Res (BitVec 512) :=
    match fillPrivate s acc key clock false with
    | .fault s1 c d => .fault s1 c d
    | .wait => .wait
    | .ok s1 _ =>
      match l2Find s1 (clusterOf acc.core) key with
      | some c => .ok s1 c.data
      | none =>
        match l1Find s1 acc.core key with
        | some c => if c.st = .Q then .ok s1 (viewCopy c) else straight s1
        | none => straight s1
  straight (s : State) : Res (BitVec 512) :=
    match cohRead s { acc with nt := true } key clock false with
    | .ok s1 r => .ok s1 r.data
    | .fault s1 c d => .fault s1 c d
    | .wait => .wait

/-- Sets or clears a core's pins on a line of its cluster cache. -/
def setPins (s : State) (core line : Nat) (on : Bool) : State :=
  s.modCluster (clusterOf core) (fun k =>
    { k with l2 := k.l2.map (fun e =>
        if e.1 / 4 = line then (e.1, { e.2 with pins := if on then core :: e.2.pins.filter (· ≠ core) else e.2.pins.filter (· ≠ core) })
        else e) })

/-- Fetches a global line, pinned: its 256 bytes, and 1 when its set's pins kept it out of the cluster cache. -/
def tileLine (s : State) (acc : Acc) (clock line : Nat) : EngRes (Nat × Nat) :=
  let r := (List.range 4).foldl (fun (r : EngRes Nat) i => r.bind (fun s v =>
    match tileSector s acc (4 * line + i) clock with
    | .ok s1 x => .ok s1 (v + x.toNat * 2 ^ (512 * i))
    | .fault s1 c d => .fault s1 c (vaOfKey (4 * line + i)) d
    | .wait => .wait)) (EngRes.ok s 0)
  r.bind (fun s1 v =>
    let clu := clusterOf acc.core
    let out := (List.range 4).all (fun i => (l2Find s1 clu (4 * line + i)).isNone && (l1Find s1 acc.core (4 * line + i)).isNone)
    .ok (setPins s1 acc.core line true) (v, if out && l2Pinned s1 clu line then 1 else 0))

/-- Operand A (0) or B (1) of a command: pointer, format, rows, stride. -/
structure MatOp where
  p : Ptr
  fmt : Nat
  rows : Nat
  stride : Nat
deriving DecidableEq, Repr, Inhabited

def Cmd.opA (c : Cmd) : MatOp :=
  { p := ptrAt c.ks 0, fmt := wordFA (c.ss.getD 3 0), rows := mmaM (c.ss.getD 0 0), stride := c.ss.getD 1 0 }
def Cmd.opB (c : Cmd) : MatOp :=
  { p := ptrAt c.ks 1, fmt := wordFB (c.ss.getD 3 0), rows := mmaN (c.ss.getD 0 0), stride := c.ss.getD 2 0 }

namespace MatOp
/-- Bytes that a K step takes of a row. -/
def size (o : MatOp) : Nat := rowBytes o.fmt 16
/-- The address of row i in K step j. -/
def addr (o : MatOp) (i j : Nat) : Nat := o.p.base + i * o.stride + j * o.size
/-- The lines of K step j, ascending (R321). -/
def stepLines (o : MatOp) (j : Nat) : List Nat :=
  (((List.range o.rows).flatMap (fun i => linesOf (o.addr i j) o.size)).eraseDups).mergeSort (fun a b => decide (a ≤ b))
end MatOp

/-- K steps of a command. -/
def Cmd.steps (c : Cmd) : Nat := mmaK (c.ss.getD 0 0) / 16

/-- A line of an operand as staging names it: global lines by their tag, the others by their space. -/
def stageId (s : State) (c : Cmd) (p : Ptr) (line : Nat) : Nat :=
  if p.space ≠ 0 then 2 ^ 120 + p.space * 2 ^ 60 + line
  else keyFor s c.ctx (256 * line) / 4 + (if p.cv then 2 ^ 121 else 0)

/-- The lines of step j in the order they are requested: A before B, each ascending (R321). -/
def stepIds (s : State) (c : Cmd) (j : Nat) : List (Nat × Ptr × Nat) :=
  if c.steps ≤ j then []
  else [c.opA, c.opB].foldl (fun l o => l ++ ((o.stepLines j).map (fun x => (stageId s c o.p x, o.p, x))).filter (fun x =>
    !(l.any (fun y => y.1 = x.1)))) []

/-- Fetches a line of an operand: its bytes, and whether it was delivered unpinned. -/
def stageLine (s : State) (c : Cmd) (p : Ptr) (line : Nat) : EngRes (Nat × Nat) :=
  if p.space = 0 ∧ !p.cv then tileLine s (engAcc c.ctx c.core p) c.readTime (keyFor s c.ctx (256 * line) / 4)
  else if absent (s.coreAt c.core) p.space (256 * line) then .wait
  else (rdBytes s c.ctx c.core c.readTime p (256 * line) 256).bind (fun s1 v => .ok s1 (v, 0))

/-- Lines of a step enter staging, each once (R321, R322). -/
def stageLines : List (Nat × Ptr × Nat) → State → Cmd → EngRes Cmd
  | [], s, c => .ok s c
  | x :: r, s, c =>
    if c.stage.any (fun e => e.1 = x.1) then stageLines r s c
    else (stageLine s c x.2.1 x.2.2).bind (fun s1 v =>
      stageLines r s1 { c with stage := c.stage ++ [(x.1, v.1)], cnt := c.cnt + v.2 })

/-- Bytes of an operand as staging holds them. -/
def stagedBytes (s : State) (c : Cmd) (p : Ptr) (a n : Nat) : Nat :=
  (linesOf a n).foldl (fun v l =>
    let lo := max a (256 * l)
    let hi := min (a + n) (256 * l + 256)
    let x := ((c.stage.find? (fun e => e.1 = stageId s c p l)).map (·.2)).getD 0
    v + x / 2 ^ (8 * (lo - 256 * l)) % 2 ^ (8 * (hi - lo)) * 2 ^ (8 * (lo - a))) 0

/-- Lines lose their core's pins, but those that staging holds for some command but one. -/
def unpin (s : State) (c : Cmd) (ids : List Nat) : State :=
  let others : List Cmd := (engQueue s .matrix c.core).filter (fun x => decide (x.id ≠ c.id))
  (ids.filter (fun i => !(others.any (fun x => x.stage.any (fun e => e.1 = i))))).foldl (fun s i => setPins s c.core i false) s

/-- Lines leave staging, and their pins with them. -/
def unstage (s : State) (c : Cmd) (keep : Nat → Bool) : State × Cmd :=
  (unpin s c ((c.stage.map (·.1)).filter (fun i => !(keep i))), { c with stage := c.stage.filter (fun e => keep e.1) })

/-! ## A K step (R328, R329) -/

/-- The 16 elements of a row of a BS or BF16 operand. -/
def realRow (fmt x : Nat) : List FVal :=
  if Fmt.isBS fmt then bsDecode (Fmt.bsM fmt) x
  else (List.range 16).map (fun i => fdecode .bf16 (x / 2 ^ (16 * i) % 2 ^ 16))

/-- The 16 complex elements of a row. -/
def cplxRow (x : Nat) : List (FVal × FVal) :=
  (List.range 16).map (fun i => (fdecode .bf16 (x / 2 ^ (32 * i) % 2 ^ 16), fdecode .bf16 (x / 2 ^ (32 * i + 16) % 2 ^ 16)))

/-- The rows of an operand for a step. -/
def stepRows (s : State) (c : Cmd) (o : MatOp) (j : Nat) : List Nat :=
  (List.range o.rows).map (fun i => stagedBytes s c o.p (o.addr i j) o.size)

/-- The address of word n of row m of a command's slot. -/
def Cmd.cell (c : Cmd) (m n : Nat) : Nat := 16384 * c.keep.getD 0 0 + 256 * m + 4 * n

/-- One cell of MMA: the new word and its flags. -/
def mmaCell (mode old : Nat) (a b : List FVal) : Rounded := blockAccumulate mode old a b

/-- One complex cell of MMAC over the 16 indices of a step. -/
def mmacCell (mode : Nat) (conj : Bool) (old : Nat × Nat) (a b : List (FVal × FVal)) : (Nat × Nat) × Flags :=
  (a.zip b).foldl (fun (acc : (Nat × Nat) × Flags) x =>
    let y := if conj then (x.2.1, x.2.2.negate) else x.2
    let (p, f1) := cplxMul .f32 mode x.1.1 x.1.2 y.1 y.2
    let (re, f2) := fadd .f32 mode (fdecode .f32 acc.1.1) (fdecode .f32 p.1)
    let (im, f3) := fadd .f32 mode (fdecode .f32 acc.1.2) (fdecode .f32 p.2)
    ((re, im), acc.2 ||| f1 ||| f2 ||| f3)) (old, 0)

def Cmd.isInit (c : Cmd) : Bool :=
  match c.ins with
  | .mma _ f => bit f.sub.toNat 0
  | .mmac _ f => bit f.sub.toNat 0
  | _ => false

def Cmd.isCplx (c : Cmd) : Bool :=
  match c.ins with
  | .mmac _ _ => true
  | _ => false

/-- The cells of the output region: row, column. -/
def Cmd.region (c : Cmd) : List (Nat × Nat) :=
  (List.range c.opA.rows).flatMap (fun m => (List.range c.opB.rows).map (fun n => (m, n)))

/-- +0 over the output region (.init). -/
def initRegion (s : State) (c : Cmd) : State :=
  c.region.foldl (fun s x =>
    if c.isCplx then localWrite s c.core 3 (c.cell x.1 (2 * x.2)) 8 0 else localWrite s c.core 3 (c.cell x.1 x.2) 4 0) s

/-- All cells of a step. -/
def stepCells (s : State) (c : Cmd) (as bs : List Nat) : State × Flags :=
  c.region.foldl (fun (acc : State × Flags) x =>
    let a := as.getD x.1 0
    let b := bs.getD x.2 0
    if c.isCplx then
      let at_ := c.cell x.1 (2 * x.2)
      let old := localRead acc.1 c.core 3 at_ 8
      let (v, fl) := mmacCell c.mode (bit (c.ss.getD 3 0) 13) (old % 2 ^ 32, old / 2 ^ 32) (cplxRow a) (cplxRow b)
      (localWrite acc.1 c.core 3 at_ 8 (v.1 + 2 ^ 32 * v.2), acc.2 ||| fl)
    else
      let at_ := c.cell x.1 x.2
      let (v, fl) := mmaCell c.mode (localRead acc.1 c.core 3 at_ 4) (realRow c.opA.fmt a) (realRow c.opB.fmt b)
      (localWrite acc.1 c.core 3 at_ 4 v, acc.2 ||| fl)) (s, 0)

/-- Step j of a command: the lines that staging lacks are fetched, the cells accumulate, the next step's lines are asked for, and
lines that it does not touch leave staging (R321, R322). A next step whose lines meet a fault or must wait holds this one up not
(R340). -/
def matStep (s : State) (c : Cmd) (j : Nat) : EngRes Cmd :=
  (stageLines (stepIds s c j) s c).bind (fun s1 c1 =>
    let s2 := if j = 0 && c.isInit then initRegion s1 c else s1
    let (s3, fl) := stepCells s2 c (stepRows s1 c1 c.opA j) (stepRows s1 c1 c.opB j)
    let c3 := { c1 with next := j + 1, flags := c.flags ||| fl }
    let nxt := stepIds s c (j + 1)
    let (s4, c4) := match stageLines nxt s3 c3 with
      | .ok s' c' => (s', c')
      | _ => (s3, c3)
    let (s5, c5) := unstage s4 c4 (fun k => nxt.any (fun x => x.1 = k))
    .ok s5 c5)

/-- A matrix command completes. -/
def matDone (s : State) (c : Cmd) : State := settleMatrix (complete s c (fun g => { g with aux := g.aux + c.cnt })) c.core

/-- The MMA whose step the array runs next. -/
def matHead (s : State) (core : Nat) : Option Cmd := (engQueue s .matrix core).find? (fun c => c.isMma && c.stopped.isNone && matReady s c)

def execMmaStepLanding (core : Nat) (s : State) : Host.Outcome State Fault Refusal :=
  match matHead s core with
  | none => .next s
  | some c =>
    if c.steps = 0 then .next (matDone (if c.isInit then initRegion s c else s) c)
    else match matStep s c c.next with
      | .ok s1 c1 => .next (if c1.next < c1.steps then putCmd s1 c1 else matDone s1 c1)
      | _ => .next s

/-! ## Transfers (R333 to R335) -/

/-- One item of a transfer: memory address, bytes, accumulator address. -/
structure Item where
  a : Nat
  size : Nat
  acc : Nat
deriving DecidableEq, Repr, Inhabited

/-- The items of a region in row order: words, pairs, or BS blocks of 16 columns. -/
def Cmd.items (c : Cmd) : List Item :=
  let p := ptrAt c.ks 0
  let st := c.ss.getD 0 0
  let w := c.ss.getD 1 0
  let z := Fmt.size p.fmt false
  (List.range (shapeM w)).flatMap (fun i =>
    let m := shapeRow w + i
    if Fmt.isBS p.fmt then (List.range (shapeN w / 16)).map (fun b =>
      { a := p.base + i * st + b * z, size := z, acc := c.cell m (shapeCol w + 16 * b) })
    else (List.range (shapeN w)).map (fun n =>
      { a := p.base + i * st + n * z, size := z, acc := c.cell m ((if Fmt.isCplx p.fmt then 2 else 1) * (shapeCol w + n)) }))

/-- The lines of a transfer in ascending order. -/
def Cmd.moveLines (c : Cmd) : List Nat :=
  ((c.items.flatMap (fun x => linesOf x.a x.size)).eraseDups).mergeSort (fun a b => decide (a ≤ b))

/-- An accumulator item in the memory format (R334). -/
def readItem (s : State) (c : Cmd) (x : Item) : Nat × Flags :=
  let fmt := (ptrAt c.ks 0).fmt
  let mode := c.mode % 8
  if Fmt.isBS fmt then
    bsEncode (Fmt.bsM fmt) ((List.range 16).map (fun i => fdecode .f32 (localRead s c.core 3 (x.acc + 4 * i) 4))) mode
  else
    let tf := tileFmt fmt
    let v := localRead s c.core 3 x.acc (Fmt.size tf false)
    if fmt = 0 then (v, 0) else convValue tf fmt mode (decide (8 ≤ c.mode)) v

/-- A memory item into the accumulator. -/
def writeItem (s : State) (c : Cmd) (x : Item) (v : Nat) : State × Flags :=
  let fmt := (ptrAt c.ks 0).fmt
  let mode := c.mode % 8
  if Fmt.isBS fmt then
    ((List.range 16).foldl (fun s i => localWrite s c.core 3 (x.acc + 4 * i) 4 (fencode .f32 mode (bsDecode1 (Fmt.bsM fmt) v i)).1) s, 0)
  else
    let tf := tileFmt fmt
    let (y, fl) := if fmt = 0 then (v, 0) else convValue fmt tf mode (decide (8 ≤ c.mode)) v
    (localWrite s c.core 3 x.acc (Fmt.size tf false) y, fl)

/-- The sectors of one line that an AREAD writes. -/
def areadLine (s : State) (c : Cmd) (line : Nat) : SecWrites × Flags :=
  (c.items.filter (fun x => (linesOf x.a x.size).contains line)).foldl (fun (l : SecWrites × Flags) x =>
    let (v, fl) := readItem s c x
    let lo := max x.a (256 * line)
    let hi := min (x.a + x.size) (256 * line + 256)
    (putBytes l.1 lo (hi - lo) (v / 2 ^ (8 * (lo - x.a))), l.2 ||| fl)) ([], 0)

/-- The next line of an AREAD or AWRITE. -/
def moveLine (s : State) (c : Cmd) (line : Nat) : EngRes Cmd :=
  let p := ptrAt c.ks 0
  match c.ins with
  | .aread _ _ =>
    let (l, fl) := areadLine s c line
    (wrSectors c.ctx c.core c.readTime p l s 0).bind (fun s1 t =>
      .ok (setPresent s1 c.core p.space (256 * line) 256) { c with next := c.next + 1, stamp := max c.stamp t, flags := c.flags ||| fl })
  | _ =>
    if absent (s.coreAt c.core) p.space (256 * line) then .wait
    else
      let xs := c.items.filter (fun x => x.a / 256 = line)
      (xs.foldl (fun (r : EngRes Flags) x => r.bind (fun s fl =>
        (rdBytes s c.ctx c.core c.readTime p x.a x.size).bind (fun s1 v =>
          let (s2, g) := writeItem s1 c x v
          .ok s2 (fl ||| g)))) (EngRes.ok s 0)).bind (fun s1 fl => .ok s1 { c with next := c.next + 1, flags := c.flags ||| fl })

/-- Lines of a transfer up to its end or the first that meets a fault. -/
def moveAll : List Nat → State → Cmd → EngRes Cmd
  | [], s, c => .ok s c
  | l :: r, s, c =>
    match moveLine s c l with
    | .ok s1 c1 => moveAll r s1 c1
    | .fault s1 e v d => .fault (putCmd s1 c) e v d
    | .wait => .wait

/-- The transfer that may start first: it names no accumulator or range of an earlier command. -/
def moveHead (s : State) (core : Nat) : Option Cmd :=
  (engQueue s .matrix core).find? (fun c => !c.isMma && !c.isArel && c.stopped.isNone && matReady s c)

def execAccumulatorTransferComplete (core : Nat) (s : State) : Host.Outcome State Fault Refusal :=
  match moveHead s core with
  | none => .next s
  | some c =>
    match c.ins with
    | .azero _ _ => .next (matDone (c.keep.foldl (fun s i => zeroSlot s core i) s) c)
    | _ =>
      match moveAll (c.moveLines.drop c.next) s c with
      | .ok s1 c1 => .next (matDone s1 c1)
      | _ => .next s

/-! ## Faults (R340) -/

/-- What a fault kept out of staging is pinned no more. -/
def unpinNew (s : State) (c : Cmd) : State :=
  unpin s c (((stepIds s c c.next).map (·.1)).filter (fun i => !(c.stage.any (fun e => e.1 = i))))

def execMatrixFault (core : Nat) (s : State) : Host.Outcome State Fault Refusal :=
  let arr := match matHead s core with
    | none => none
    | some c => if c.steps = 0 then none else match matStep s c c.next with
      | .fault s1 e v d => some (stopCmd (unpinNew s1 c) c e v d)
      | _ => none
  match arr with
  | some s1 => .next s1
  | none =>
    match moveHead s core with
    | none => .next s
    | some c =>
      match moveAll (c.moveLines.drop c.next) s c with
      | .fault s1 e v d => .next (stopCmd s1 (((engQueue s1 .matrix core).find? (fun x => x.id = c.id)).getD c) e v d)
      | _ => .next s

/-- TRET.skip and TRET.kill give a stopped command up (R340). -/
def abandonMatrix (s : State) (c : Cmd) : State :=
  let s1 := (unstage s c (fun _ => false)).1
  let s2 := match c.ins with
    | .aread _ _ => c.moveLines.foldl (fun s l => setPresent s c.core (ptrAt c.ks 0).space (256 * l) 256) s1
    | _ => s1
  settleMatrix (releaseExit (noteCmd (dropEases (dropCmd s2 c) c.core c.id) c) c.chain) c.core

/-! ## MWAIT and MSTAT (R336, R337) -/

def execMwait (h : Hdr) (f : F4) (s : State) : Host.Outcome State Fault Refusal :=
  let gs := if bit f.sub.toNat 0 then List.range 8 else [matGrp f]
  let p := fun g => gs.contains g
  match stoppedBefore s .matrix p with
  | some c => .next (raiseGroup s h c)
  | none =>
    if !(waitsFor s .matrix p).isEmpty then .next (orWait s h f.nb f.pw 2)
    else
      let s1 := waitDone s (sumGrps s.selChain .matrix gs)
      .next (advanceUniform (landV s1 2 (if f.nb then pwCells s f.pw true else [])) h)

/-- The status word of R337, as that of R270. -/
def matStatus (g : Grp) : Nat := min 255 g.ncmd * 2 ^ 24 + min 65535 g.aux * 2 ^ 8 + g.flags.toNat % 64

def execMstatGrp (h : Hdr) (f : F4) (s : State) : Host.Outcome State Fault Refusal :=
  let g := s.selChain.grp .matrix (matGrp f)
  let s1 := s.modChain s.sel.chain (fun c => c.setGrp .matrix (matGrp f) { stamp := g.stamp, top := g.top })
  .next (advanceUniform (landV s1 4 [sCell f 0 (matStatus g)]) h)

def execMstatAcc (h : Hdr) (f : F4) (s : State) : Host.Outcome State Fault Refusal :=
  let c := s.selChain
  let w := (freeSlots s s.selCore).length * 2 ^ 12 + c.kern.acc % 16 * 2 ^ 8 + holdMask c []
  .next (advanceUniform (landV s 4 [sCell f 0 w]) h)

end Sys2Proof.Machine
end

