-- ==== Sys2Proof/Machine/Quantise.lean ====
section
/-!
DEFINITION. The quantise engine (R342 to R363): HCLR, HACC, HPCT, SFOLD, QNT, DQNT, QSTAT, the passes of commands, folds of
scale words, completions and faults.
-/
namespace Sys2Proof.Machine

/-! ## Operands (R348 to R350) -/

def quantGrp (f : F4) : Nat := bits f.imm.toNat 4 2
def quantHist (f : F4) : Nat := bits f.imm.toNat 1 0

/-- Step 1 of R348 on a pointer: an accumulator that is not held is judged later. -/
def quantCheck (s : State) (kreg : Nat) (p : Ptr) (write : Bool) (n : Nat) (aligned : Bool) : Option (Nat × Nat) :=
  if p.valid ∧ p.space = 3 then
    (if write ∧ p.share = 1 then some (0x08, p.base)
     else if !(homeOk s s.selChain.ctx s.selCore p) then some (0x09, p.base)
     else if p.len < n ∨ 131072 < p.base + n then some (0x0A, p.base)
     else if aligned then none else some (0x0B, p.base))
  else operandCheck s kreg p none write p.base n aligned

/-- Step 2: spaces and formats. -/
def quantForm (kreg : Nat) (p : Ptr) (spaces fmts : List Nat) : Option (Nat × Nat) :=
  if spaces.contains p.space && fmts.contains p.fmt then none else some (0x60, kreg)

/-- Step 4: n bytes fit within LEN and the space. -/
def quantFits (p : Ptr) (n : Nat) : Option (Nat × Nat) :=
  if p.len < n ∨ (Ptr.spaceSize p.space).getD (2 ^ 57) < p.base + n then some (0x0A, p.base) else none

def srcSpaces : List Nat := [0, 1, 2, 3, 4]
def memSpaces : List Nat := [0, 1, 2, 4]
def bsFmts : List Nat := [11, 12, 13]
def ieeeFmts : List Nat := [7, 8, 9]

/-- Step 5: every accumulator that a range reaches is held. -/
def accHeldCheck (s : State) (p : Ptr) (n : Nat) : Option (Nat × Nat) :=
  if p.space ≠ 3 then none
  else match (accPieces p.base n).find? (fun x => (accAddr s.selChain x.1).isNone) with
    | some x => some (0x59, x.1)
    | none => none

/-- The easement ranges of an operand: physical slot bytes in space 3. -/
def quantRng (s : State) (p : Ptr) (n : Nat) : List Rng :=
  if p.space ≠ 3 then rngOf s s.selChain.ctx p p.base n
  else (accPieces p.base n).map (fun x =>
    let a := (accAddr s.selChain x.1).getD 0
    { tag := 2 * s.selChain.ctx, space := 3, lo := a, hi := a + x.2 - 1 })

/-- What a command keeps: the slots of the chain's eight accumulators, whether it has its snapshot, the snapshot, and the
bytes of a destination line that its passes have not completed. -/
def quantKeep (s : State) : List Nat := (List.range 8).map (fun a => (Tab.find s.selChain.accs a).getD 0) ++ [0, 0]

/-- A scale pointer: 4 bytes at its BASE. -/
def scaleCheck (s : State) (kreg : Nat) (p : Ptr) (write : Bool) : Option (Nat × Nat) :=
  quantCheck s kreg p write 4 (p.base % 4 = 0)

/-- A quantise instruction (R343, R350). -/
def quantOffer (s : State) (f : F4) (i : Instr) (ks : List W128) (ss : List Nat) (mode : Nat) (ps : List Ptr)
    (srcs dsts : List Rng) (checks : List (Option (Nat × Nat))) (clear : Bool := true) : Offer :=
  { fault := firstFault checks, cmd := { (newCmd s .quant i (quantGrp f) ks ss) with mode, keep := quantKeep s },
    scope := widest ps, srcs, dsts, own := true, clear }

/-! ## At issue -/

def hclrOffer (h : Hdr) (f : F4) (s : State) : Offer := quantOffer s f (.hclr h f) [] [] 0 [] [] [] []

def haccOffer (h : Hdr) (f : F4) (s : State) : Offer :=
  let p := kPtr s f 0
  let n := sOp s f 0
  let b := elemBytes p.fmt n
  quantOffer s f (.hacc h f) [kOp s f 0] [n] 0 [p] (quantRng s p b) []
    [quantCheck s f.pb.toNat p false 0 (baseAligned p), quantForm f.pb.toNat p srcSpaces (ieeeFmts ++ bsFmts),
     (if Fmt.isBS p.fmt && n % 16 ≠ 0 then some (0x61, n) else none), quantFits p b, accHeldCheck s p b]

def hpctOffer (h : Hdr) (f : F4) (s : State) : Offer :=
  let q := sOp s f 0
  quantOffer s f (.hpct h f) [] [q] 0 [] [] [] [if q = 0 ∨ 100000 < q then some (0x62, q) else none]

/-- A destination in an open publication region. -/
def quantRegion (s : State) (p : Ptr) (n : Nat) : Option (Nat × Nat) :=
  if inRegion (s.coreAt s.selCore) (rngOf s s.selChain.ctx p p.base n) then some (0x41, p.base) else none

def sfoldOffer (h : Hdr) (f : F4) (s : State) : Offer :=
  let p := kPtr s f 0
  let v := sOp s f 0
  quantOffer s f (.sfold h f) [kOp s f 0] [v % 2 ^ 31] 0 [p] [] (rngOf s s.selChain.ctx p p.base 4)
    [scaleCheck s f.pb.toNat p true, quantForm f.pb.toNat p memSpaces [0, 9],
     (if 0x7F800000 < v % 2 ^ 31 then some (0x63, v) else none), quantRegion s p 4] false

/-- A source and a destination that overlap. -/
def quantMeet (s : State) (d p : Ptr) (db sb : Nat) : Option (Nat × Nat) :=
  if p.space ≠ 3 ∧ rngsMeet (rngOf s s.selChain.ctx d d.base db) (rngOf s s.selChain.ctx p p.base sb) then some (0x64, d.base) else none

def quantMode (s : State) (f : F4) : Nat := modeOf s.selChain (f.sub.extractLsb' 0 3)

def qntOffer (h : Hdr) (f : F4) (s : State) : Offer :=
  let d := kPtr s f 0
  let p := kPtr s f 1
  let q := kPtr s f 2
  let k0 := f.pb.toNat
  let n := sOp s f 0
  let db := elemBytes d.fmt n
  let sb := elemBytes p.fmt n
  quantOffer s f (.qnt h f) [kOp s f 0, kOp s f 1, kOp s f 2] [n] (quantMode s f) [d, p, q]
    (quantRng s p sb ++ rngOf s s.selChain.ctx q q.base 4) (rngOf s s.selChain.ctx d d.base db)
    [quantCheck s k0 d true 0 (baseAligned d), quantCheck s (k0 + 1) p false 0 (baseAligned p), scaleCheck s (k0 + 2) q false,
     quantForm k0 d memSpaces bsFmts, quantForm (k0 + 1) p srcSpaces ieeeFmts, quantForm (k0 + 2) q memSpaces [0, 9],
     (if n % 16 ≠ 0 then some (0x61, n) else none), quantFits d db, quantFits p sb, quantMeet s d p db sb, accHeldCheck s p sb,
     quantRegion s d db]

def dqntOffer (h : Hdr) (f : F4) (s : State) : Offer :=
  let d := kPtr s f 0
  let p := kPtr s f 1
  let k0 := f.pb.toNat
  let n := sOp s f 0
  let db := elemBytes d.fmt n
  let sb := elemBytes p.fmt n
  quantOffer s f (.dqnt h f) [kOp s f 0, kOp s f 1] [n] (quantMode s f) [d, p]
    (rngOf s s.selChain.ctx p p.base sb) (rngOf s s.selChain.ctx d d.base db)
    [quantCheck s k0 d true 0 (baseAligned d), quantCheck s (k0 + 1) p false 0 (baseAligned p),
     quantForm k0 d memSpaces ieeeFmts, quantForm (k0 + 1) p memSpaces bsFmts,
     (if n % 16 ≠ 0 then some (0x61, n) else none), quantFits d db, quantFits p sb, quantMeet s d p db sb, quantRegion s d db]

def execHclr (h : Hdr) (f : F4) (s : State) : Host.Outcome State Fault Refusal := accept s h (hclrOffer h f s)
def execHacc (h : Hdr) (f : F4) (s : State) : Host.Outcome State Fault Refusal := accept s h (haccOffer h f s)
def execSfold (h : Hdr) (f : F4) (s : State) : Host.Outcome State Fault Refusal := accept s h (sfoldOffer h f s)
def execQnt (h : Hdr) (f : F4) (s : State) : Host.Outcome State Fault Refusal := accept s h (qntOffer h f s)
def execDqnt (h : Hdr) (f : F4) (s : State) : Host.Outcome State Fault Refusal := accept s h (dqntOffer h f s)

/-- HPCT's results are awaited from its issue on. -/
def awaitHpct (s : State) (f : F4) : State :=
  s.modChain s.sel.chain (fun c => { c with outs := c.outs ++ [{
    seq := s.sel.seq, cells := [.s f.sop.toNat, .s (f.sop.toNat + 1)], acq := false, load := false, units := [], lanes := s.sel.act,
    pc := s.sel.pc }] })

def execHpct (h : Hdr) (f : F4) (s : State) : Host.Outcome State Fault Refusal :=
  let o := hpctOffer h f s
  orTrap s h o (if offerReady s o then .next (awaitHpct (finish (takeIn s o) h) f) else .next (offerWait s o))

/-! ## Histograms (R344, R345) -/

def histGet (s : State) (core h b : Nat) : Nat := Cells.get 0 (s.coreAt core).hist (257 * h + b)

/-- One more count, saturating: whether the counter was full. -/
def histAdd (s : State) (core h b : Nat) : State × Bool :=
  let v := histGet s core h b
  if v = 0xFFFFFFFF then (s, true)
  else (s.modCore core (fun k => { k with hist := Cells.set 0 k.hist (257 * h + b) (v + 1) }), false)

def histClear (s : State) (core h : Nat) : State :=
  s.modCore core (fun k => { k with hist := k.hist.filter (fun e => !(decide (257 * h ≤ e.1 ∧ e.1 < 257 * (h + 1)))) })

/-- The bin of a value, 256 for a NaN. -/
def binOf (v : FVal) : Nat := if v.isNan then 256 else bits (fencode .f32 0 v.abs).1 30 23

/-- HPCT's two words. -/
def percentile (bin : Nat → Nat) (q : Nat) : Nat × Nat :=
  let sum (b : Nat) : Nat := ((List.range b).map bin).foldl (· + ·) 0
  let n := sum 256
  if n = 0 then (0, 0xFFFFFFFF)
  else
    let rank := ceilDiv (q * n) 100000
    let b := (firstBelow 256 (fun b => decide (rank ≤ sum (b + 1)))).getD 255
    (if b ≤ 253 then (b + 1) * 2 ^ 23 else if b = 254 then 0x7F7FFFFF else 0x7F800000, b)

/-! ## Passes (R356 to R358) -/

/-- Reads an operand of a command: space 3 through the slots it keeps. -/
def quantRead (s : State) (c : Cmd) (p : Ptr) (a n : Nat) : EngRes Nat :=
  if p.space = 3 then
    .ok s ((accPieces a n).foldl (fun v x =>
      v + localRead s c.core 3 (16384 * c.keep.getD (x.1 / 16384) 0 + x.1 % 16384) x.2 * 2 ^ (8 * (x.1 - a))) 0)
  else if (linesOf a n).any (fun l => absent (s.coreAt c.core) p.space (256 * l)) then .wait
  else rdBytes s c.ctx c.core c.readTime p a n

def Cmd.qsrc (c : Cmd) : Ptr :=
  match c.ins with
  | .hacc _ _ => ptrAt c.ks 0
  | _ => ptrAt c.ks 1

def Cmd.qn (c : Cmd) : Nat := c.ss.getD 0 0
def Cmd.passes (c : Cmd) : Nat := ceilDiv c.qn 64

/-- Values of n elements of a format from their bytes. -/
def quantVals (fmt x n : Nat) : List FVal :=
  if Fmt.isBS fmt then
    (List.range n).map (fun i => bsDecode1 (Fmt.bsM fmt) (x / 2 ^ (8 * Fmt.size fmt false * (i / 16)) % 2 ^ (8 * Fmt.size fmt false)) (i % 16))
  else
    let z := Fmt.size fmt false
    (List.range n).map (fun i => fdecode (Fmt.ffmt fmt) (x / 2 ^ (8 * z * i) % 2 ^ (8 * z)))

/-- The source values of the next pass. -/
def passVals (s : State) (c : Cmd) : EngRes (List FVal) :=
  let p := c.qsrc
  let lo := 64 * c.next
  let n := min 64 (c.qn - lo)
  (quantRead s c p (p.base + elemBytes p.fmt lo) (elemBytes p.fmt n)).bind (fun s1 x => .ok s1 (quantVals p.fmt x n))

/-- A pass of HACC: its counts are added. -/
def haccPass (s : State) (c : Cmd) (h : Nat) (vs : List FVal) : State × Cmd :=
  let (s1, sat) := vs.foldl (fun (a : State × Bool) v =>
    let (s1, b) := histAdd a.1 c.core h (binOf v)
    (s1, a.2 || b)) (s, false)
  (s1, { c with next := c.next + 1, cnt2 := if sat && decide (c.cnt2 < 2 ^ 32) then c.cnt2 + 2 ^ 32 else c.cnt2 })

/-- Clipping to a limit (R356): the value, and whether it was clipped. -/
def clipTo (lim v : FVal) : FVal × Bool :=
  if !v.isNan && fless lim v.abs then ((if v.neg then lim.negate else lim), true) else (v, false)

/-- The destination bytes of a pass, its flags and its CLIP count. -/
def passBytes (c : Cmd) (vs : List FVal) : List Byte × Flags × Nat :=
  let fd := (ptrAt c.ks 0).fmt
  if Fmt.isBS fd then
    let w := c.keep.getD 9 0
    let lim : FVal := if 0x7F800000 < w then .inf false else fdecode .f32 w
    let cl := vs.map (clipTo lim)
    let n := (cl.filter (·.2)).length
    let blocks := (List.range (ceilDiv vs.length 16)).map (fun j => bsEncode (Fmt.bsM fd) (((cl.map (·.1)).drop (16 * j)).take 16) c.mode)
    (blocks.flatMap (fun b => toBytes (Fmt.size fd false) b.1),
      blocks.foldl (fun f b => f ||| b.2) (if n = 0 then 0 else Flag.sat), n)
  else
    let es := vs.map (fun v => fencode (Fmt.ffmt fd) c.mode v)
    (es.flatMap (fun e => toBytes (Fmt.size fd false) e.1), es.foldl (fun f e => f ||| e.2) 0, 0)

/-- A pass of QNT or DQNT: the destination lines that it completes are written. -/
def writePass (s : State) (c : Cmd) (vs : List FVal) : EngRes Cmd :=
  let d := ptrAt c.ks 0
  let (new, fl, n) := passBytes c vs
  let held := c.keep.drop 10
  let bytes := held ++ new.map (·.toNat)
  let start := d.base + elemBytes d.fmt (64 * c.next) - held.length
  let end_ := start + bytes.length
  let last := decide (c.passes ≤ c.next + 1)
  let cut := if last then end_ else max start (end_ / 256 * 256)
  let now := bytes.take (cut - start)
  let w : EngRes Nat := if now.isEmpty then .ok s 0
    else wrSectors c.ctx c.core c.readTime d (putBytes [] start now.length (ofBytes (now.map (BitVec.ofNat 8)))) s 0
  w.bind (fun s1 t =>
    let s2 := (linesOf start (cut - start)).foldl (fun s l => setPresent s c.core d.space (256 * l) 256) s1
    .ok s2 { c with next := c.next + 1, stamp := max c.stamp t, flags := c.flags ||| fl, cnt := c.cnt + n,
                    keep := c.keep.take 10 ++ bytes.drop (cut - start) })

/-- The read of a scale word at a clock, at the coherence point of its scope (R347): the L1's or the cluster cache's own copy while
it owns it or its lease covers the clock, else one filled from the home, which renews the lease. A sector of the core's own
private page is its Q copy (R125). -/
def snapshotAt (s0 : State) (acc : Acc) (key clock : Nat) : Res Read :=
  let clu := clusterOf acc.core
  let s := cluFor s0 acc.core
  if !(cluOk s acc.core) then .wait
  else match l1Find s acc.core key with
    | some c =>
      if c.st = .Q || (acc.scope = 0 && l1Serves c clock) then
        .ok (if c.st = .O then l1Set s acc.core key { c with rts := max c.rts clock } else l1Touch s acc.core key)
          { data := viewCopy c, wts := c.wts, t := clock }
      else further s clu
    | none => further s clu
where
  further (s : State) (clu : Nat) : Res Read :=
    if 2 ≤ acc.scope then cohRead s { acc with nt := true } key clock false
    else
      let s1 := l2Recall s clu key
      match l2Find s1 clu key with
      | some c =>
        if c.st = .O ∨ (acc.scope = 1 ∧ l2Serves c clock) then
          let rts := if c.st = .O then max c.rts (clock + (s1.ctxAt acc.ctx).lease) else c.rts
          if stampMax < rts then .wait
          else
            let s2 := l2Serve s1 clu key { c with rts }
            .ok (if acc.scope = 0 then l1Fill s2 acc.core key c.data c.wts rts c.exp else s2) { data := c.data, wts := c.wts, t := clock }
        else home s1 clu
      | none => home s1 clu
  home (s : State) (clu : Nat) : Res Read :=
    match cohRead s { acc with nt := true } key clock false with
    | .ok s1 r =>
      match homeFind s1 (homeOfKey s1 key) key with
      | some h =>
        if (l1Find s1 acc.core key).any (fun c => c.st = .Q) then .ok s1 r
        else .ok (if acc.scope = 0 then l1Fill s1 acc.core key r.data r.wts h.rts h.cmp.isSome else l2Fill s1 clu key r.data r.wts h.rts h.cmp) r
      | none => .ok s1 r
    | x => x

/-- The snapshot of a scale word (R347): at the coherence point of its scope, never from a copy below it. -/
def snapshot (s : State) (c : Cmd) (p : Ptr) : EngRes Nat :=
  if p.space ≠ 0 then quantRead s c p p.base 4
  else
    match snapshotAt s (engAcc c.ctx c.core p) (keyFor s c.ctx p.base) c.readTime with
    | .ok s1 x => .ok s1 (sectorBytes x.data (p.base % 64) 4)
    | .fault s1 e d => .fault s1 e p.base d
    | .wait => .wait

/-- QNT's snapshot, once for the command. -/
def withSnapshot (s : State) (c : Cmd) : EngRes Cmd :=
  match c.ins with
  | .qnt _ _ =>
    if c.keep.getD 8 0 = 1 then .ok s c
    else (snapshot s c (ptrAt c.ks 2)).bind (fun s1 w =>
      .ok s1 { c with keep := c.keep.take 8 ++ [1, w], cnt2 := c.cnt2 + (if 0x7F800000 < w then 1 else 0) })
  | _ => .ok s c

/-- The next pass of a command. -/
def quantPass (s : State) (c : Cmd) : EngRes Cmd :=
  (passVals s c).bind (fun s1 vs =>
    match c.ins with
    | .hacc _ f => let (s2, c2) := haccPass s1 c (quantHist f) vs; .ok s2 c2
    | _ => writePass s1 c vs)

/-! ## Events -/

/-- The command that runs: the first of the queue, unless it has stopped, or its context is told to stop and it does not run (R363). -/
def quantHead (s : State) (core : Nat) : Option Cmd :=
  match (s.coreAt core).qntq.head? with
  | some c => if c.stopped.isSome || ((s.ctxAt c.ctx).out && c.started ≠ 1) then none else some c
  | none => none

def Cmd.inPasses (c : Cmd) : Bool :=
  match c.ins with
  | .hacc _ _ => true
  | .qnt _ _ => true
  | .dqnt _ _ => true
  | _ => false

/-- A command's counts enter its group's status. -/
def quantCounts (c : Cmd) (g : Grp) : Grp :=
  { g with aux := g.aux + c.cnt2 % 2 ^ 32, aux2 := g.aux2 + c.cnt, hsat := g.hsat || decide (2 ^ 32 ≤ c.cnt2) }

def quantDone (s : State) (c : Cmd) : State := complete s c (quantCounts c)

def execQuantisePassEnd (core : Nat) (s : State) : Host.Outcome State Fault Refusal :=
  match quantHead s core with
  | none => .next s
  | some c =>
    if !c.inPasses then .next s
    else match withSnapshot s c with
      | .ok s1 c1 =>
        if c1.passes = 0 then .next (quantDone s1 c1)
        else match quantPass s1 c1 with
          | .ok s2 c2 => .next (if c2.next < c2.passes then putCmd s2 { c2 with started := 0 } else quantDone s2 c2)
          | _ => .next s
      | _ => .next s

/-- The fold of a command, at the serving point of R242: the old word and the stamp. -/
def foldWord (s : State) (c : Cmd) : EngRes (Nat × Nat) :=
  let p := ptrAt c.ks 0
  let o : AtomOp := { op := 8, fmt := 5, dw := false, x := c.qn, cmp := 0 }
  if p.space ≠ 0 then
    let old := localRead s c.core p.space p.base 4
    .ok (localWrite s c.core p.space p.base 4 (applyAtom o old).1) (old, 0)
  else
    let acc := engAcc c.ctx c.core p
    let key := keyFor s c.ctx p.base
    let r := if p.scope = 0 then atomL1 s acc key p.base o c.readTime
      else if p.scope = 1 then atomL2 s acc key p.base o c.readTime
      else atomHome s acc key p.base o c.readTime
    match r with
    | .ok s1 x => .ok s1 (x.old, x.stamp)
    | .fault s1 e d => .fault s1 e p.base d
    | .wait => .wait

def execScaleWordFold (core : Nat) (s : State) : Host.Outcome State Fault Refusal :=
  match quantHead s core with
  | none => .next s
  | some c =>
    match c.ins with
    | .sfold _ _ =>
      if c.next ≠ 0 then .next s
      else match foldWord s c with
        | .ok s1 (old, t) =>
          .next (putCmd s1 { c with next := 1, stamp := max c.stamp t, cnt2 := c.cnt2 + (if 0x7F800000 < old then 1 else 0) })
        | _ => .next s
    | _ => .next s

def execHclrHpctSfoldCompletion (core : Nat) (s : State) : Host.Outcome State Fault Refusal :=
  match quantHead s core with
  | none => .next s
  | some c =>
    match c.ins with
    | .hclr _ f => .next (quantDone (histClear s core (quantHist f)) c)
    | .hpct _ f =>
      let (x, b) := percentile (histGet s core (quantHist f)) c.qn
      let s1 := match ownerOf s c with
        | some _ => modPair (writeNow s c.chain c.seq [(.s f.sop.toNat, x), (.s (f.sop.toNat + 1), b)]) c.chain
            (fun k => { k with outs := k.outs.filter (fun o => o.seq ≠ c.seq) })
        | none => s
      .next (quantDone s1 c)
    | .sfold _ _ => if c.next = 1 then .next (quantDone s c) else .next s
    | _ => .next s

def execQuantiseFault (core : Nat) (s : State) : Host.Outcome State Fault Refusal :=
  match quantHead s core with
  | none => .next s
  | some c =>
    if c.inPasses then
      match withSnapshot s c with
      | .fault s1 e v d => .next (stopCmd s1 c e v d)
      | .ok s1 c1 =>
        if c1.passes = 0 then .next s
        else match quantPass s1 c1 with
          | .fault s2 e v d => .next (stopCmd s2 c1 e v d)
          | _ => .next s
      | .wait => .next s
    else match c.ins with
      | .sfold _ _ =>
        if c.next ≠ 0 then .next s
        else match foldWord s c with
          | .fault s1 e v d => .next (stopCmd s1 c e v d)
          | _ => .next s
      | _ => .next s

/-- TRET.skip and TRET.kill give a stopped command up: what its passes counted stays (R362). -/
def abandonQuant (s : State) (c : Cmd) : State :=
  let s1 := match c.ins with
    | .hacc _ _ => s
    | .sfold _ _ => s
    | _ => setPresent s c.core (ptrAt c.ks 0).space (ptrAt c.ks 0).base (elemBytes (ptrAt c.ks 0).fmt c.qn)
  complete s1 c (fun g => quantCounts c { g with ncmd := g.ncmd - 1 })

/-! ## QSTAT (R359) -/

/-- The two status words. -/
def quantStatus (g : Grp) : List Nat :=
  [min 255 g.ncmd * 2 ^ 24 + min 255 g.aux * 2 ^ 16 + (if g.hsat then 128 else 0) + g.flags.toNat, min 0xFFFFFFFF g.aux2]

def execQstatGrp (h : Hdr) (f : F4) (s : State) : Host.Outcome State Fault Refusal :=
  groupWait s h f .quant [quantGrp f] 2 quantStatus

def execQstatAll (h : Hdr) (f : F4) (s : State) : Host.Outcome State Fault Refusal :=
  groupWait s h f .quant (List.range 8) 2 quantStatus

/-- The histogram that a command names. -/
def Cmd.hist? (c : Cmd) : Option Nat :=
  match c.ins with
  | .hclr _ f => some (quantHist f)
  | .hacc _ f => some (quantHist f)
  | .hpct _ f => some (quantHist f)
  | _ => none

def execQstatBin (h : Hdr) (f : F4) (s : State) : Host.Outcome State Fault Refusal :=
  let i := sOp s f 0 % 512
  if 256 < i then .next (trapIssue s h 0x62 (sOp s f 0))
  else if ((waitsFor s .quant (fun _ => true)).any (fun c => c.hist? = some (quantHist f))) then .next (waitLong s)
  else .next (advanceUniform (landV s 4 [sCell f 0 (histGet s s.selCore (quantHist f) i)]) h)

end Sys2Proof.Machine
end

