-- ==== Sys2Proof/Machine/Queues.lean ====
section
/-!
DEFINITION. Data queues (R176, R392, R393): QSEND, QRECV, QPEEK and their operations at the queue's home.
-/
namespace Sys2Proof.Machine

namespace Queue

/-- A launch queue (R392). -/
def launch (q : Queue) : Bool := bit q.cfg.toNat 27
def scope (q : Queue) : Nat := bits q.cfg.toNat 18 16
def cap (q : Queue) : Nat := 2 ^ bits q.cfg.toNat 3 0

/-- Whether n entries may be sent (kind 0), or received or peeked. -/
def fits (q : Queue) (kind n : Nat) : Bool :=
  if kind = 0 then decide (q.data.length + n ≤ q.cap) else decide (n ≤ q.data.length)

end Queue

def queueAt (s : State) (obj : Nat) : Queue := Tab.get { ctx := 0, vdie := 0, clu := 0 } s.queues obj
def setQueue (s : State) (obj : Nat) (q : Queue) : State := { s with queues := Tab.put s.queues obj q }

/-- The queue that a handle names, or the invalid-handle trap (R47). -/
def withQueue (s : State) (h : Hdr) (hnd : BitVec 8) (k : Nat → Queue → Host.Outcome State Fault Refusal) :
    Host.Outcome State Fault Refusal :=
  match handleObj s s.selChain.ctx hnd.toNat with
  | .queue obj => k obj (queueAt s obj)
  | _ => .next (trapIssue s h 0x21 hnd.toNat)

/-- The die of a queue's home. -/
def queueSite (s : State) (q : Queue) : Nat := ((s.ctxAt q.ctx).plat.getD q.vdie default).site

/-- Whether a core stands within a queue's scope (R393): its own die and cluster, whatever number a context that shares the queue
gives the die (R417). -/
def Queue.reaches (q : Queue) (s : State) (core : Nat) : Bool :=
  match q.scope with
  | 1 => decide (siteOf core = queueSite s q) && decide (core / 8 % 8 = q.clu)
  | 2 => decide (siteOf core = queueSite s q)
  | _ => true

/-- Messages to one queue keep their order (R17, R393). -/
def queueLine (obj : Nat) : Nat := 2 ^ 200 + obj

/-! ## At issue (R176) -/

def queueCells (s : State) (f : F5) : List CellId :=
  if f.ds then [.s f.data.toNat] else (lanesOf s.sel.act).map (fun l => .g f.data.toNat l)

/-- The values sent: the word occupies one issue cycle, in which every lane's register is read (R30, R67). -/
def queueVals (s : State) (f : F5) : List W32 :=
  if f.ds then [BitVec.ofNat 32 (s.selChain.readS f.data.toNat s.sel.t0)]
  else (lanesOf s.sel.act).map (fun l => BitVec.ofNat 32 (s.selChain.readG f.data.toNat l s.sel.t0))

/-- Sends a queue operation: a blocking form parks the active lanes until its result lands. -/
def sendOp (s : State) (h : Hdr) (f : F5) (obj : Nat) (q : Queue) (kind : Nat) : State :=
  let c := s.selChain
  let k := s.coreAt s.selCore
  let cells := if kind = 0 then [] else queueCells s f
  let pws : List CellId := if f.nb then (pwCells s f.pw true).map (·.1) else []
  let body : Body := .queueOp s.sel.chain s.selCore s.sel.seq s.sel.pc s.sel.prio obj kind (queueCells s f).length
    (if kind = 0 then queueVals s f else []) cells s.sel.act (if f.nb then some f.pw.toNat else none) f.hnd.toNat
    (if kind = 0 then earlierWrites c q.scope else [])
  let s1 := send s 4 (queueLine obj) (siteOf s.selCore) (queueSite s q) k.epoch body
  let out : Out := { seq := s.sel.seq, cells := cells ++ pws, acq := decide (kind ≠ 0), load := false, units := [],
                     lanes := s.sel.act, pc := s.sel.pc }
  let s2 := s1.modChain s.sel.chain (fun c =>
    if kind ≠ 0 || f.nb then { c with outs := c.outs ++ [out] } else c)
  advanceUniform (if f.nb then s2 else s2.modChain s.sel.chain (fun c => c.park s.sel.act (.queue s.sel.seq) s.sel.pc s.sel.prio)) h

/-- The three queue instructions: kind 0 send, 1 receive, 2 peek. -/
def queueMeaning (h : Hdr) (f : F5) (s : State) (kind : Nat) : Host.Outcome State Fault Refusal :=
  withQueue s h f.hnd (fun obj q =>
    if !(q.reaches s s.selCore) then
      let (v, s1) := freeVal s
      .next (trapIssue s1 h 0x09 (v % 2 ^ 57))
    else if q.launch then .next (trapIssue s h 0x70 f.hnd.toNat)
    else if q.cap < (queueCells s f).length then .next (trapIssue s h 0x35 f.hnd.toNat)
    else if acquireOpen s.selChain then .next (waitIssue s)
    else .next (sendOp s h f obj q kind))

def execQsend (h : Hdr) (f : F5) (s : State) : Host.Outcome State Fault Refusal := queueMeaning h f s 0
def execQrecv (h : Hdr) (f : F5) (s : State) : Host.Outcome State Fault Refusal := queueMeaning h f s 1
def execQpeek (h : Hdr) (f : F5) (s : State) : Host.Outcome State Fault Refusal := queueMeaning h f s 2

/-! ## At the home (R393) -/

/-- An operation of a chain as its home sees it. -/
structure QOp where
  chain : Nat
  core : Nat
  seq : Nat
  pc : Nat
  prio : Nat
  kind : Nat
  n : Nat
  vals : List W32
  cells : List CellId
  lanes : Mask
  nb : Option Nat
  hnd : Nat
deriving DecidableEq, Repr, Inhabited

def QOp.of (m : Msg) : Option QOp :=
  match m.body with
  | .queueOp chain core seq pc prio _ kind n vals cells lanes nb hnd _ => some { chain, core, seq, pc, prio, kind, n, vals, cells, lanes, nb, hnd }
  | _ => none

def QOp.send (o : QOp) : Bool := o.kind = 0

/-- The results of an operation land and its parked lanes re-enter after it. -/
def landOp (s : State) (o : QOp) (vals : List Nat) (done : Bool) : State :=
  let pw : List (CellId × Nat) := match o.nb with
    | some p => if p = 7 then [] else (lanesOf o.lanes).map (fun l => (.p p l, if done then 1 else 0))
    | none => []
  let s1 := modMate (writeNow s o.chain o.seq (o.cells.zip vals ++ pw)) o.chain o.seq (fun c => { c with outs := c.outs.filter (fun x => x.seq ≠ o.seq) })
  if o.nb.isSome then s1
  else ((Tab.get {} s1.chains o.chain).parked.filter (fun q => decide (q.why = .queue o.seq))).foldl
    (fun s q => reenter s o.chain q ((q.pc + 8) % 2 ^ 32)) s1

/-- The operation performs: entries carry the sender's clock, which a receiver takes (R135, R136). -/
def performOp (s : State) (obj : Nat) (o : QOp) : State :=
  let q := queueAt s obj
  let t := (s.coreAt o.core).lclk
  let got := q.data.take o.n
  let s1 := match o.kind with
    | 0 => setQueue s obj { q with data := q.data ++ o.vals.map (fun v => (v, t)) }
    | 1 => setQueue s obj { q with data := q.data.drop o.n }
    | _ => s
  let s2 := if o.send then s1 else raiseLclk s1 o.core (got.foldl (fun a x => max a x.2) 0)
  let s3 := landOp s2 o (got.map (·.1.toNat)) true
  if o.kind = 2 then s3 else monument s3 o.core (Tab.get {} s3.chains o.chain).ctx

/-- A parked operation on a queue that no longer takes it: its lanes fault (R407). -/
def failOp (s : State) (o : QOp) (cause : Nat) : State :=
  let (rid, s1) := record s o.chain o.seq o.pc false ((lanesOf o.lanes).map (fun l => { lane := l, cause, tval := o.hnd })) 0
  modMate s1 o.chain o.seq (fun c =>
    ({ c with outs := c.outs.filter (fun x => x.seq ≠ o.seq) }.unparkLanes o.lanes).park o.lanes (.trap rid) o.pc o.prio)

/-- The cause that an operation meets on a queue as it is configured now. -/
def opCause (q : Queue) (o : QOp) : Option Nat := if q.launch then some 0x70 else if q.cap < o.n then some 0x35 else none

/-- A parked operation may be decided now. -/
def opReady (s : State) (q : Queue) (o : QOp) : Bool := peerEpoch s o.core && ((opCause q o).isSome || q.fits o.kind o.n)

/-- The parked operation that is served next: the first of the senders or of the receivers, whichever stands first. -/
def nextOp (s : State) (q : Queue) : Option (Msg × QOp) :=
  let ops := q.parked.filterMap (fun m => (QOp.of m).map (fun o => (m, o)))
  let heads := [ops.find? (fun x => x.2.send), ops.find? (fun x => !x.2.send)].filterMap id
  ops.find? (fun x => heads.any (fun y => y.1.id = x.1.id) && opReady s q x.2)

/-- Serves parked operations until none can be decided. -/
def serveOps : Nat → State → Nat → State
  | 0, s, _ => s
  | fuel + 1, s, obj =>
    let q := queueAt s obj
    match nextOp s q with
    | none => s
    | some (m, o) =>
      let s1 := setQueue s obj { q with parked := q.parked.filter (fun x => x.id ≠ m.id) }
      serveOps fuel (match opCause q o with
        | some c => failOp s1 o c
        | none => performOp s1 obj o) obj

def serveAll (s : State) (obj : Nat) : State := serveOps (queueAt s obj).parked.length s obj

/-- An operation of the same side is parked before it. -/
def sideBusy (q : Queue) (send : Bool) : Bool :=
  q.parked.any (fun m => match QOp.of m with
    | some o => o.send == send
    | none => false)

/-- An operation reaches the home. -/
def arriveOp (s : State) (obj : Nat) (m : Msg) (o : QOp) : State :=
  let q := queueAt s obj
  match opCause q o, o.nb with
  | some _, some _ => landOp s o [] false
  | some c, none => failOp s o c
  | none, nb =>
    if !(sideBusy q o.send) && q.fits o.kind o.n then serveAll (performOp s obj o) obj
    else if nb.isSome then landOp s o [] false
    else setQueue s obj { q with parked := q.parked ++ [m] }

def execQueueOpAtHome (msg : Nat) (s : State) : Host.Outcome State Fault Refusal :=
  takeMsg s msg (fun s m => match m.body with
    | .queueOp ch core seq _ _ obj kind _ _ _ _ _ _ after =>
      if !(peerEpoch s core) || (kind = 0 && (writesOpen s ch after || loadsOpen (Tab.get {} s.chains ch) seq)) then none
      else (QOp.of m).map (arriveOp s obj m)
    | _ => none)

/-- Appends one word to a data queue for an engine or the context engine, with a stamp: none while it is full (R285, R429). -/
def postWord (s : State) (obj : Nat) (v : W32) (t : Nat) : Option State :=
  let q := queueAt s obj
  if q.launch || sideBusy q true || !(q.fits 0 1) then none
  else some (serveAll (setQueue s obj { q with data := q.data ++ [(v, t)] }) obj)

end Sys2Proof.Machine
end

