-- ==== Sys2Proof/Machine/Tensor.lean ====
section
/-!
DEFINITION. The tensor store engine (R364 to R385): TBIND, TFREE, TLOOK, TNEAR, THALO, TDROP, TWRB, TQRY, the completion
and the fault of a command.
-/
namespace Sys2Proof.Machine

/-! ## Handles and operands (R372, R373) -/

def tensorAt (s : State) (obj : Nat) : Tensor := Tab.get { ctx := 0 } s.tensors obj
def setTensor (s : State) (obj : Nat) (t : Tensor) : State := { s with tensors := Tab.put s.tensors obj t }

/-- The tensor that a handle names, or the invalid-handle trap (R47). -/
def withTensor (s : State) (h : Hdr) (hnd : BitVec 8) (k : Nat → Tensor → Host.Outcome State Fault Refusal) :
    Host.Outcome State Fault Refusal :=
  match handleObj s s.selChain.ctx hnd.toNat with
  | .tensor obj => k obj (tensorAt s obj)
  | _ => .next (trapIssue s h 0x21 hnd.toNat)

def tensorGrp (f : F4) : Nat := bits f.imm.toNat 2 0

/-- The tensor object that a handle names. -/
def tensorObj (s : State) (f : F4) : Nat :=
  match handleObj s s.selChain.ctx f.hnd.toNat with
  | .tensor obj => obj
  | _ => 0

/-- The handle is not in the state that an instruction needs (R372). -/
def stateCheck (f : F4) (t : Tensor) (st : Nat) : Option (Nat × Nat) :=
  if t.st = st then none else some (0x69, f.hnd.toNat + t.st * 2 ^ 8)

/-- A coordinate pair. -/
def pairOf (lo hi : Nat) : Nat × Nat × Nat := (lo % 2 ^ 16, lo / 2 ^ 16 % 2 ^ 16, hi % 2 ^ 16)

def coordCheck (d : TDesc) (lo hi : Nat) : Option (Nat × Nat) :=
  let (a, b, c) := pairOf lo hi
  if hi / 2 ^ 16 ≠ 0 ∨ d.n1 ≤ a ∨ d.n2 ≤ b ∨ d.n3 ≤ c then some (0x6C, (lo + 2 ^ 32 * hi) % 2 ^ 48) else none

/-- The linear index of a tile (R364). -/
def TDesc.index (d : TDesc) (x : Nat × Nat × Nat) : Nat := (x.2.2 * d.n2 + x.2.1) * d.n1 + x.1

/-- The tag space of a tensor's range, and the sites of its home list. -/
def tensorTag (s : State) (t : Tensor) : Nat := tagFor s t.ctx t.desc.base
def homeSites (s : State) (tag : Nat) : List Nat := (s.ctxAt (tagCtx s tag)).home.eraseDups

/-- A tensor instruction: its handle's tensor (R372), then its own checks. -/
def tensorOffer (s : State) (f : F4) (i : Instr) (ks : List W128) (ss : List Nat) (scope : Nat) (srcs dsts : List Rng)
    (checks : Tensor → List (Option (Nat × Nat))) : Offer :=
  let q : Option (Nat × Nat) := match handleObj s s.selChain.ctx f.hnd.toNat with
    | .tensor _ => none
    | _ => some (0x21, f.hnd.toNat)
  let obj := tensorObj s f
  { fault := firstFault (q :: checks (tensorAt s obj)), cmd := { (newCmd s .tensor i (tensorGrp f) ks ss) with mode := obj },
    scope, srcs, dsts, own := true }

/-- Accepts a tensor command; `upd` is what issue does to the handle. -/
def acceptTensor (s : State) (h : Hdr) (o : Offer) (upd : Tensor → Tensor) : Host.Outcome State Fault Refusal :=
  orTrap s h o (if offerReady s o then .next (setTensor (finish (takeIn s o) h) o.cmd.mode (upd (tensorAt s o.cmd.mode)))
    else .next (offerWait s o))

/-! ## At issue (R375 to R380) -/

/-- The descriptor in eight s registers, and its reserved bits. -/
def bindWords (f : F4) (s : State) : TDesc × Nat :=
  TDesc.ofNat (((List.range 8).map (sOp s f)).zipIdx.foldl (fun a w => a + w.1 * 2 ^ (32 * w.2)) 0)

def tbindOffer (h : Hdr) (f : F4) (s : State) : Offer :=
  let (d, res) := bindWords f s
  let n := d.check res
  tensorOffer s f (.tbind h f) [] ((List.range 8).map (sOp s f)) 0 [] []
    (fun t => [stateCheck f t 0, (if n ≠ 0 then some (0x68, n) else none)])

def execTbind (h : Hdr) (f : F4) (s : State) : Host.Outcome State Fault Refusal :=
  acceptTensor s h (tbindOffer h f s) (fun t => { t with st := 1, desc := (bindWords f s).1, tid := 0 })

def tfreeOffer (h : Hdr) (f : F4) (s : State) : Offer :=
  tensorOffer s f (.tfree h f) [] [] 0 [] [] (fun t => [stateCheck f t 2])

def execTfree (h : Hdr) (f : F4) (s : State) : Host.Outcome State Fault Refusal :=
  acceptTensor s h (tfreeOffer h f s) (fun t => { t with st := 3 })

/-- The tiles that TNEAR names, in its order (R378). -/
def nearTiles (d : TDesc) (sub : Nat) (x : Nat × Nat × Nat) : List Nat :=
  let near (a b : Nat) : Bool := decide (a ≤ b + 1) && decide (b ≤ a + 1)
  let diff (a b : Nat) : Nat := if a = b then 0 else 1
  let pick (y : Nat × Nat × Nat) : Bool :=
    near y.1 x.1 && near y.2.1 x.2.1 && near y.2.2 x.2.2 && decide (y ≠ x) &&
      (sub = 2 || decide (diff y.1 x.1 + diff y.2.1 x.2.1 + diff y.2.2 x.2.2 = 1))
  d.index x :: (if sub = 0 then []
    else ((List.range 3).flatMap (fun c => (List.range 3).flatMap (fun b => (List.range 3).map (fun a =>
      (x.1 + a, x.2.1 + b, x.2.2 + c))))).filterMap (fun y =>
        if y.1 = 0 ∨ y.2.1 = 0 ∨ y.2.2 = 0 then none
        else
          let z := (y.1 - 1, y.2.1 - 1, y.2.2 - 1)
          if z.1 < d.n1 ∧ z.2.1 < d.n2 ∧ z.2.2 < d.n3 ∧ pick z then some (d.index z) else none))

def tnearOffer (h : Hdr) (f : F4) (s : State) : Offer :=
  tensorOffer s f (.tnear h f) [] [sOp s f 0, sOp s f 1] 0 [] []
    (fun t => [stateCheck f t 2, coordCheck t.desc (sOp s f 0) (sOp s f 1)])

def execTnear (h : Hdr) (f : F4) (s : State) : Host.Outcome State Fault Refusal := acceptTensor s h (tnearOffer h f s) id

/-! ### The box of THALO (R379) -/

/-- The halo of a dimension. -/
def TDesc.halos (d : TDesc) : Nat × Nat × Nat :=
  (if 1 < d.d1 then d.halo else 0, if 1 < d.d2 then d.halo else 0, if 1 < d.d3 then d.halo else 0)

def TDesc.boxBytes (d : TDesc) : Nat :=
  let (a, b, c) := d.halos
  (d.t1 + 2 * a) * (d.t2 + 2 * b) * (d.t3 + 2 * c) * d.size

/-- The elements of a box in order: the address of the tensor element taken, none for zero; and whether the boundary rule
made it. -/
def boxElems (d : TDesc) (clamp : Bool) (x : Nat × Nat × Nat) : List (Option Nat × Bool) :=
  let (h1, h2, h3) := d.halos
  let at_ (t j n h : Nat) : Nat × Bool :=
    let p := t * n + j
    (p - h, decide (p < h))
  let lim (e : Nat × Bool) (dd : Nat) : Nat × Bool := (if e.2 then 0 else min e.1 (dd - 1), e.2 || decide (dd ≤ e.1))
  (List.range (d.t3 + 2 * h3)).flatMap (fun j3 => (List.range (d.t2 + 2 * h2)).flatMap (fun j2 =>
    (List.range (d.t1 + 2 * h1)).map (fun j1 =>
      let e1 := lim (at_ x.1 j1 d.t1 h1) d.d1
      let e2 := lim (at_ x.2.1 j2 d.t2 h2) d.d2
      let e3 := lim (at_ x.2.2 j3 d.t3 h3) d.d3
      let out := e1.2 || e2.2 || e3.2
      (if out && !clamp then none else some (d.addr e1.1 e2.1 e3.1), out))))

/-- Inserts a sector number into a rising list. -/
def insertSec (x : Nat) : List Nat → List Nat
  | [] => [x]
  | y :: r => if x < y then x :: y :: r else if x = y then y :: r else y :: insertSec x r

/-- The sectors a box needs, ascending. -/
def boxSectors (es : List (Option Nat × Bool)) : List Nat := (es.filterMap (·.1)).foldl (fun l a => insertSec (a / 64) l) []

def haloClamp (f : F4) : Bool := bit f.sub.toNat 0

/-- The checks of THALO's destination pointer (R379): those before the handle's state, and those after the coordinate. -/
def haloPtr (s : State) (k : Nat) (p : Ptr) : Option (Nat × Nat) :=
  if !p.valid then some (0x0C, k)
  else if p.share = 1 then some (0x08, p.base)
  else if !(homeOk s s.selChain.ctx s.selCore p) then some (0x09, p.base)
  else none

def haloDest (k : Nat) (p : Ptr) (d : TDesc) : Option (Nat × Nat) :=
  let n := d.boxBytes
  if !([1, 2, 4].contains p.space) || (p.fmt ≠ d.fmt && p.fmt ≠ 0) then some (0x6D, k)
  else if p.len < n ∨ (Ptr.spaceSize p.space).getD 0 < p.base + n then some (0x0A, p.base)
  else if p.base % max 1 d.size ≠ 0 then some (0x0B, p.base)
  else none

def thaloOffer (h : Hdr) (f : F4) (s : State) : Offer :=
  let p := kPtr s f 0
  let k := f.pb.toNat
  let d := (tensorAt s (tensorObj s f)).desc
  let secs := boxSectors (boxElems d (haloClamp f) (pairOf (sOp s f 0) (sOp s f 1)))
  let lo := 64 * secs.headD 0
  let src : List Rng := match secs.getLast? with
    | some y => [{ tag := tagFor s s.selChain.ctx lo, space := 0, lo, hi := 64 * y + 63 }]
    | none => []
  tensorOffer s f (.thalo h f) [kOp s f 0] [sOp s f 0, sOp s f 1] p.scope src (rngOf s s.selChain.ctx p p.base d.boxBytes)
    (fun t => [haloPtr s k p, stateCheck f t 2, coordCheck d (sOp s f 0) (sOp s f 1), haloDest k p d])

def execThalo (h : Hdr) (f : F4) (s : State) : Host.Outcome State Fault Refusal := acceptTensor s h (thaloOffer h f s) id

/-- TDROP and TWRB at issue. -/
def dropOffer (f : F4) (s : State) (i : Instr) : Offer := tensorOffer s f i [] [] 0 [] [] (fun t => [stateCheck f t 2])

def execTdropWb (h : Hdr) (f : F4) (s : State) : Host.Outcome State Fault Refusal :=
  acceptTensor s h (dropOffer f s (.tdropWb h f)) id
def execTdropDiscard (h : Hdr) (f : F4) (s : State) : Host.Outcome State Fault Refusal :=
  acceptTensor s h (dropOffer f s (.tdropDiscard h f)) id
def execTwrb (h : Hdr) (f : F4) (s : State) : Host.Outcome State Fault Refusal :=
  acceptTensor s h (dropOffer f s (.twrb h f)) id

/-! ## Queries (R377, R381) -/

/-- The sector keys of a tile. -/
def tileKeys (d : TDesc) (tag t : Nat) : List Nat := (d.sectors t).map (fun a => tag * 2 ^ 51 + a / 64)

/-- The fill floor of a binding at a slice. -/
def floorAt (s : State) (site obj : Nat) : Option Nat := ((s.sliceAt site).binds.find? (fun b => b.obj = obj)).map (·.fl)

/-- The words of TLOOK: status, largest wts, first byte. -/
def lookWords (s : State) (obj : Nat) (t : Tensor) (ti : Nat) : List Nat :=
  let d := t.desc
  let tag := tensorTag s t
  let a := d.first ti
  let site := homeSite s tag a
  let ks := tileKeys d tag ti
  let res := ks.filterMap (homeFind s site)
  let lines := (List.range d.lines).filter (fun l => ((ks.drop (4 * l)).take 4).any (fun k => (homeFind s site k).isSome))
  let home := a / 2 ^ 21 % max 1 (s.ctxAt (tagCtx s tag)).home.length
  let w := if res.isEmpty then (floorAt s site obj).getD 0 else res.foldl (fun m h => max m h.wts) 0
  [home * 2 ^ 25 + (res.filter (·.dirty)).length * 2 ^ 18 + lines.length * 2 ^ 13 + d.lines * 2 ^ 8 + t.tid, w,
    a % 2 ^ 32, a / 2 ^ 32]

def execTlook (h : Hdr) (f : F4) (s : State) : Host.Outcome State Fault Refusal :=
  withTensor s h f.hnd (fun obj t =>
    match firstFault [stateCheck f t 2, coordCheck t.desc (sOp s f 0) (sOp s f 1)] with
    | some (c, v) => .next (trapIssue s h c v)
    | none =>
      let ti := t.desc.index (pairOf (sOp s f 0) (sOp s f 1))
      let site := homeSite s (tensorTag s t) (t.desc.first ti)
      let lat := 40 + 3 * hops (siteOf s.selCore) site + stitches (siteOf s.selCore) site
      .next (advanceUniform (landV s lat ((lookWords s obj t ti).zipIdx.map (fun x => sCell f (x.2 + 2) x.1))) h))

/-- The two status words of R381. -/
def tensorStatus (g : Grp) : List Nat := [min 255 g.ncmd * 2 ^ 24 + min 65535 g.aux * 2 ^ 8, min 0xFFFFFFFF g.aux2]

def execTqryGrp (h : Hdr) (f : F4) (s : State) : Host.Outcome State Fault Refusal :=
  groupWait s h f .tensor [tensorGrp f] 2 tensorStatus

def execTqryAll (h : Hdr) (f : F4) (s : State) : Host.Outcome State Fault Refusal :=
  groupWait s h f .tensor (List.range 8) 2 tensorStatus

/-- FL of a binding: the largest of its slices' (each keeps its own); free where nothing is bound. -/
def floorOf (s : State) (obj : Nat) (t : Tensor) : Nat × State :=
  match (homeSites s (tensorTag s t)).filterMap (fun site => floorAt s site obj) with
  | [] =>
    let (v, s1) := freeVal s
    (v % 2 ^ 24, s1)
  | l => (l.foldl max 0, s)

def execTqryBind (h : Hdr) (f : F4) (s : State) : Host.Outcome State Fault Refusal :=
  withTensor s h f.hnd (fun obj t =>
    let d := t.desc
    let (fl, s1) := floorOf s obj t
    .next (advanceUniform (landV s1 4 [sCell f 0 (t.st * 2 ^ 30 + (if t.st = 0 then 0 else t.tid)),
      sCell f 1 (d.n1 % 2 ^ 16 + d.n2 % 2 ^ 16 * 2 ^ 16), sCell f 2 (d.n3 % 2 ^ 16), sCell f 3 fl]) h))

/-! ## Commands at the slices -/

/-- The state after a stretch of a command's work: the command, what stopped it, and whether more of it is left. -/
structure TRun where
  s : State
  c : Cmd
  bad : Option (Nat × Nat × Nat) := none
  more : Bool := false
deriving Inhabited

/-- The slice's lines after its bindings have changed (R371, R375): recency entries of the sectors whose tag changed are
those of the new tag. -/
def relabel (s : State) (site : Nat) (old : Slice) : State :=
  let sl := s.sliceAt site
  let moved := sl.secs.filter (fun e => homeLine old e.1 ≠ homeLine sl e.1)
  let s1 := moved.foldl (fun s e => homeTouch s site e.1) s
  s1.modSlice site (fun sl => { sl with lru := sl.lru.filter (fun x => sl.secs.any (fun e => homeLine sl e.1 = x)) })

/-- Changes a slice's bindings. -/
def rebind (s : State) (site : Nat) (f : Slice → Slice) : State := relabel (s.modSlice site f) site (s.sliceAt site)

/-- Private pages of a range at a slice become shared (R371, R132). -/
def shareRange (s : State) (site tag lo n : Nat) : State :=
  (s.sliceAt site).marks.foldl (fun s e =>
    match e.2 with
    | .priv o => if e.1 / 2 ^ 45 = tag ∧ lo / 4096 ≤ e.1 % 2 ^ 45 ∧ e.1 % 2 ^ 45 * 4096 < lo + n then flushPage s site e.1 o else s
    | .shared => s) s

/-- Pages of the range that nothing has touched are shared from now on (R371). -/
def sharedFrom (s : State) (site tag lo n : Nat) : State :=
  (List.range ((lo + n - 1) / 4096 + 1 - lo / 4096)).foldl (fun s i =>
    let page := tag * 2 ^ 45 + lo / 4096 + i
    if homeSite s tag ((lo / 4096 + i) * 4096) = site then setMark s site page .shared else s) s

/-- The fill floor that a new binding starts from at a slice: above every floor the slice keeps (log entry 7). -/
def firstFloor (s : State) (sl : Slice) (lo hi : Nat) : Nat :=
  let fl := sl.floors.foldl (fun a f => if f.1 ≤ hi ∧ lo ≤ f.2.1 then max a f.2.2 else a) sl.floor
  max fl (Config.fillStamp s.tick % 2 ^ 24)

/-- Two ranges of descriptors overlap. -/
def TDesc.meets (a b : TDesc) : Bool := decide (a.base < b.base + b.rangeLen) && decide (b.base < a.base + a.rangeLen)

/-- The descriptor that a TBIND was issued with (R375). -/
def Cmd.tdesc (c : Cmd) : TDesc := (TDesc.ofNat (c.ss.zipIdx.foldl (fun a w => a + w.1 * 2 ^ (32 * w.2)) 0)).1

def runBind (s : State) (c : Cmd) (f : F4) : TRun :=
  let t := { tensorAt s c.mode with desc := c.tdesc }
  let tag := tensorTag s t
  let sites := homeSites s tag
  let d := t.desc
  let fail (cause v : Nat) : TRun := { s := setTensor s c.mode { t with st := 0 }, c, bad := some (cause, v, 0) }
  match firstBelow 64 (fun i => sites.all (fun m => (s.sliceAt m).binds.all (fun b => b.tid ≠ i))) with
  | none => fail 0x6A f.hnd.toNat
  | some tid =>
    match sites.findSome? (fun m => (s.sliceAt m).binds.find? (fun b => decide (b.tag = tag) && b.desc.meets d)) with
    | some b => fail 0x6B b.desc.base
    | none =>
      let lo := tag * 2 ^ 51 + d.base / 64
      let hi := tag * 2 ^ 51 + (d.base + d.rangeLen - 1) / 64
      let s1 := sites.foldl (fun s m =>
        let fl := firstFloor s (s.sliceAt m) lo hi
        let s1 := rebind { s with tick := s.tick + 1 } m (fun sl =>
          { sl with binds := sl.binds ++ [{ obj := c.mode, tag, desc := d, tid, fl }] })
        sharedFrom (shareRange s1 m tag d.base d.rangeLen) m tag d.base d.rangeLen) s
      { s := setTensor s1 c.mode { t with st := 2, tid }, c }

/-- Frees a binding in every slice, keeping its floors (R376). -/
def freeBinding (s : State) (obj : Nat) (t : Tensor) : State :=
  let tag := tensorTag s t
  let lo := tag * 2 ^ 51 + t.desc.base / 64
  let hi := tag * 2 ^ 51 + (t.desc.base + t.desc.rangeLen - 1) / 64
  (homeSites s tag).foldl (fun s m =>
    match floorAt s m obj with
    | none => s
    | some fl => rebind s m (fun sl =>
        { sl with binds := sl.binds.filter (fun b => b.obj ≠ obj), floors := sl.floors ++ [(lo, hi, fl)] })) s

def runFree (s : State) (c : Cmd) : TRun :=
  let t := tensorAt s c.mode
  { s := setTensor (freeBinding s c.mode t) c.mode { t with st := 0 }, c }

/-- TNEAR: fills what is not resident; a sector whose translation faults is left (R378). -/
def runNear (s : State) (c : Cmd) (f : F4) : TRun :=
  let t := tensorAt s c.mode
  let tag := tensorTag s t
  let tiles := nearTiles t.desc (bits f.sub.toNat 1 0) (pairOf (c.ss.getD 0 0) (c.ss.getD 1 0))
  { s := (tiles.flatMap (tileKeys t.desc tag)).foldl (fun s key =>
      if (homeFind s (homeOfKey s key) key).isSome then s
      else match homeGet s c.ctx key false false false with
        | .ok s1 _ => s1
        | _ => s) s, c }

/-- Reads one sector of a THALO at its home (R379); none while it must wait. -/
def haloRead (s : State) (c : Cmd) (x : Nat) : Option TRun :=
  let acc : Acc := { ctx := c.ctx, core := c.core, share := 2, scope := 2, eng := true, tns := true }
  match cohRead s acc (keyFor s c.ctx (64 * x)) c.readTime true with
  | .ok s1 d => some { s := s1, c := { c with keep := c.keep ++ [d.data.toNat], stamp := max c.stamp d.wts } }
  | .fault s1 e d => some { s := s1, c, bad := some (e, 64 * x, d) }
  | .wait => none

/-- The value of a box element from the sectors read so far: `all` is every sector, `data` those read. -/
def boxVal (size : Nat) (all data : List Nat) (e : Option Nat × Bool) : Option Nat :=
  match e.1 with
  | none => some 0
  | some a => match all.idxOf? (a / 64) with
    | some i => (data[i]?).map (fun d => d / 2 ^ (8 * (a % 64)) % 2 ^ (8 * size))
    | none => none

/-- Writes the box's lines whose last sector is the one read last; with the first sector, those that need none as well. -/
def haloWrite (s : State) (core : Nat) (p : Ptr) (size : Nat) (es : List (Option Nat × Bool)) (all data : List Nat) : State :=
  (linesOf p.base (es.length * size)).foldl (fun s l =>
    let mine := es.zipIdx.filter (fun e => decide ((p.base + size * e.2) / 256 = l))
    let whole (data : List Nat) : Bool := mine.all (fun e => (boxVal size all data e.1).isSome)
    if !(whole data) || (decide (2 ≤ data.length) && whole data.dropLast) then s
    else setPresent (mine.foldl (fun s e => localWrite s core p.space (p.base + size * e.2) size ((boxVal size all data e.1).getD 0)) s)
      core p.space (256 * l) 256) s

/-- The next sector of a THALO, and the lines that it completes. -/
def runHalo (s : State) (c : Cmd) (f : F4) : Option TRun :=
  let t := tensorAt s c.mode
  let p := ptrAt c.ks 0
  let es := boxElems t.desc (haloClamp f) (pairOf (c.ss.getD 0 0) (c.ss.getD 1 0))
  let all := boxSectors es
  let fin (r : TRun) : TRun :=
    { r with s := haloWrite r.s c.core p t.desc.size es all r.c.keep,
             c := if r.c.keep.length < all.length then r.c else { r.c with cnt := (es.filter (·.2)).length },
             more := decide (r.c.keep.length < all.length) }
  match all.drop c.keep.length with
  | [] => some (fin { s, c })
  | x :: _ => (haloRead s c x).map (fun r => if r.bad.isSome then r else fin r)

/-- The resident sectors of a binding at a slice. -/
def boundSecs (sl : Slice) (obj : Nat) : List Nat :=
  (sl.secs.filter (fun e => match bindOf sl (tagOfKey e.1) (vaOfKey e.1) with
    | some (b, _, _) => decide (b.obj = obj)
    | none => false)).map (·.1)

/-- Removes a home sector without writing it back. -/
def homeRemove (s : State) (site key : Nat) : State := s.modSlice site (fun sl => { sl with secs := Tab.erase sl.secs key })

/-- One resident sector of TDROP.wb (kind 0), TDROP.discard (1) or TWRB (2), its owned copy recalled; none while it must
wait. -/
def dropOne (c : Cmd) (kind site key : Nat) (r : TRun) : Option TRun :=
  match r.bad, homeFind r.s site key with
  | some _, _ => some r
  | _, none => some r
  | none, some h =>
    if !(quiet h) then none
    else
      let (s1, h1) := recallOwner r.s site key h
      if kind = 1 then
        let t := max c.readTime (h1.rts + 1)
        if stampMax < t then none
        else
          let s2 := (homeRemove s1 site key).modSlice site (fun sl => raiseFloor sl key t)
          some { r with s := s2, c := stampCmd r.c t }
      else
        let wb : Option (State × Cmd) ⊕ (Nat × Nat) :=
          if !h1.dirty then .inl (some (s1, r.c))
          else match translate s1 site c.ctx (vaOfKey key) false false with
            | (_, .fault e d) => .inr (e, d)
            | (s2, .ok _) =>
              .inl (some (homeSet (physWrite s2 h1.pa 64 h1.data.toNat) site key { h1 with dirty := false },
                { r.c with cnt2 := r.c.cnt2 + 1 }))
        match wb with
        | .inr (e, d) => some { r with s := s1, bad := some (e, vaOfKey key, d) }
        | .inl none => none
        | .inl (some (s2, c2)) =>
          some { r with s := if kind = 0 then (homeRemove s2 site key).modSlice site (fun sl => raiseFloor sl key h1.rts) else s2,
                        c := c2 }

/-- Whether some sector of a binding that a slice homes is not resident there. -/
def someAbsent (s : State) (site : Nat) (obj : Nat) (d : TDesc) (tag : Nat) : Bool :=
  let mine := (List.range d.tiles).filter (fun t => homeSite s tag (d.first t) = site)
  decide ((boundSecs (s.sliceAt site) obj).length < mine.length * (4 * d.lines))

/-- TDROP.discard stamps the sectors of its binding that are not resident through FL (R380): none while a stamp would pass the
largest, or a slice is of another epoch. -/
def raiseGaps (s : State) (c : Cmd) (t : Tensor) (tag : Nat) : List Nat → Option (State × Cmd)
  | [] => some (s, c)
  | m :: r => (raiseGaps s c t tag r).bind (fun x =>
      let up := max c.readTime ((floorAt x.1 m c.mode).getD 0 + 1)
      if !(someAbsent x.1 m c.mode t.desc tag) then some x
      else if stampMax < up then none
      else some (x.1.modSlice m (fun sl => { sl with binds := sl.binds.map (fun b =>
        if b.obj = c.mode then { b with fl := max b.fl up } else b) }), stampCmd x.2 up))

/-- The next resident sector of a binding that a walk reaches, slice by slice in ascending address: index of the slice, the slice and
the sector. The walk stands at a slice's index and an address. -/
def nextSec (s : State) (obj : Nat) (sites : List Nat) (at_ : Nat × Nat) : Option (Nat × Nat × Nat) :=
  sites.zipIdx.findSome? (fun m =>
    if m.2 < at_.1 then none
    else
      let ks := (boundSecs (s.sliceAt m.1) obj).filter (fun k => decide (at_.1 < m.2 ∨ at_.2 ≤ k))
      (ks.head?).map (fun k => (m.2, m.1, ks.foldl min k)))

/-- The next sector of a TDROP or TWRB, its progress after it; the slices' recency lists drop the lines that have gone (R380, R384). -/
def runDrop (s : State) (c : Cmd) (kind : Nat) : Option TRun :=
  let t := tensorAt s c.mode
  let tag := tensorTag s t
  let sites := homeSites s tag
  let begin : Option (State × Cmd) :=
    if !(sites.all (sameEpoch s c.core)) then none
    else if c.keep = [] ∧ kind = 1 then raiseGaps s c t tag sites else some (s, c)
  begin.bind (fun x =>
    match nextSec x.1 c.mode sites (c.keep.getD 0 0, c.keep.getD 1 0) with
    | none => some { s := x.1, c := x.2 }
    | some (i, m, key) =>
      (dropOne c kind m key { s := x.1, c := { x.2 with keep := [i, key] } }).map (fun r =>
        if r.bad.isSome then r
        else
          let s1 := relabel r.s m (r.s.sliceAt m)
          { r with s := s1, c := { r.c with keep := [i, key + 1] }, more := (nextSec s1 c.mode sites (i, key + 1)).isSome }))

/-- The command's next stretch: one sector of a THALO, TDROP or TWRB, so that other accesses may come between (R382); a whole TBIND,
TFREE or TNEAR. None while it must wait. -/
def runTensor (s : State) (c : Cmd) : Option TRun :=
  match c.ins with
  | .tbind _ f => some (runBind s c f)
  | .tfree _ _ => some (runFree s c)
  | .tnear _ f => some (runNear s c f)
  | .thalo _ f => runHalo s c f
  | .tdropWb _ _ => runDrop s c 0
  | .tdropDiscard _ _ => runDrop s c 1
  | _ => runDrop s c 2

/-- The command that runs: the first of the port's queue, once earlier commands on its handle have completed (R374). Told to stop, the
engine starts none (R385). -/
def tensorHead (s : State) (core : Nat) : Option Cmd :=
  match (s.coreAt core).tenq.head? with
  | none => none
  | some c =>
    if c.stopped.isSome ∨ ((s.ctxAt c.ctx).out ∧ c.keep = []) ∨ s.cores.any (fun e => e.2.tenq.any (fun x => decide (x.mode = c.mode ∧ x.id < c.id))) then none else some c

def tensorDone (s : State) (c : Cmd) : State :=
  complete s c (fun g => { g with aux := g.aux + c.cnt, aux2 := g.aux2 + c.cnt2 })

def execTensorCommandComplete (core : Nat) (s : State) : Host.Outcome State Fault Refusal :=
  match (tensorHead s core).bind (runTensor s) with
  | none => .next s
  | some r => .next (if r.bad.isSome then s else if r.more then putCmd r.s r.c else tensorDone r.s r.c)

def execTensorFault (core : Nat) (s : State) : Host.Outcome State Fault Refusal :=
  match (tensorHead s core).bind (runTensor s) with
  | none => .next s
  | some r => match r.bad with
    | none => .next s
    | some (e, v, d) => .next (stopCmd r.s r.c e v d)

/-- TRET.retry of a stopped TBIND binds again, unless its handle has been bound meanwhile: then it stops once more, in the wrong
state (log entry 103). -/
def resumeTensor (s : State) (c : Cmd) : State :=
  match c.ins with
  | .tbind _ f =>
    let t := tensorAt s c.mode
    if t.st = 0 then setTensor s c.mode { t with st := 1, desc := c.tdesc, tid := 0 }
    else putCmd s { c with stopped := some (0x69, f.hnd.toNat + t.st * 2 ^ 8, 0) }
  | _ => s

/-- TRET.skip and TRET.kill give a stopped command up (R384). -/
def abandonTensor (s : State) (c : Cmd) : State :=
  let s1 := match c.ins with
    | .thalo _ _ =>
      let p := ptrAt c.ks 0
      setPresent s c.core p.space p.base (tensorAt s c.mode).desc.boxBytes
    | _ => s
  complete s1 c (fun g => { g with ncmd := g.ncmd - 1 })

/-- A context's deletion drops and frees each of its bindings as TDROP.discard does, at time t (R385): none while it must wait. -/
def discardBinding (s : State) (core obj t : Nat) : Option State :=
  let x := tensorAt s obj
  let tag := tensorTag s x
  let sites := homeSites s tag
  let c : Cmd := { id := s.nextId, chain := 0, ctx := x.ctx, sid := 0, pid := 0, core, seq := 0, eng := .tensor, grp := 0,
                   ins := .tdropDiscard default default, mode := obj, ks := [], ss := [], readTime := t }
  if !(sites.all (sameEpoch s core)) then none
  else
    (raiseGaps s c x tag sites).bind (fun y =>
      ((sites.flatMap (fun m => (boundSecs (y.1.sliceAt m) obj).map (fun k => (m, k)))).foldl (fun r e => r.bind (dropOne c 1 e.1 e.2))
        (some ({ s := y.1, c } : TRun))).map (fun r =>
          let s1 := sites.foldl (fun s m => relabel s m (s.sliceAt m)) r.s
          setTensor (freeBinding s1 obj x) obj { x with st := 0 }))

end Sys2Proof.Machine
end

