-- ==== Sys2Proof/Machine/Transform.lean ====
section
/-!
DEFINITION. The transform engine (R283 to R313): XHDR, XEXP, XCMP, XDEC, XSTAT and XWAIT, the chunks and lines of their
commands, and the decoding that a prologue fill shares (R315).
-/
namespace Sys2Proof.Machine

/-! ## Operands (R296) -/

/-- What R296 asks of a compressed operand after check 1. -/
def compRule (p : Ptr) : Option (Nat × Nat) :=
  if !(p.cv && decide (p.space = 0) && (p.scope = 2 || p.scope = 3)) then some (0x50, p.base)
  else if p.base % 256 ≠ 0 then some (0x0B, p.base) else none

/-- What R296 asks of a plain operand after check 1. -/
def plainRule (p : Ptr) : Option (Nat × Nat) :=
  if p.cv || !([0, 1, 2, 4].contains p.space) then some (0x50, p.base)
  else if p.base % 256 ≠ 0 then some (0x0B, p.base) else none

/-- The checks of a compressed operand of n bytes; check 2 is not for it. -/
def compCheck (s : State) (kreg : Nat) (p : Ptr) (n : Nat) : Option (Nat × Nat) :=
  operandCheck s kreg p (compRule p) false p.base n true

def plainCheck (s : State) (kreg : Nat) (p : Ptr) (write : Bool) (n : Nat) : Option (Nat × Nat) :=
  operandCheck s kreg p (plainRule p) write p.base n true

/-- The whole buffer of a pointer (R297). -/
def wholeOf (s : State) (p : Ptr) : List Rng := rngOf s s.selChain.ctx p p.base p.len

/-! ## Accepting a command (R283, R284) -/

/-- Streams of the chain with outstanding commands. -/
def openStreams (s : State) : List Nat :=
  (((engQueue s .xform s.selCore).filter (fun c => decide (c.chain = s.sel.chain) && !c.done)).map (·.grp)).eraseDups

/-- The port of a core holds 8 commands, a chain four streams. -/
def xformRoom (s : State) (stream : Nat) : Bool :=
  decide (((engQueue s .xform s.selCore).filter (fun c => decide (c.core = s.selCore) && !c.done)).length < 8) &&
    ((openStreams s).contains stream || decide ((openStreams s).length < 4))

/-- A transform instruction: its handle's queue (R284), then the checks of its own (R296 to R299). -/
def xformOffer (s : State) (f : F4) (i : Instr) (ks : List W128) (ss keep : List Nat) (ps : List Ptr) (srcs dsts : List Rng)
    (checks : List (Option (Nat × Nat))) : Offer :=
  let q : Option (Nat × Nat) := match handleObj s s.selChain.ctx f.hnd.toNat with
    | .queue _ => none
    | _ => some (0x21, f.hnd.toNat)
  let obj := match handleObj s s.selChain.ctx f.hnd.toNat with
    | .queue o => o
    | _ => 0
  { fault := firstFault (q :: checks),
    cmd := { (newCmd s .xform i f.hnd.toNat ks ss) with mode := if bit f.imm.toNat 16 then obj + 1 else 0, keep },
    scope := widest ps, srcs, dsts, cap := 2 ^ 20, held := !(xformRoom s f.hnd.toNat) }

/-- A destination may not lie in an open region (R246). -/
def xformRegion (s : State) (r : List Rng) (p : Ptr) : Option (Nat × Nat) :=
  if inRegion (s.coreAt s.selCore) r then some (0x41, p.base) else none

/-- A command over a whole buffer: XHDR.xp, XHDR.chk and XEXP. -/
def bufferOffer (f : F4) (s : State) (i : Instr) (ss : List Nat) (writes : Bool) : Offer :=
  let p := kPtr s f 0
  let r := wholeOf s p
  xformOffer s f i [kOp s f 0] ss [] [p] (if writes then [] else r) (if writes then r else [])
    [compCheck s f.pb.toNat p 32, if writes then xformRegion s r p else none]

def xhdrXpOffer (h : Hdr) (f : F4) (s : State) : Offer := bufferOffer f s (.xhdrXp h f) [] true
def xhdrChkOffer (h : Hdr) (f : F4) (s : State) : Offer := bufferOffer f s (.xhdrChk h f) [] false
def xexpOffer (h : Hdr) (f : F4) (s : State) : Offer := bufferOffer f s (.xexp h f) [sOp s f 0, sOp s f 1] true

def xhdrAdoptOffer (h : Hdr) (f : F4) (s : State) : Offer :=
  let p := kPtr s f 0
  let m := kPtr s f 1
  let dr := wholeOf s p
  let sr := wholeOf s m
  xformOffer s f (.xhdrAdopt h f) [kOp s f 0, kOp s f 1] [] [] [p, m] sr dr
    [compCheck s f.pb.toNat p 32, plainCheck s (f.pb.toNat + 1) m false m.len,
     (if rngsMeet dr sr then some (0x52, p.base) else none), xformRegion s dr p]

def xcmpOffer (h : Hdr) (f : F4) (s : State) : Offer :=
  let d := kPtr s f 0
  let p := kPtr s f 1
  let n := sOp s f 0
  let dr := rngOf s s.selChain.ctx d d.base (256 * (n + 1))
  let sr := rngOf s s.selChain.ctx p p.base (256 * n)
  xformOffer s f (.xcmp h f) [kOp s f 0, kOp s f 1] [n] [1, bits f.imm.toNat 1 0, bits f.imm.toNat 6 2, n, 0, n] [d, p] sr dr
    [(if n = 0 ∨ 16777216 < n then some (0x01, s.sel.word.toNat) else none), compCheck s f.pb.toNat d (256 * (n + 1)),
     plainCheck s (f.pb.toNat + 1) p false (256 * n), (if rngsMeet dr sr then some (0x52, d.base) else none), xformRegion s dr d]

def xdecOffer (h : Hdr) (f : F4) (s : State) : Offer :=
  let d := kPtr s f 0
  let p := kPtr s f 1
  let n := sOp s f 1
  let dr := rngOf s s.selChain.ctx d d.base (if n = 0 then d.len else 256 * n)
  let sr := wholeOf s p
  xformOffer s f (.xdec h f) [kOp s f 0, kOp s f 1] [sOp s f 0, n] [] [d, p] sr dr
    [plainCheck s f.pb.toNat d true (256 * n), compCheck s (f.pb.toNat + 1) p 32,
     (if rngsMeet dr sr then some (0x52, d.base) else none), xformRegion s dr d]

def execXhdrXp (h : Hdr) (f : F4) (s : State) : Host.Outcome State Fault Refusal := accept s h (xhdrXpOffer h f s)
def execXhdrChk (h : Hdr) (f : F4) (s : State) : Host.Outcome State Fault Refusal := accept s h (xhdrChkOffer h f s)
def execXexp (h : Hdr) (f : F4) (s : State) : Host.Outcome State Fault Refusal := accept s h (xexpOffer h f s)
def execXhdrAdopt (h : Hdr) (f : F4) (s : State) : Host.Outcome State Fault Refusal := accept s h (xhdrAdoptOffer h f s)
def execXcmp (h : Hdr) (f : F4) (s : State) : Host.Outcome State Fault Refusal := accept s h (xcmpOffer h f s)
def execXdec (h : Hdr) (f : F4) (s : State) : Host.Outcome State Fault Refusal := accept s h (xdecOffer h f s)

/-! ## XHDR.rd, XSTAT and XWAIT (R303, R307, R308) -/

/-- XHDR.rd: eight words as a chain-uniform load through the compressed view. -/
def execXhdrRd (h : Hdr) (f : F4) (s : State) : Host.Outcome State Fault Refusal :=
  let p := kPtr s f 0
  let r := rngOf s s.selChain.ctx p p.base 32
  match firstFault [compCheck s f.pb.toNat p 32,
      (if easeBusy (s.coreAt s.selCore) r [] then some (0x18, p.base) else none)] with
  | some (c, t) => .next (trapIssue s h c t)
  | none =>
    let us : List RawUnit := (List.range 8).map (fun i =>
      { a := (p.base + 4 * i : Nat), size := 4, sub := 0, cells := [.s (f.sop.toNat + i)] })
    globalLoad h { (default : F2) with udata := true } s { p with fmt := 5 } [(32, us)] []

/-- An outstanding command on a stream of the issuing chain. -/
def streamBusy (s : State) (g : Nat) : Bool :=
  (engQueue s .xform s.selCore).any (fun c => decide (c.chain = s.sel.chain ∧ c.grp = g) && !c.done)

def execXstat (h : Hdr) (f : F4) (s : State) : Host.Outcome State Fault Refusal :=
  withQueue s h f.hnd (fun _ _ =>
    let g := s.selChain.grp .xform f.hnd.toNat
    let w := (if streamBusy s f.hnd.toNat then 2 ^ 31 else 0) + g.aux % 2 ^ 31
    .next (advanceUniform (landV s 4 [sCell f 0 w, sCell f 1 g.aux2]) h))

def execXwait (h : Hdr) (f : F4) (s : State) : Host.Outcome State Fault Refusal :=
  withQueue s h f.hnd (fun _ _ =>
    let g := f.hnd.toNat
    match stoppedBefore s .xform (fun x => x = g) with
    | some c => .next (raiseGroup s h c)
    | none =>
      if !(waitsFor s .xform (fun x => x = g)).isEmpty then .next (orWait s h f.nb f.pw 2)
      else
        let s1 := waitDone s (s.selChain.grp .xform g)
        .next (advanceUniform (landV s1 2 (if f.nb then pwCells s f.pw true else [])) h))

/-! ## What a command works on -/

/-- The kinds of commands. -/
inductive XKind where
  | xp | chk | adopt | exp | cmp | dec
deriving DecidableEq, Repr, Inhabited

def Cmd.xkind (c : Cmd) : XKind :=
  match c.ins with
  | .xhdrXp _ _ => .xp
  | .xhdrChk _ _ => .chk
  | .xhdrAdopt _ _ => .adopt
  | .xexp _ _ => .exp
  | .xcmp _ _ => .cmp
  | _ => .dec

/-- Commands of the encoder; the others decode (R300, R303, R305). -/
def Cmd.encodes (c : Cmd) : Bool := c.xkind = .xp || c.xkind = .adopt || c.xkind = .cmp

/-- The compressed operand. -/
def Cmd.buf (c : Cmd) : Ptr := ptrAt c.ks (if c.xkind = .dec then 1 else 0)

/-- The plain destination of XDEC. -/
def Cmd.dst (c : Cmd) : Ptr := ptrAt c.ks 0

/-! What a command keeps of its header and range: a mark, XP, CHUNK, NLINES, first line, lines. -/
def Cmd.hxp (c : Cmd) : Nat := c.keep.getD 1 0
def Cmd.chunk (c : Cmd) : Nat := max 1 (c.keep.getD 2 1)
def Cmd.nlines (c : Cmd) : Nat := c.keep.getD 3 0
def Cmd.first (c : Cmd) : Nat := c.keep.getD 4 0
def Cmd.count (c : Cmd) : Nat := c.keep.getD 5 0

/-- Chunks, or lines of XCMP and XHDR.xp, that the command works through. -/
def Cmd.units (c : Cmd) : Nat :=
  if c.xkind = .cmp || c.xkind = .xp then c.count
  else if c.count = 0 then 0 else (c.first + c.count - 1) / c.chunk + 1 - c.first / c.chunk

/-- The index in the buffer of the chunk that stands next. -/
def Cmd.chunkNow (c : Cmd) : Nat := if c.xkind = .cmp || c.xkind = .xp then c.next / c.chunk else c.first / c.chunk + c.next

/-- The data lines of the next unit. -/
def Cmd.unitLines (c : Cmd) : List Nat :=
  if c.xkind = .cmp || c.xkind = .xp then [c.next]
  else
    let k := c.chunkNow
    let lo := max c.first (c.chunk * k)
    (List.range (min (c.first + c.count) (c.chunk * (k + 1)) - lo)).map (lo + ·)

/-- The address of data line j (R286). -/
def Cmd.lineAddr (c : Cmd) (j : Nat) : Nat := c.buf.base + 256 * (j + 1)

/-- The header read: what the command keeps, or REASON 1 or 2 (R300, R306). -/
def planOf (c : Cmd) (hdr : List Byte) : Nat × Cmd :=
  let nl := field hdr 4 4
  let (first, n) := if c.xkind = .dec || c.xkind = .exp then (c.ss.getD 0 0, c.ss.getD 1 0) else (0, 0)
  let count := if n = 0 then nl - first else n
  if !(bufValid hdr c.buf.len) then (1, c)
  else if nl ≤ first ∨ nl < first + count ∨ (c.xkind = .dec ∧ c.dst.len < 256 * count) then (2, c)
  else (0, { c with keep := [1, field hdr 0 1 % 4, field hdr 2 1, nl, first, count] })

/-- Reads the header if it has not been read: REASON and the command. -/
def headOf (s : State) (c : Cmd) : EngRes (Nat × Cmd) :=
  if c.keep ≠ [] then .ok s (0, c)
  else (rdBytes s c.ctx c.core c.readTime c.buf c.buf.base 32).bind (fun s1 x =>
    let (r, c1) := planOf c (toBytes 32 x)
    let m := ptrAt c.ks 1
    if r = 0 ∧ c.xkind = .adopt ∧ (m.space ≠ 0 ∨ m.len < ceilDiv c1.nlines 8) then .fault s1 0x0A m.base 0
    else
      -- lines of a destination past the range are present again (R299)
      let s2 := if r = 0 ∧ c.xkind = .dec then
          setPresent s1 c.core c.dst.space (c.dst.base + 256 * c1.count) (c.dst.len - 256 * c1.count) else s1
      .ok s2 (r, c1))

/-! ## Lines at the home (R298, R302, R303) -/

/-- Writes n sectors of a line at the home slice with the stamps of R148. -/
def homeSectors (c : Cmd) (a : Nat) (bytes : List Byte) : List Nat → State → Nat → EngRes Nat
  | [], s, t => .ok s t
  | i :: r, s, t =>
    let key := keyFor s c.ctx (a + 64 * i)
    let s0 := (pageClass s (homeOfKey s key) key none).1
    match homeWrite s0 c.ctx (some c.core) key (BitVec.ofNat 512 (field bytes (64 * i) 64)) (BitVec.allOnes 64) c.readTime with
    | .ok s1 x => homeSectors c a bytes r s1 (max t x)
    | .fault s1 e d => .fault s1 e (a + 64 * i) d
    | .wait => .wait

/-- Writes a plain line: the home clears C (R294). -/
def putPlain (s : State) (c : Cmd) (a : Nat) (bytes : List Byte) : EngRes Nat := homeSectors c a bytes [0, 1, 2, 3] s 0

/-- Marks a line an image of an XP: what its home holds is its expansion, or nothing when it does not decode (R288, R295). -/
def markImage (s : State) (c : Cmd) (a : Nat) (img : List Byte) (decodes : Bool) : State :=
  let key := keyFor s c.ctx a
  let site := homeOfKey s key
  let xp := (imgHdr img).xp
  match translate s site c.ctx a false false with
  | (s1, .ok t) =>
    let pa := t.pa + a % 4096
    if isPeer pa then s1
    else
      let s2 := setCBit (physWrite s1 pa 256 (ofBytes img)) pa true
      (List.range 4).foldl (fun s i =>
        match homeFind s site (key + i) with
        | none => s
        | some h =>
          if decodes then
            let st : SSt := if 0 < xp ∧ (bindOf (s.sliceAt site) (tagOfKey key) a).isNone then .LC else .L
            homeSet s site (key + i) { h with st := st, cmp := some xp, dirty := false }
          else s.modSlice site (fun sl => raiseFloor { sl with secs := Tab.erase sl.secs (key + i) } (key + i) h.rts)) s2
  | (s1, _) => s1

/-- A line whose stored bytes the home rewrites as they stand: nothing is expanded first, and nothing reported (R303). -/
def unmarkImage (s : State) (c : Cmd) (a : Nat) : State :=
  let key := keyFor s c.ctx a
  let site := homeOfKey s key
  match translate s site c.ctx a false false with
  | (s1, .ok t) =>
    if isPeer t.pa then s1
    else (List.range 4).foldl (fun s i => match homeFind s site (key + i) with
      | some h => homeSet s site (key + i) { h with cmp := none }
      | none => s) (setCBit s1 (t.pa + a % 4096) false)
  | (s1, _) => s1

/-- Writes a line as an image. -/
def putImage (s : State) (c : Cmd) (a : Nat) (img : List Byte) : EngRes Nat :=
  let exp := imgDecode img
  (putPlain s c a (exp.getD img)).bind (fun s1 t => .ok (markImage s1 c a img exp.isSome) t)

/-- The read-modify-write of a line's stored bytes (R303). -/
def rewriteImage (s : State) (c : Cmd) (a : Nat) (img : List Byte) : EngRes Nat :=
  match putImage (unmarkImage s c a) c a img with
  | .fault _ e v d => .fault s e v d
  | r => r

/-- Whether a line is an image, and its stored bytes (R147). -/
def storedLine (s : State) (c : Cmd) (a : Nat) : EngRes (Bool × List Byte) :=
  let img := (imageAt s c.ctx (keyFor s c.ctx a)).isSome
  (rdBytes s c.ctx c.core c.readTime c.buf a 256).bind (fun s1 x => .ok s1 (img, toBytes 256 x))

/-- Data lines of the buffer that are images now. -/
def countImages (s : State) (c : Cmd) : Nat :=
  ((List.range c.nlines).filter (fun j => (imageAt s c.ctx (keyFor s c.ctx (c.lineAddr j))).isSome)).length

/-! ## Units -/

/-- Decodes the lines of a chunk: each line with whether it was an image, or the REASON of the first that does not
decode (R300, R309). -/
def decodeLines (c : Cmd) : List Nat → State → List (Nat × Bool × List Byte) → EngRes (Nat × List (Nat × Bool × List Byte))
  | [], s, l => .ok s (0, l.reverse)
  | j :: r, s, l =>
    (storedLine s c (c.lineAddr j)).bind (fun s1 x =>
      if !x.1 then decodeLines c r s1 ((j, x) :: l)
      else match imgDecode x.2 with
        | some b => decodeLines c r s1 ((j, true, b) :: l)
        | none => .ok s1 (imgReason x.2, []))

/-- Writes the decoded lines of a chunk: to the destination (R306), back to their addresses (R302), or nowhere. -/
def commitLines (c : Cmd) : List (Nat × Bool × List Byte) → State → Nat → EngRes Nat
  | [], s, t => .ok s t
  | (j, img, b) :: r, s, t =>
    let w : EngRes Nat := match c.xkind with
      | .dec => wrSectors c.ctx c.core c.readTime c.dst (putBytes [] (c.dst.base + 256 * (j - c.first)) 256 (ofBytes b)) s 0
      | .exp => if img then putPlain s c (c.lineAddr j) b else .ok s 0
      | _ => .ok s 0
    w.bind (fun s1 x =>
      commitLines c r (if c.xkind = .dec then setPresent s1 c.core c.dst.space (c.dst.base + 256 * (j - c.first)) 256 else s1) (max t x))

/-- A line of XCMP (R292, R305): its stamp, and 1 for an image. -/
def encodeUnit (s : State) (c : Cmd) (j : Nat) : EngRes (Nat × Nat) :=
  let p := ptrAt c.ks 1
  let allow := match c.ins with
    | .xcmp _ f => bits f.sub.toNat 1 0
    | _ => 0
  (rdBytes s c.ctx c.core c.readTime p (p.base + 256 * j) 256).bind (fun s1 x =>
    match encodeLine allow c.hxp (toBytes 256 x) with
    | some img => (putImage s1 c (c.lineAddr j) img).bind (fun s2 t => .ok s2 (t, 1))
    | none => (putPlain s1 c (c.lineAddr j) (toBytes 256 x)).bind (fun s2 t => .ok s2 (t, 0)))

/-- A line of XHDR.xp (R303): bits 1:0 of an image's first byte change. -/
def remarkUnit (s : State) (c : Cmd) (xp j : Nat) : EngRes (Nat × Nat) :=
  (storedLine s c (c.lineAddr j)).bind (fun s1 x =>
    if !x.1 then .ok s1 (0, 0)
    else
      let b0 := field x.2 0 1
      (rewriteImage s1 c (c.lineAddr j) (toBytes 1 (b0 - b0 % 4 + xp) ++ x.2.drop 1)).bind (fun s2 t => .ok s2 (t, 1)))

/-- The lines of a chunk that the map of XHDR.adopt names, with their stored bytes; REASON 3 if one is not well formed. -/
def adoptLines (c : Cmd) : List Nat → State → List (Nat × List Byte) → EngRes (Nat × List (Nat × List Byte))
  | [], s, l => .ok s (0, l.reverse)
  | j :: r, s, l =>
    let m := ptrAt c.ks 1
    (rdBytes s c.ctx c.core c.readTime m (m.base + j / 8) 1).bind (fun s1 b =>
      if !(bit b (j % 8)) then adoptLines c r s1 l
      else (storedLine s1 c (c.lineAddr j)).bind (fun s2 x =>
        if imgWf x.2 then adoptLines c r s2 ((j, x.2) :: l) else .ok s2 (3, [])))

def markLines (c : Cmd) : List (Nat × List Byte) → State → Nat → EngRes Nat
  | [], s, t => .ok s t
  | (j, b) :: r, s, t => (rewriteImage s c (c.lineAddr j) b).bind (fun s1 x => markLines c r s1 (max t x))

/-- The next unit of a command whose header has been read: the command after it, or the REASON of a failing chunk. -/
def xformUnit (s : State) (c : Cmd) : EngRes (Nat × Cmd) :=
  let on (s : State) (t n m : Nat) : EngRes (Nat × Cmd) :=
    .ok s (0, { c with next := c.next + 1, stamp := max c.stamp t, cnt := c.cnt + n, cnt2 := c.cnt2 + m })
  match c.ins with
  | .xcmp _ _ => (encodeUnit s c c.next).bind (fun s1 x => on s1 x.1 x.2 x.2)
  | .xhdrXp _ f => (remarkUnit s c (bits f.imm.toNat 1 0) c.next).bind (fun s1 x => on s1 x.1 x.2 x.2)
  | .xhdrAdopt _ _ =>
    (adoptLines c c.unitLines s []).bind (fun s1 x =>
      if x.1 ≠ 0 then .ok s1 (x.1, c)
      else (markLines c x.2 s1 0).bind (fun s2 t => on s2 t x.2.length x.2.length))
  | _ =>
    (decodeLines c c.unitLines s []).bind (fun s1 x =>
      if x.1 ≠ 0 then .ok s1 (x.1, c)
      else (commitLines c x.2 s1 0).bind (fun s2 t => on s2 t x.2.length 0))

/-- The chunk at which what is left of a command meets a fault. -/
def faultChunk : Nat → State → Cmd → Nat
  | 0, _, c => c.chunkNow
  | fuel + 1, s, c =>
    match xformUnit s c with
    | .ok s1 (0, c1) => faultChunk fuel s1 c1
    | _ => c.chunkNow

/-- Every unit that is left, up to a failing one. -/
def xformRest : Nat → State → Cmd → EngRes (Nat × Cmd)
  | 0, s, c => .ok s (0, c)
  | fuel + 1, s, c =>
    (xformUnit s c).bind (fun s1 x => if x.1 ≠ 0 then .ok s1 (x.1, x.2) else xformRest fuel s1 x.2)

/-! ## The end of a command (R301 to R303, R305, R309) -/

/-- The header that a command leaves (R287). -/
def newHeader (s : State) (c : Cmd) : Option (EngRes (List Byte)) :=
  match c.ins with
  | .xcmp _ _ => some (.ok s (bufHeader c.hxp c.chunk c.nlines c.cnt2))
  | .xhdrXp _ f => some ((rdBytes s c.ctx c.core c.readTime c.buf c.buf.base 32).bind (fun s1 x =>
      .ok s1 (bufHeader (bits f.imm.toNat 1 0) c.chunk c.nlines (field (toBytes 32 x) 8 4))))
  | .xhdrAdopt _ _ => some (.ok s (bufHeader c.hxp c.chunk c.nlines c.cnt2))
  | .xexp _ _ => some (.ok s (bufHeader c.hxp c.chunk c.nlines (countImages s c)))
  | _ => none

/-- Writes the header line: bytes 32 to 255 are zero (R286). -/
def putHeader (s : State) (c : Cmd) : EngRes Cmd :=
  match newHeader s c with
  | none => .ok s c
  | some r => r.bind (fun s1 hdr => (putPlain s1 c c.buf.base (padTo 256 hdr)).bind (fun s2 t => .ok s2 (stampCmd c t)))

/-- The first status word (R309). -/
def statusWord (fail : Bool) (reason chunk : Nat) : Nat := (if fail then 2 ^ 30 else 0) + reason % 16 * 2 ^ 26 + chunk % 2 ^ 25

/-- Lines of the destination that no chunk will write are present again (R299, R301). -/
def dropLines (s : State) (c : Cmd) : State :=
  if c.xkind ≠ .dec then s
  else if c.keep = [] then setPresent s c.core c.dst.space c.dst.base c.dst.len
  else
    let done := c.chunkNow * c.chunk - c.first
    setPresent s c.core c.dst.space (c.dst.base + 256 * done) (256 * (c.count - done))

/-- A command completes with its status; with .post it stays until its word has been appended (R285). -/
def xformDone (s : State) (c : Cmd) (w : Nat) : State :=
  let s1 := complete s c (fun g => { g with aux := w, aux2 := c.cnt })
  if c.mode = 0 then s1
  else setEngQueue s1 .xform c.core (engQueue s1 .xform c.core ++ [{ c with done := true, keep := [w] }])

/-! ## Events -/

def xcmdAt (s : State) (cluster cmd : Nat) : Option Cmd :=
  (s.clusterAt cluster).xfmq.find? (fun c => decide (c.id = cmd) && !c.done && c.stopped.isNone)

/-- Commands before one in the queue that still run. -/
def xbefore (s : State) (c : Cmd) : List Cmd :=
  ((engQueue s .xform c.core).takeWhile (fun x => x.id ≠ c.id)).filter (fun x => !x.done && x.stopped.isNone)

/-- Encoder commands run in order; a chunk is dispatched to one of eight decoders after every chunk of earlier decode
commands (R300, R303). -/
def xready (s : State) (c : Cmd) : Bool :=
  if c.encodes then (xbefore s c).all (fun x => !x.encodes)
  else
    let d := (xbefore s c).filter (fun x => !x.encodes)
    d.all (fun x => x.keep ≠ []) && decide ((d.map (fun x => x.units - x.next)).foldl (· + ·) 0 ≤ 7)

def withXcmd (s : State) (cluster cmd : Nat) (k : Cmd → Host.Outcome State Fault Refusal) : Host.Outcome State Fault Refusal :=
  match xcmdAt s cluster cmd with
  | some c => if xready s c then k c else .next s
  | none => .next s

def execTransformChunkCommit (cluster cmd : Nat) (s : State) : Host.Outcome State Fault Refusal :=
  withXcmd s cluster cmd (fun c =>
    match headOf s c with
    | .ok s1 (0, c1) =>
      if c1.next < c1.units then
        match xformUnit s1 c1 with
        | .ok s2 (0, c2) => .next (putCmd s2 c2)
        | _ => .next s
      else .next s
    | _ => .next s)

def execTransformChunkFail (cluster cmd : Nat) (s : State) : Host.Outcome State Fault Refusal :=
  withXcmd s cluster cmd (fun c =>
    match headOf s c with
    | .ok s1 (0, c1) =>
      if c1.next < c1.units then
        match xformUnit s1 c1 with
        | .ok s2 (r, c2) =>
          if r = 0 then .next s
          else match putHeader s2 c2 with
            | .ok s3 c3 => .next (xformDone (dropLines s3 c3) c3 (statusWord true r c3.chunkNow))
            | _ => .next s
        | _ => .next s
      else .next s
    | _ => .next s)

/-- A command completes: its header or range is not valid (the chunk of its status is then a free value), or every chunk
has committed. An encoder command's lines that are left are written here. -/
def execTransformCommandComplete (cluster cmd : Nat) (s : State) : Host.Outcome State Fault Refusal :=
  withXcmd s cluster cmd (fun c =>
    match headOf s c with
    | .ok s1 (r, c1) =>
      if r ≠ 0 then
        let (v, s2) := freeVal s1
        .next (xformDone (dropLines s2 c1) c1 (statusWord true r (v % 2 ^ 24)))
      else
        match (if c1.encodes then xformRest (c1.units - c1.next) s1 c1 else .ok s1 (0, c1)) with
        | .ok s2 (0, c2) =>
          if c2.next < c2.units then .next s
          else match putHeader s2 c2 with
            | .ok s3 c3 => .next (xformDone s3 c3 (statusWord false 0
                (if c3.encodes && c3.xkind ≠ .adopt then ceilDiv c3.units c3.chunk else c3.units)))
            | _ => .next s
        | _ => .next s
    | _ => .next s)

def execStreamPost (cluster cmd : Nat) (s : State) : Host.Outcome State Fault Refusal :=
  match (s.clusterAt cluster).xfmq.find? (fun c => decide (c.id = cmd) && c.done) with
  | none => .next s
  | some c =>
    if !(peerEpoch s c.core) then .next s
    else match postWord s (c.mode - 1) (BitVec.ofNat 32 (c.keep.getD 0 0)) (max c.stamp (s.coreAt c.core).lclk) with
      | some s1 => .next (dropCmd s1 c)
      | none => .next s

/-- The fault that a command's next step meets: of its header's read, of a unit, or of its header's write. -/
def xformFault (s : State) (c : Cmd) : Option (State × Cmd × Nat × Nat × Nat) :=
  match headOf s c with
  | .fault s1 e v d => some (s1, c, e, v, d)
  | .ok s1 (0, c1) =>
    let last (s : State) (c : Cmd) : Option (State × Cmd × Nat × Nat × Nat) :=
      match putHeader s c with
      | .fault s1 e v d => some (s1, c, e, v, d)
      | _ => none
    if c1.next < c1.units then
      match xformUnit s1 c1 with
      | .fault s2 e v d => some (s2, c1, e, v, d)
      | .ok s2 (r, c2) => if r = 0 then none else last s2 c2
      | .wait => none
    else last s1 c1
  | _ => none

def execTransformFault (cluster cmd : Nat) (s : State) : Host.Outcome State Fault Refusal :=
  withXcmd s cluster cmd (fun c =>
    match xformFault s c with
    | some (s1, c1, e, v, d) => .next (stopCmd s1 c1 e v d)
    | none => .next s)

/-- TRET.skip and TRET.kill give a stopped command up: its presence bits are set and its status records FAIL (R312). -/
def abandonXform (s : State) (c : Cmd) : State :=
  complete (dropLines s c) c (fun g =>
    { g with ncmd := g.ncmd - 1, aux := statusWord true 0 (if c.keep = [] then 0 else c.chunkNow), aux2 := c.cnt })

end Sys2Proof.Machine
end

