-- ==== Sys2Proof/Machine/Traps.lean ====
section
/-!
DEFINITION. Trap records from delivery to resolution (R179, R182, R251, R278, R312, R315, R340, R362, R384, R429 to R431,
R446, R455, R456): the ring and the mailbox, TRET, declining, and the host's TRESOLVE.
-/
namespace Sys2Proof.Machine

/-! ## Routing (R430, R431) -/

def Rec.code (r : Rec) : Nat := r.cause.toNat % 256

/-- The context L that a record is routed by (R431): a record that TRFLT passed on has DETAIL zero. -/
def Rec.lack (r : Rec) : Option Nat :=
  if (r.code = 0x12 ∨ r.code = 0x13 ∨ r.code = 0x15) ∧ r.detail ≠ 0 then some (bits r.detail 39 26) else none

/-- A context and those above it. -/
def upward (s : State) : Nat → Nat → List Nat
  | 0, _ => []
  | n + 1, ctx => ctx :: (if (s.ctxAt ctx).depth = 0 then [] else upward s n (s.ctxAt ctx).parent)

def pathUp (s : State) (ctx : Nat) : List Nat := upward s 9 ctx

/-- A context claims a cause (R430). -/
def claims (s : State) (code ctx : Nat) : Bool :=
  let c := s.ctxAt ctx
  c.ring.isSome && (c.depth = 0 || c.mask.getLsbD code)

/-- Where a record goes: a context's ring, or the host mailbox. -/
def routeOf (s : State) (r : Rec) : Option Nat :=
  match r.lack with
  | some l =>
    if (s.ctxAt l).depth = 0 then none
    else (pathUp s (s.ctxAt l).parent).find? (fun c => (s.ctxAt c).ring.isSome)
  | none => (pathUp s r.startFrom).find? (claims s r.code)

/-! ## Delivery (R429, R456) -/

/-- A record that waits for its resolution under a token. -/
def Rec.unresolved (r : Rec) : Bool :=
  match r.loc with
  | .ring _ _ => true
  | .mailbox _ => true
  | _ => false

/-- The next token of a partition: never zero, never an unresolved one (R429). -/
def freeToken (s : State) (part : Nat) : Nat → Nat → Nat
  | 0, t => t
  | n + 1, t =>
    if t % 2 ^ 32 = 0 ∨ s.recs.any (fun e => e.2.part = part && e.2.unresolved && e.2.token = some (t % 2 ^ 32)) then
      freeToken s part n (t + 1)
    else t % 2 ^ 32

def nextToken (s : State) (part : Nat) : Nat :=
  freeToken s part (s.recs.length + 2) ((Tab.find s.parts part).map (·.nextToken) |>.getD 1)

/-- The 32 bytes of a record (R182). -/
def recBytes (r : Rec) (token : Nat) : Nat :=
  token + r.cause.toNat * 2 ^ 32 + r.tpc.toNat * 2 ^ 64 + r.lanes.toNat * 2 ^ 96 + r.tval.toNat * 2 ^ 128 +
    r.ctx % 2 ^ 14 * 2 ^ 192 + r.detail % 2 ^ 48 * 2 ^ 208

/-- The record has its token and its place. -/
def placeRec (s : State) (rid : Nat) (r : Rec) (token : Nat) (loc : RecAt) (dest : Option Nat) : State :=
  { s with recs := Tab.put s.recs rid { r with token := some token, loc, routed := if r.lack.isSome then dest else none },
           parts := match Tab.find s.parts r.part with
             | some p => Tab.put s.parts r.part { p with nextToken := (token + 1) % 2 ^ 32 }
             | none => s.parts }

/-- Delivers a record to a context's ring: none while its slot is unresolved, its queue full or its memory not to be
written. -/
def deliverRing (s : State) (rid : Nat) (r : Rec) (ctx : Nat) (g : Ring) : Option State :=
  let slot := g.next % max 1 g.n
  let token := nextToken s r.part
  if g.busy.any (fun b => b.1 = slot) then none
  else match portPut s ctx ((Ptr.ofBits g.ptr).base + 32 * slot) 32 (recBytes r token) 0 with
    | .ok s1 t =>
      (postWord s1 g.queue (BitVec.ofNat 32 (32 * slot)) t).map (fun s2 =>
        (placeRec s2 rid r token (.ring ctx slot) (some ctx)).modCtx ctx (fun c =>
          { c with ring := some { g with next := (slot + 1) % max 1 g.n, busy := g.busy ++ [(slot, token)] } }))
    | _ => none

/-- The function whose mailbox a partition's records go to: its lowest with a ring. -/
def mailFn (s : State) (part : Nat) : Option Nat :=
  ((s.fns.filter (fun e => decide (e.2.part = some part) && decide (e.2.mboxbase ≠ 0))).map (·.1)).head?

/-- Writes a 32-byte record into a mailbox slot and raises a vector: none while the ring is full (R456). -/
def mailPut (s : State) (fn x vector : Nat) : Option State :=
  let f := Tab.get {} s.fns fn
  if (f.mboxtail + 1) % 64 = f.mboxhead % 64 then none
  else
    let f1 : Fn := { f with mbox := Cells.set [] f.mbox f.mboxtail (toBytes 32 x), mboxtail := (f.mboxtail + 1) % 64,
                            msix := f.msix ++ [vector] }
    some { s with fns := Tab.put s.fns fn f1 }

/-- Contained-error records go to the mailbox of their partition, in order, while it has room (R456, R471). The spec gives
their 32 bytes no layout: they are free. -/
def mailErrors : List (Nat × Nat × Nat) → State → State
  | [], s => s
  | e :: r, s =>
    match mailFn s e.1 with
    | some fn =>
      let (v, s1) := freeVal s
      (match mailPut s1 fn (v % 2 ^ 256) 1 with
       | some s2 => mailErrors r { s2 with errors := s2.errors.erase e }
       | none => mailErrors r s)
    | none => mailErrors r s

/-- Every record of the engine that waits for the mailbox alone. -/
def flushErrors (s : State) : State := mailErrors s.errors s

def execTrapRecordDelivery (rid : Nat) (s : State) : Host.Outcome State Fault Refusal :=
  match Tab.find s.recs rid with
  | none => .next (flushErrors s)
  | some r =>
    if r.loc ≠ .engine then .next s
    else match routeOf s r with
      | some ctx =>
        match (s.ctxAt ctx).ring with
        | some g => .next ((deliverRing s rid r ctx g).getD s)
        | none => .next s
      | none =>
        match mailFn s r.part with
        | some fn =>
          let token := nextToken s r.part
          .next (((mailPut s fn (recBytes r token) 0).map (fun s1 => placeRec s1 rid r token (.mailbox fn) none)).getD s)
        | none => .next s

/-! ## What a retry sends again (R179, R252) -/

/-- Sends a load's units again: none while they must wait. -/
def redoLoads (s : State) (r : Rec) : Option State :=
  match r.redo.findSome? (fun b => match b with
      | .read acc _ _ _ _ _ _ => some acc
      | _ => none) with
  | none => some s
  | some acc => reload s r.chain r.seq acc r.tpc.toNat r.past r.units false

/-- Performs one write of a chain again, at its coherence point: its stamp (R251). -/
def replayWrite (s : State) (e : SideEnt) : Res Nat :=
  let core := coreOf e.chain
  let key := atomKey s e.acc e.va
  match e.atom with
  | none => cohWrite s e.acc key e.data e.mask (s.coreAt core).lclk
  | some o =>
    match atomAt s e.acc key e.va o with
    | .ok s1 x =>
      .ok (orFlagWord s1 e.acc.ctx x.home x.flags) x.stamp
    | .fault s1 c d => .fault s1 c d
    | .wait => .wait

/-- The write has been performed: clock, completion stamp and the chain's list. -/
def replayed (s : State) (e : SideEnt) (t : Nat) : State :=
  dropWrite (noteWrite (raiseLclk s (coreOf e.chain) t) (s.coreAt (coreOf e.chain)).epoch e.chain e.part e.sid e.acc.scope t) e.chain e.wid

/-- A write that had been taken back with its parked lanes is outstanding again (R252). -/
def reopen (s : State) (e : SideEnt) : State :=
  s.modChain e.chain (fun c => if c.writes.any (fun w => w.id = e.wid) then c
    else { c with writes := c.writes ++ [{ id := e.wid, seq := e.seq, scope := e.acc.scope, key := atomKey s e.acc e.va }] })

/-- Sends one atomic or parked write again. -/
def redoBody (s : State) (r : Rec) (b : Body) : Option State :=
  match b with
  | .store acc ch seq pc key wid data mask vas _ _ =>
    let c := Tab.get {} s.chains ch
    let e : SideEnt := { chain := ch, rid := 0, seq, wid, acc, va := vaOfKey key, data, mask, vas, atom := none, pc, part := c.part, sid := c.sid }
    redoWrite s e
  | .atom acc ch seq pc va wid lane vas op cells red _ _ tk =>
    let c := Tab.get {} s.chains ch
    let e : SideEnt := { chain := ch, rid := 0, seq, wid, acc, va, data := 0, mask := 0, vas, atom := some op, pc, part := c.part, sid := c.sid }
    if red then redoWrite s e
    else
      let n := (s.coreAt acc.core).seq
      let key := atomKey s acc va
      let (id, s0) := (s.modCore acc.core (fun k => { k with seq := n + 1 })).fresh
      let out : Out := { seq := n, cells, acq := decide (acc.share = 2) || tk.isSome, load := true, units := [], lanes := r.past, pc }
      let body : Body := .atom acc ch n pc va id lane vas op cells false (s.coreAt acc.core).lclk [] none
      let wait (s : State) : State := modPair s ch (fun c => { c with outs := c.outs ++ [out] })
      let ep := (s.coreAt acc.core).epoch
      if acc.tns || acc.win || 2 ≤ acc.scope then
        let s1 := s0.modChain ch (fun c => { c with writes := c.writes ++ [{ id, seq := n, scope := acc.scope, key }] })
        some (wait (if tk.isSome then send s1 5 (key / 4) (siteOf acc.core) 135 ep (.ticket (homeOfKey s key) body)
          else send s1 5 (key / 4) (siteOf acc.core) (homeOfKey s key) ep body))
      else match atomAt s0 acc key va op with
        | .wait => none
        | .fault s1 cause d => some (wait (send s1 1 (key / 4) (homeOfKey s key) (siteOf acc.core) ep
            (.fault ch acc.core n pc (faultMask (vas.map (fun v => { lane := v.1, cause, tval := v.2 }))) cause va d body)))
        | .ok s1 x =>
          let y := oldRegs { lane, va, op, cells, vas } x.old
          some (writeNow (noteWrite (raiseLclk s1 acc.core x.stamp) (s1.coreAt acc.core).epoch ch c.part c.sid acc.scope x.stamp) ch n (y.1 ++ flagCell (y.2 ||| x.flags)))
  | _ => some s
where
  redoWrite (s : State) (e : SideEnt) : Option State :=
    match replayWrite s e with
    | .ok s1 t => some (replayed s1 e t)
    | .fault s1 c d => some (writeFault (reopen s1 e) (coreOf e.chain) e c d)
    | .wait => none

def redoAll : List Body → State → Rec → Option State
  | [], s, _ => some s
  | b :: r, s, x => (redoBody s x b).bind (fun s1 => redoAll r s1 x)

/-! ## The side log (R251) -/

def sideOfChain (s : State) (ch : Nat) : List SideEnt := (s.coreAt (coreOf ch)).side.filter (fun e => e.chain = ch)

def dropSide (s : State) (e : SideEnt) : State :=
  s.modCore (coreOf e.chain) (fun k => { k with side := k.side.filter (fun x => x.wid ≠ e.wid) })

/-- A new record for an entry that faulted again; the later entries of its chain go with it. -/
def relog (s : State) (r : Rec) (e : SideEnt) (cause detail : Nat) : State :=
  let fs : List LaneFault := e.vas.map (fun v => { lane := v.1, cause, tval := v.2 })
  let f := reported fs
  let (rid, s1) := s.fresh
  let r' : Rec :=
    { r with seq := 2 ^ 67 + rid, cause := causeWord true (faultMask fs) f, tpc := BitVec.ofNat 32 e.pc, tval := BitVec.ofNat 64 f.tval,
             lanes := faultMask fs, detail, token := none, loc := .engine, routed := none, startFrom := r.ctx }
  let later (x : SideEnt) : Bool := decide (x.chain = e.chain) && decide (e.seq ≤ x.seq)
  let s2 := { s1 with recs := Tab.put s1.recs rid r' }.modCore (coreOf e.chain) (fun k =>
    { k with side := k.side.map (fun x => if later x then { x with rid } else x) })
  s2.modChain e.chain (fun c => if c.part = e.part ∧ c.sid = e.sid then setTrapRegs (noteCauses c fs) r' else c)

/-- Replays entries in sequence order. -/
def replaySide : List SideEnt → State → Rec → Option State
  | [], s, _ => some s
  | e :: l, s, r =>
    match replayWrite s e with
    | .ok s1 t => replaySide l (dropSide (replayed s1 e t) e) r
    | .fault s1 c d => some (relog s1 r e c d)
    | .wait => none

/-! ## Commands that a record stopped -/

def engOf : Nat → Eng
  | 0 => .copy
  | 1 => .xform
  | 2 => .matrix
  | 3 => .quant
  | _ => .tensor

/-- TRET.skip and TRET.kill give a copy up: what is left of its destination is present, a pending .after release is
cancelled (R278). It enters its group with its flags, its stamp and the indices it found out of range, and is not counted as
completed (DESIGN CHOICE, log entry 98). -/
def abandonCopy (s : State) (c : Cmd) : State :=
  let oor := c.cnt + (c.landed.map (·.2)).foldl (· + ·) 0
  let p := ptrAt c.ks 0
  let s1 := setPresent s c.core p.space c.lo c.len
  let s2 := { s1 with rings := s1.rings.map (fun e =>
    (e.1, { e.2 with after := e.2.after.filter (fun a => !(decide (a.2.1 = c.chain ∧ a.2.2.1 = c.grp ∧ c.seq < a.2.2.2))) })) }
  ringAfters (complete s2 c (fun g => { g with ncmd := g.ncmd - 1, aux := g.aux + oor }))

def abandonCmd (s : State) (c : Cmd) : State :=
  match c.eng with
  | .copy => abandonCopy s c
  | .xform => abandonXform s c
  | .matrix => abandonMatrix s c
  | .quant => abandonQuant s c
  | .tensor => abandonTensor s c

/-- A stopped command goes on, at a new read time (R148). -/
def resumeCmd (s : State) (c : Cmd) : State :=
  let s1 := putCmd s { (c.resumed (s.coreAt c.core).lclk) with stopped := none }
  match c.eng with
  | .tensor => resumeTensor s1 c
  | _ => s1

/-- The stopped commands that a record reports. -/
def recCmds (s : State) (r : Rec) : List Cmd :=
  match r.grp with
  | none => []
  | some (e, g) => (engQueue s (engOf e) (coreOf r.chain)).filter (fun c =>
      decide (c.chain = r.chain) && decide (c.grp = g) && c.stopped.isSome)

def settleCmds (s : State) (r : Rec) (act : Nat) : State :=
  (recCmds s r).foldl (fun s c => if act = 0 then resumeCmd s c else abandonCmd s c) s

/-! ## Parked lanes (R179) -/

/-- Ends lanes of a chain, by TRET.kill when killed. -/
def endOwn (s : State) (ch : Nat) (m : Mask) (killed : Bool) : State :=
  s.modChain ch (fun c => { (c.endLanes m) with killed := c.killed || (killed && decide (m ≠ 0)) })

/-- One park of a record in a chain is resolved. -/
def resolvePark (s : State) (r : Rec) (act ch : Nat) (q : Parked) : State :=
  let s0 := s.modChain ch (fun c => { c with lanecause := c.lanecause.filter (fun e => !(q.lanes.getLsbD e.1)) })
  match act with
  | 0 => reenterOne s0 ch q.lanes q.pc q.prio
  | 1 =>
    let past := q.lanes &&& r.past
    let here := q.lanes &&& ~~~r.past
    let s1 := if past = 0 then s0 else reenterOne s0 ch past q.pc q.prio
    if here = 0 then s1
    else if r.atExit then (if (chainCmds s1 ch).isEmpty then endOwn s1 ch here false else reenterOne s1 ch here q.pc q.prio)
    else reenterOne s1 ch here (if q.pc = r.tpc.toNat ∧ r.code ≠ 0x53 then (q.pc + 8) % 2 ^ 32 else q.pc) q.prio
  | _ => endOwn s0 ch q.lanes true

/-- Every park of a record is resolved, in its chain and in the partner that shares the instruction (R188). -/
def resolveParks (s : State) (rid : Nat) (r : Rec) (act : Nat) : State :=
  (r.chain :: ((s.chain? r.chain).bind (·.pair)).toList).foldl (fun s ch =>
    ((Tab.get {} s.chains ch).parked.filter (fun q => q.why = .trap rid)).foldl (fun s q => resolvePark s r act ch q) s) s

/-- The parcel's prologue runs again before its chain starts (R315). -/
def rerunPrologue (s : State) (ch : Nat) : State :=
  match s.chain? ch with
  | none => s
  | some c =>
    let s1 := modPair s ch (fun c => { c with started := false })
    { s1 with parcels := s1.parcels.map (fun p => if p.sid = surveyKey c.part c.sid ∧ p.pid = c.pid then { p with started := false } else p) }

/-- What a prologue left unwritten is present when its fault is given up (R299, R315). -/
def presentPrologue (s : State) (ch : Nat) : State :=
  match s.chain? ch with
  | none => s
  | some c =>
    match s.parcels.find? (fun p => decide (p.sid = surveyKey c.part c.sid) && decide (p.pid = c.pid)) with
    | none => s
    | some p => p.teams.foldl (fun s t => p.bind.foldl (fun s b => setPresent s t.1 (b.getD 2 0) (b.getD 1 0) (256 * b.getD 4 0)) s) s

/-- A record's slot is free again. -/
def freeSlot (s : State) (r : Rec) : State :=
  match r.loc with
  | .ring ctx slot => s.modCtx ctx (fun c =>
      { c with ring := c.ring.map (fun g => { g with busy := g.busy.filter (fun b => b.1 ≠ slot || some b.2 ≠ r.token) }) })
  | _ => s

/-- Resolves a record: act 0 retry, 1 skip, 2 kill; none while what it sends again must wait. -/
def settleRec (s : State) (rid : Nat) (r : Rec) (act : Nat) : Option State :=
  let s1 := { s with recs := Tab.put s.recs rid { r with loc := .resolved act } }
  let mine := (sideOfChain s1 r.chain).filter (fun e => e.rid = rid)
  let s2 : Option State :=
    if act = 2 then some (mine.foldl (fun s e => dropWrite (dropSide s e) e.chain e.wid) s1)
    else (replaySide mine s1 r).bind (fun s2 =>
      if act = 0 then (redoLoads s2 r).bind (fun s3 => redoAll r.redo s3 r) else some s2)
  s2.map (fun s2 =>
    let s3 := settleCmds s2 r act
    let s4 := if r.code ≠ 0x53 then s3 else if act = 0 then rerunPrologue s3 r.chain else presentPrologue s3 r.chain
    resolveParks s4 rid r act)

/-- A record resolved while its context is out acts when the context is restored. -/
def resolve (s : State) (rid : Nat) (r : Rec) (act : Nat) : Option State :=
  let s1 := freeSlot s r
  if (Tab.find s.saved r.ctx).isSome then some { s1 with recs := Tab.put s.recs rid { r with loc := .later act } }
  else settleRec s1 rid r act

/-- A record whose unresolved token a party holds. -/
def findToken (s : State) (part token : Nat) (at_ : RecAt → Bool) : Option (Nat × Rec) :=
  s.recs.find? (fun e => decide (e.2.part = part) && decide (e.2.token = some token) && at_ e.2.loc)

def inRing (ctx : Nat) : RecAt → Bool
  | .ring c _ => c = ctx
  | _ => false

/-! ## TRET -/

/-- The three actions; a token that names no record of the context raises 0x33, whose TVAL has no handle to hold. -/
def tretMeaning (h : Hdr) (f : F0) (s : State) (act : Nat) : Host.Outcome State Fault Refusal :=
  let c := s.selChain
  let token := sVal c false f.a.toNat s.sel.t0
  match findToken s c.part token (inRing c.ctx) with
  | none =>
    let (v, s1) := freeVal s
    .next (trapIssue s1 h 0x33 (v % 2 ^ 8))
  | some (rid, r) =>
    match resolve s rid r act with
    | none => .next (waitIssue s)
    | some s1 => .next (withMonument (advanceUniform s1 h))

def execTretRetry (h : Hdr) (f : F0) (s : State) : Host.Outcome State Fault Refusal := tretMeaning h f s 0
def execTretSkip (h : Hdr) (f : F0) (s : State) : Host.Outcome State Fault Refusal := tretMeaning h f s 1
def execTretKill (h : Hdr) (f : F0) (s : State) : Host.Outcome State Fault Refusal := tretMeaning h f s 2

/-! ## Declining (R446) -/

/-- The record goes on to the faulting context, under a new token, with cause 0x12 or 0x15 and no DETAIL. -/
def decline (s : State) (rid : Nat) (r : Rec) : State :=
  let code := if r.code = 0x15 then 0x15 else 0x12
  let r' := { r with cause := BitVec.ofNat 32 (r.cause.toNat / 256 * 256 + code), detail := 0, token := none, loc := .engine, routed := none,
                     startFrom := r.ctx }
  freeSlot { s with recs := Tab.put s.recs rid r' } r

/-! ## The host's TRESOLVE (R455, R456) -/

def inMailbox (fn : Nat) : RecAt → Bool
  | .mailbox f => f = fn
  | _ => false

/-- An unknown token is counted. -/
def badToken (s : State) (fn : Nat) : State :=
  let f := Tab.get {} s.fns fn
  { s with fns := Tab.put s.fns fn { f with badTokens := f.badTokens + 1 } }

/-- A write of the token and an action to TRESOLVE. -/
def tresolve (s : State) (fn token : Nat) (k : Nat → Rec → Option State) : Host.Outcome State Fault Refusal :=
  if !(hostUp s) then .next s
  else match (Tab.get {} s.fns fn).part with
  | none => .next s
  | some part =>
    match findToken s part token (inMailbox fn) with
    | none => .next (badToken s fn)
    | some (rid, r) => .next ((k rid r).getD s)

def execTresolveRetry (fn token : Nat) (s : State) : Host.Outcome State Fault Refusal := tresolve s fn token (fun rid r => resolve s rid r 0)
def execTresolveSkip (fn token : Nat) (s : State) : Host.Outcome State Fault Refusal := tresolve s fn token (fun rid r => resolve s rid r 1)
def execTresolveKill (fn token : Nat) (s : State) : Host.Outcome State Fault Refusal := tresolve s fn token (fun rid r => resolve s rid r 2)

def execTresolveDecline (fn token : Nat) (s : State) : Host.Outcome State Fault Refusal :=
  tresolve s fn token (fun rid r => some (if r.lack.isSome then decline s rid r else badToken s fn))

end Sys2Proof.Machine
end

