-- ==== Sys2Proof/Machine/DispatchEngine.lean ====
section
/-!
DEFINITION. The dispatch engine (R386 to R412): launch records, the registry, queues and dependences, placement with its
prologue (R315), the end of chains (R167), completion words, and the host's doorbell (R388).
-/
namespace Sys2Proof.Machine

/-! ## Kernels of a context (R403) -/

/-- The kernel that a KID names, with its slot. -/
def kernOf (s : State) (ctx kid : Nat) : Option (Nat × Kern) :=
  match Tab.find (s.ctxAt ctx).reg (kid % 1024) with
  | some e => if e.gen = kid / 1024 ∧ !e.gone then e.kern.map (fun k => (kid % 1024, k)) else none
  | none => none

/-- The lowest free registry slot and the generation that a kernel there takes. -/
def freeReg (c : Ctx) : Option (Nat × Nat) :=
  (firstBelow 1024 (fun i => match Tab.find c.reg i with
    | some e => e.kern.isNone
    | none => true)).map (fun i => (i, match Tab.find c.reg i with
      | some e => e.gen
      | none => 1))

/-- Registers a kernel: its KID. -/
def register (s : State) (ctx : Nat) (k : Kern) : Option (Nat × State) :=
  (freeReg (s.ctxAt ctx)).map (fun x =>
    (x.2 * 1024 + x.1, s.modCtx ctx (fun c => { c with reg := Tab.put c.reg x.1 { gen := x.2, kern := some k, gone := false } })))

/-- A deregistered slot is free once no survey of its kernel lives; its generation then rises (R405). -/
def settleReg (s : State) (ctx slot : Nat) : State :=
  if s.surveys.any (fun e => decide (e.2.ctx = ctx) && decide (e.2.slot = slot)) then s
  else s.modCtx ctx (fun c => match Tab.find c.reg slot with
    | some e => if e.gone then { c with reg := Tab.put c.reg slot { gen := (e.gen + 1) % 2 ^ 22, kern := none, gone := false } } else c
    | none => c)

/-! ## Launch records (R387, R389) -/

/-- What a record asks for. -/
structure LRec where
  kid : Nat
  gx : Nat
  gy : Nat
  gz : Nat
  prio : Nat
  flags : Nat
  queue : Nat
  die0 : Nat
  ndie : Nat
  smask : Nat
  kmask : Nat
  xbind : Nat
  done : Nat
  res : Nat
deriving DecidableEq, Repr, Inhabited

def LRec.of (x : Nat) : LRec :=
  let f (o n : Nat) : Nat := x / 2 ^ (8 * o) % 2 ^ (8 * n)
  { kid := f 0 4, gx := f 4 2, gy := f 6 2, gz := f 8 2, prio := f 10 1, flags := f 11 1, queue := f 12 1, die0 := f 13 1,
    ndie := f 14 1, smask := f 16 8, kmask := f 24 4, xbind := f 32 8, done := f 40 8, res := f 15 1 + f 28 4 + f 48 16 }

namespace LRec

def pairs (r : LRec) : Bool := bit r.flags 0
def chksb (r : LRec) : Bool := bit r.flags 1
def rm (r : LRec) : Nat := bits r.flags 4 2
def dep (r : LRec) : Nat := bits r.flags 7 5
def nS (r : LRec) : Nat := popN 64 r.smask
def nK (r : LRec) : Nat := popN 32 r.kmask
/-- Bytes of the S table with its padding, and of the whole record. -/
def sBytes (r : LRec) : Nat := 16 * ceilDiv r.nS 4
def len (r : LRec) : Nat := 64 + r.sBytes + 16 * r.nK

end LRec

/-- Registers of a mask paired with the values of a table of w-byte entries. -/
def tableRegs (mask n w x : Nat) : List (Nat × Nat) :=
  ((List.range n).filter (bit mask)).zipIdx.map (fun e => (e.1, x / 2 ^ (8 * w * e.2) % 2 ^ (8 * w)))

/-- The first of the reasons 1 to 6 that a header gives; 0 for none. lim is the pointer's LEN. -/
def headReason (s : State) (ctx : Nat) (k : Option Kern) (r : LRec) (lim : Option Nat) : Nat :=
  let g := r.gx * r.gy * r.gz
  let die (v : Nat) : Bool := (platAt s ctx v).isSome
  match k with
  | none => 1
  | some k =>
    if g = 0 ∨ 2 ^ 24 < g then 2
    else if 7 < r.prio ∨ 4 < r.rm ∨ r.res ≠ 0 then 3
    else if !(die r.die0 && die (r.die0 + (r.ndie - 1))) then 4
    else if r.pairs ∧ (8 < k.team ∨ 32 < 2 * k.team * k.regs) then 5
    else if (match lim with
      | some n => decide (n < r.len)
      | none => false) then 6 else 0

/-- One transform binding: [SRC, DOFF, DSPACE, FIRST, COUNT] and LAST; none when it breaks R314. -/
def bindingOf (x : Nat) : Option (List Nat × Bool) :=
  let f (o n : Nat) : Nat := x / 2 ^ (8 * o) % 2 ^ (8 * n)
  let doff := f 16 4
  let sp := f 20 1
  let n := f 28 4
  match Ptr.spaceSize sp with
  | none => none
  | some size =>
    if sp = 3 ∨ 1 < f 21 1 ∨ f 22 2 ≠ 0 ∨ n = 0 ∨ doff % 256 ≠ 0 ∨ size < doff + 256 * n then none
    else some ([f 0 16, doff, sp, f 24 4, n], f 21 1 = 1)

/-- Reads the binding list, four entries at the most: none when it breaks R314. -/
def readBindings (ctx clk : Nat) : Nat → State → Nat → List (List Nat) → EngRes (Option (List (List Nat)))
  | 0, s, _, _ => .ok s none
  | n + 1, s, a, l =>
    (portBytes s ctx a 32 clk (some (s.ctxAt ctx).lease)).bind (fun s1 x =>
      match bindingOf x with
      | none => .ok s1 none
      | some (b, last) => if last then .ok s1 (some (l ++ [b])) else readBindings ctx clk n s1 (a + 32) (l ++ [b]))

/-! ## Acceptance (R386, R389, R400) -/

def surveysOf (s : State) (part : Nat) : List (Nat × Survey) := s.surveys.filter (fun e => e.2.part = part)

/-- The next SURVEYID of a partition: not 0 and not live. -/
def freeSid (s : State) (part : Nat) : Nat → Nat → Nat
  | 0, t => t
  | n + 1, t =>
    if t % 2 ^ 32 = 0 ∨ (Tab.find s.surveys (surveyKey part (t % 2 ^ 32))).isSome then freeSid s part n (t + 1) else t % 2 ^ 32

def newSid (s : State) (part : Nat) : Nat :=
  freeSid s part (s.surveys.length + 2) (((Tab.find s.parts part).map (·.nextSid)).getD 1)

/-- A count on a context and every ancestor (R415). -/
def countUp (s : State) (ctx : Nat) (f : Ctx → Ctx) : State := (pathUp s ctx).foldl (fun s c => s.modCtx c f) s

/-- The context whose live-survey budget one more survey would pass. -/
def survStop (s : State) (ctx : Nat) : Option Nat := (pathUp s ctx).find? (fun c => decide ((s.ctxAt c).surv < (s.ctxAt c).nsurv + 1))

/-- TVAL of 0x20 for the live-survey budget. -/
def budgetTval (ctx : Nat) : Nat := ctx % 2 ^ 14 * 2 ^ 16

/-- Who submits a record: registry context, running context, queue, LEN of the record's pointer, clock, tL so far, and
whether it is CXRUN.launch. -/
structure Sub where
  kctx : Nat
  ctx : Nat
  obj : Nat
  lim : Option Nat
  clk : Nat
  rel : Nat
  cx : Bool

/-- The image lies in the common half (R437). -/
def inCommon (k : Kern) : Bool := decide (2 ^ 56 ≤ k.image)

/-- The survey is accepted and stands in its queue. -/
def accepted (s : State) (b : Sub) (r : LRec) (slot : Nat) (k : Kern) (sregs kregs : List (Nat × Nat)) (xb : List (List Nat)) (sid t : Nat) :
    State :=
  let part := (s.ctxAt b.ctx).part
  let key := surveyKey part sid
  let v : Survey :=
    { part, ctx := b.ctx, slot, kern := k, gx := r.gx, gy := r.gy, gz := r.gz, prio := r.prio, pairs := r.pairs, chksb := r.chksb,
      rm := r.rm, dep := r.dep, die0 := r.die0, ndie := r.ndie, sregs := sregs.map (fun x => (x.1, BitVec.ofNat 32 x.2)),
      kregs := kregs.map (fun x => (x.1, BitVec.ofNat 128 x.2)), xbind := xb, done := r.done, queue := b.obj, accept := s.nextId,
      clock := max b.rel t }
  let q := queueAt s b.obj
  let s1 : State := { (setQueue s b.obj { q with surveys := q.surveys ++ [key] }) with
    nextId := s.nextId + 1,
    surveys := Tab.put s.surveys key v,
    parts := match Tab.find s.parts part with
      | some p => Tab.put s.parts part { p with nextSid := (sid + 1) % 2 ^ 32 }
      | none => s.parts }
  countUp s1 b.ctx (fun c => { c with nsurv := c.nsurv + 1 })

/-- Judges a record whose bytes a reader supplies: the reason that rejects it, or its SURVEYID. Where more than one reason
applies the lowest is given, in the order in which the engine reads (log entry 60). -/
def submit (s : State) (b : Sub) (rd : State → Nat → Nat → EngRes Nat) : EngRes (Nat ⊕ Nat) :=
  let bad (s : State) (n : Nat) : EngRes (Nat ⊕ Nat) := .ok s (.inl n)
  let ctx := b.ctx
  if (match b.lim with
    | some n => decide (n < 64)
    | none => false) then bad s 6
  else match rd s 0 64 with
    | .wait => .wait
    | .fault s1 _ _ _ => bad s1 9
    | .ok s1 x =>
      let r := LRec.of x
      let ko := kernOf s1 b.kctx r.kid
      match headReason s1 ctx (ko.map (·.2)) r b.lim, ko with
      | 0, some (slot, k) =>
        match rd s1 64 (r.len - 64) with
        | .wait => .wait
        | .fault s2 _ _ _ => bad s2 9
        | .ok s2 tb =>
          let sregs := tableRegs r.smask 64 4 (tb % 2 ^ (8 * r.sBytes))
          let kregs := tableRegs r.kmask 32 16 (tb / 2 ^ (8 * r.sBytes))
          match (if r.xbind = 0 then .ok s2 (some []) else readBindings b.kctx b.clk 4 s2 (r.xbind % 2 ^ 57) []) with
          | .wait => .wait
          | .fault s3 _ _ _ => bad s3 9
          | .ok s3 none => bad s3 7
          | .ok s3 (some xb) =>
            if r.done % 8 ≠ 0 ∨ 2 ^ 57 ≤ r.done then bad s3 8
            else if 65535 ≤ (surveysOf s3 (s3.ctxAt ctx).part).length then bad s3 10
            else if b.cx && !(inCommon k) then bad s3 11
            else if b.cx && decide ((s3.ctxAt ctx).ylimit < k.ypath) then bad s3 12
            else
              let sid := newSid s3 (s3.ctxAt ctx).part
              match (if b.cx then (register s3 ctx k).map (fun x => (x.1 % 1024, x.2)) else some (slot, s3)) with
              | none => bad s3 1
              | some (slot', s4) =>
                match (if r.done = 0 then .ok s4 0 else portPut s4 ctx r.done 8 sid b.clk) with
                | .wait => .wait
                | .fault s5 _ _ _ => bad s5 9
                | .ok s5 t => .ok (accepted s5 b r slot' k sregs kregs xb sid t) (.inr sid)
      | n, _ => bad s1 n

/-! ## LAUNCH (R402) -/

/-- The latency of R22 of a read at an address by an engine of a core: of the L1 or the cluster cache where a copy there covers the read
time, else of the home. -/
def readLat (s : State) (core ctx clk va : Nat) : Nat :=
  let key := keyFor s ctx va
  if (l1Find s core key).any (fun c => l1Serves c clk) then 12
  else if (l2Find s (clusterOf core) key).any (fun c => l2Serves c clk) then 24
  else homeLat s core (homeOfKey s key) key

/-- The cycles from a launch to its result (R402): the record's last line, then the answer of the queue's home die or the completion
word's, the later of the two. -/
def launchLat (s : State) (p : Ptr) (b : Sub) (q : Queue) : Nat :=
  let ctx := s.selChain.ctx
  let site := queueSite s q
  let trip := 2 * (20 + 3 * hops (siteOf s.selCore) site + stitches (siteOf s.selCore) site)
  let r := match rdBytes s ctx s.selCore (s.coreAt s.selCore).lclk p p.base 64 with
    | .ok _ x => LRec.of x
    | _ => LRec.of 0
  let key := keyFor s b.ctx r.done
  2 + readLat s s.selCore ctx (s.coreAt s.selCore).lclk (p.base + (min r.len p.len - 1)) +
    max (if r.done = 0 then 0 else homeLat s s.selCore (homeOfKey s key) key) trip

/-- The result pair of a launch. -/
def launchPair : Nat ⊕ Nat → Nat × Nat
  | .inl reason => (0, reason)
  | .inr sid => (sid, 0)

/-- Sends the record at a pointer: the record's checks, its results and the release of R151. -/
def launchFrom (s : State) (h : Hdr) (f : F4) (p : Ptr) (b : Sub) (q : Queue) (after : State → State) : Host.Outcome State Fault Refusal :=
  match submit s b (fun s' o n => rdBytes s' s.selChain.ctx s.selCore (s.coreAt s.selCore).lclk p (p.base + o) n) with
  | .wait => .next (waitIssue s)
  | .fault s1 c v d => .next (advanceUniform (trapLanes s1 ((lanesOf s.sel.act).map (fun l => { lane := l, cause := c, tval := v })) d) h)
  | .ok s1 x =>
    let y := launchPair x
    let s2 := landV s1 (launchLat s p b q) ([sCell f 0 y.1, sCell f 1 y.2] ++ (if f.nb then pwCells s f.pw true else []))
    .next (finish (after s2) h)

/-- The rule of R402 on the record's pointer. -/
def recordRule (kreg : Nat) (p : Ptr) : Option (Nat × Nat) := if p.space ≠ 0 ∨ p.base % 64 ≠ 0 then some (0x72, kreg) else none

def execLaunch (h : Hdr) (f : F4) (s : State) : Host.Outcome State Fault Refusal :=
  withQueue s h f.hnd (fun obj q =>
    let p := kPtr s f 0
    let kreg := f.pb.toNat
    let ctx := s.selChain.ctx
    match operandCheck s kreg p (recordRule kreg p) false p.base 0 true with
    | some (c, t) => .next (trapIssue s h c t)
    | none =>
      if !q.launch then .next (trapIssue s h 0x70 f.hnd.toNat)
      else match survStop s ctx with
        | some c => .next (trapIssue s h 0x20 (budgetTval c))
        | none =>
          if !(ordered s.selChain (min 2 p.scope)) then .next (waitIssue s)
          else if q.cap ≤ q.surveys.length then .next (orWait s h f.nb f.pw 2)
          else
            let clk := ringTime s s.selCore (s.coreAt s.selCore).lclk
            launchFrom s h f p { kctx := ctx, ctx, obj, lim := some p.len, clk, rel := s.selChain.top, cx := false } q id)

/-! ## KREG (R403) -/

def execKreg (h : Hdr) (f : F4) (s : State) : Host.Outcome State Fault Refusal :=
  let p := kPtr s f 0
  let ctx := s.selChain.ctx
  let fail (s : State) (lat n : Nat) : Host.Outcome State Fault Refusal := .next (finish (landV s lat [sCell f 0 0, sCell f 1 n]) h)
  let trap (s1 : State) (c v d : Nat) : Host.Outcome State Fault Refusal :=
    .next (advanceUniform (trapLanes s1 ((lanesOf s.sel.act).map (fun l => { lane := l, cause := c, tval := v })) d) h)
  match operandCheck s f.pb.toNat p none false p.base 0 (p.base % 8 = 0) with
  | some (c, t) => .next (trapIssue s h c t)
  | none =>
    if !(ordered s.selChain p.scope) then .next (waitIssue s)
    else if p.space ≠ 0 ∨ p.len < 64 then fail s 2 11
    else
      let clk := (s.coreAt s.selCore).lclk
      match rdBytes s ctx s.selCore clk p p.base 64 with
      | .wait => .next (waitIssue s)
      | .fault s1 c v d => trap s1 c v d
      | .ok s1 x =>
        let n := x / 2 ^ 384 % 2 ^ 32
        if p.len < n then fail s1 2 11
        else match rdBytes s1 ctx s.selCore clk p p.base n with
          | .wait => .next (waitIssue s)
          | .fault s2 c v d => trap s2 c v d
          | .ok s2 y =>
            let hd := KHdr.of (toBytes 64 x)
            let lat := 2 + readLat s s.selCore ctx clk p.base + ceilDiv n 256 + hd.nwords + 4 * hd.nblocks
            match checkImage (s.ctxAt ctx).dtab (s.ctxAt ctx).ylimit p.base (toBytes (max n 64) (if n < 64 then x else y)) with
            | .inl r => fail s2 lat r
            | .inr k =>
              match register s2 ctx k with
              | none => fail s2 lat 10
              | some (kid, s3) => .next (finish (landV s3 lat [sCell f 0 kid, sCell f 1 0]) h)

/-! ## Completion (R400) -/

def Survey.total (v : Survey) : Nat := v.gx * v.gy * v.gz

def doneWord (v : Survey) (sid : Nat) (cancel : Bool) : Nat :=
  2 ^ 63 + (if v.killed then 2 ^ 62 else 0) + (if cancel then 2 ^ 61 else 0) + v.ended % 2 ^ 25 * 2 ^ 32 + sid % 2 ^ 32

/-- A prerequisite has completed with a stamp (R395). -/
def meetDeps (s : State) (key tc : Nat) : State :=
  { s with surveys := s.surveys.map (fun e =>
      let n := (e.2.deps.filter (· = key)).length
      (e.1, if n = 0 then e.2
            else { e.2 with deps := e.2.deps.filter (· ≠ key), metDeps := e.2.metDeps + n, clock := max e.2.clock tc })) }

/-- A survey is over: counts, its queue entry and its kernel's slot. -/
def retireSurvey (s : State) (key : Nat) (v : Survey) : State :=
  let s1 := { s with surveys := Tab.erase s.surveys key,
                     queues := s.queues.map (fun e => (e.1, { e.2 with surveys := e.2.surveys.filter (· ≠ key) })) }
  settleReg (countUp (meetDeps s1 key v.tc) v.ctx (fun c => { c with nsurv := c.nsurv - 1 })) v.ctx v.slot

/-- Writes the completion word with a stamp above tC and retires the survey; a fault is reported and the survey still
counts as complete. None while the word cannot be written. -/
def completeSurvey (s : State) (key : Nat) (v : Survey) (cancel : Bool) : Option State :=
  if v.done = 0 then some (retireSurvey s key v)
  else match portPut s v.ctx v.done 8 (doneWord v key cancel) (v.tc + 1) with
    | .wait => none
    | .fault s1 c a _ => some (retireSurvey (reportTo s1 v.ctx c a) key v)
    | .ok s1 _ => some (retireSurvey s1 key v)

/-- Cancels surveys that have not placed a parcel. -/
def cancelAll : List Nat → State → Option State
  | [], s => some s
  | key :: r, s =>
    match Tab.find s.surveys key with
    | some v => if v.next = 0 then (completeSurvey s key v true).bind (cancelAll r) else cancelAll r s
    | none => cancelAll r s

/-! ## KDEREG, SWAIT, QCFG and DEPADD (R405 to R408) -/

/-- Withdraws a kernel of a context: its unplaced surveys are cancelled. -/
def deregister (s : State) (ctx slot : Nat) : Option State :=
  let s1 := s.modCtx ctx (fun c => match Tab.find c.reg slot with
    | some e => { c with reg := Tab.put c.reg slot { e with gone := true } }
    | none => c)
  let keys := (s1.surveys.filter (fun e => decide (e.2.ctx = ctx) && decide (e.2.slot = slot))).map (·.1)
  (cancelAll keys s1).map (fun s2 => settleReg s2 ctx slot)

def execKdereg (h : Hdr) (f : F4) (s : State) : Host.Outcome State Fault Refusal :=
  let ctx := s.selChain.ctx
  if !(ordered s.selChain 0) then .next (waitIssue s)
  else match kernOf s ctx (sOp s f 0) with
    | none => .next (finish (landV s 4 [sCell f 1 1]) h)
    | some (slot, _) =>
      match deregister s ctx slot with
      | none => .next (waitIssue s)
      | some s1 => .next (finish (landV s1 4 [sCell f 1 0]) h)

/-- The rule of R406 on the pointer of a completion word. -/
def wordRule (kreg : Nat) (p : Ptr) : Option (Nat × Nat) :=
  if p.space = 0 ∧ p.share = 2 ∧ p.scope = 3 ∧ (p.fmt = 0 ∨ p.fmt = 6) ∧ 8 ≤ p.len then none else some (0x72, kreg)

def execSwait (h : Hdr) (f : F4) (s : State) : Host.Outcome State Fault Refusal :=
  let p := kPtr s f 0
  let ctx := s.selChain.ctx
  let core := s.selCore
  match operandCheck s f.pb.toNat p (wordRule f.pb.toNat p) false p.base 8 (p.base % 8 = 0) with
  | some (c, t) => .next (trapIssue s h c t)
  | none =>
    if acquireOpen s.selChain then .next (waitIssue s)
    else
      let key := accKey s ctx p p.base
      match cohRead s { ctx, core, share := 2, scope := 3 } key (s.coreAt core).lclk true with
      | .wait => .next (waitIssue s)
      | .fault s1 c d =>
        .next (advanceUniform (trapLanes s1 ((lanesOf s.sel.act).map (fun l => { lane := l, cause := c, tval := p.base })) d) h)
      | .ok s1 r =>
        let w := sectorBytes r.data (p.base % 64) 8
        let lat := homeLat s core (homeOfKey s key) key
        if bit w 63 ∧ w % 2 ^ 32 = sOp s f 0 then
          let s2 := landV (raiseLclk s1 core r.wts) lat (sCell f 1 (w / 2 ^ 32) :: (if f.nb then pwCells s f.pw true else []))
          .next (advanceUniform s2 h)
        else .next (orWait s h f.nb f.pw lat)

/-- A valid configuration word (R392). -/
def cfgOk (w : Nat) : Bool :=
  let scope := bits w 18 16
  bits w 23 19 = 0 && bits w 15 4 = 0 && decide (bits w 3 0 ≤ 12) && decide (1 ≤ scope) && decide (scope ≤ 3) &&
    (if bit w 27 then scope ≠ 1 else bits w 31 28 = 15 && bits w 26 24 = 0)

/-- A queue takes a word: it is emptied, and parked operations act on it as it now is. -/
def configure (s : State) (obj : Nat) (w : W32) : Option State :=
  (cancelAll (queueAt s obj).surveys s).map (fun s1 =>
    let left := (queueAt s1 obj).surveys
    let s2 := { s1 with surveys := s1.surveys.map (fun e => (e.1, if left.contains e.1 then { e.2 with queue := 0 } else e.2)) }
    serveAll (setQueue s2 obj { queueAt s2 obj with cfg := w, data := [], surveys := [] }) obj)

def execQcfg (h : Hdr) (f : F4) (s : State) : Host.Outcome State Fault Refusal :=
  withQueue s h f.hnd (fun obj _ =>
    let w := sOp s f 0
    if !(cfgOk w) then .next (trapIssue s h 0x71 w)
    else if !(ordered s.selChain 0) then .next (waitIssue s)
    else match configure s obj (BitVec.ofNat 32 w) with
      | none => .next (waitIssue s)
      | some s1 => .next (finish s1 h))

def execDepadd (h : Hdr) (f : F4) (s : State) : Host.Outcome State Fault Refusal :=
  let c := s.selChain
  let part := (s.ctxAt c.ctx).part
  let d := sOp s f 0
  let pre := sOp s f 1
  let key := surveyKey part d
  if !(ordered c 0) then .next (waitIssue s)
  else match Tab.find s.surveys key with
    | none => .next (trapIssue s h 0x73 d)
    | some v =>
      if v.ctx ≠ c.ctx ∨ v.dep ≤ v.deps.length + v.metDeps ∨ pre = d then .next (trapIssue s h 0x73 d)
      else
        let pk := surveyKey part pre
        let v' := if (Tab.find s.surveys pk).isSome then { v with deps := v.deps ++ [pk] } else { v with metDeps := v.metDeps + 1 }
        .next (finish { s with surveys := Tab.put s.surveys key v' } h)

/-! ## Queries (R397, R409, R410) -/

/-- Cores that hold a chain. -/
def occupiedCores (s : State) : List Nat := (s.chains.map (fun e => coreOf e.1)).eraseDups

/-- The model current of a core at a base code, in mA. -/
def coreMilliamps (b : Nat) : Nat := 3000 + 150 * b

/-- The placement sum of an island. -/
def placeSum (s : State) (island : Nat) : Nat :=
  ((occupiedCores s).filter (fun c => islandOf (siteOf c) = island)).foldl (fun a c => a + coreMilliamps (s.coreAt c).base) 0

def islandLimit : Nat := 2000000

/-- Compute dies of an island. -/
def islandDies (island : Nat) : List Nat := (List.range 256).filter (fun x => isCompute x && decide (islandOf x = island))

/-- The round trip to the nearest compute die of an island. -/
def islandLat (site island : Nat) : Nat :=
  40 + ((islandDies island).map (fun x => 3 * hops site x + stitches site x)).foldl min (3 * 64)

def execBudgqIsland (h : Hdr) (f : F4) (s : State) : Host.Outcome State Fault Refusal :=
  match platAt s s.selChain.ctx (sOp s f 0) with
  | none => .next (advanceUniform (landV s 40 [sCell f 0 noDie, sCell f 1 noDie]) h)
  | some p =>
    let i := islandOf p.site
    .next (advanceUniform (landV s (islandLat (siteOf s.selCore) i) [sCell f 0 (placeSum s i), sCell f 1 islandLimit]) h)

def execBudgqCtx (h : Hdr) (f : F4) (s : State) : Host.Outcome State Fault Refusal :=
  let c := s.ctxAt s.selChain.ctx
  let w (a b : Nat) : Nat := min 65535 a + min 65535 b * 2 ^ 16
  .next (advanceUniform (landV s 4 [sCell f 0 (w c.nsurv c.surv), sCell f 1 (w c.nparc c.parc)]) h)

def execPairq (h : Hdr) (f : F4) (s : State) : Host.Outcome State Fault Refusal :=
  -- of a pair the word is produced once for both, as the primary reads it (R188; log entry 105)
  let c := Tab.get {} s.chains (primaryOf s s.sel.chain)
  let w := match c.pair with
    | some q => 2 ^ 31 + (if c.shadow then 2 ^ 30 else 0) + slotOf q * 2 ^ 16 + min 65535 c.ncmp
    | none => min 65535 c.ncmp
  .next (advanceUniform (landV s 4 [sCell f 0 w]) h)

/-! ## Placement (R394 to R398) -/

/-- A context that may have parcels placed: it runs and is not pre-empted (R396). -/
def mayPlace (s : State) (ctx : Nat) : Bool := (s.ctxAt ctx).st = .running && !(s.ctxAt ctx).out && (Tab.find s.saved ctx).isNone

/-- A core lies in the plat of a context. -/
def inPlat (s : State) (ctx core : Nat) : Bool :=
  (s.ctxAt ctx).plat.any (fun p => decide (p.site = siteOf core) && p.cores.contains (core % 64))

/-- A core is lent to a running child (R416). -/
def lent (s : State) (ctx core : Nat) : Bool :=
  s.ctxs.any (fun e => decide (e.2.depth ≠ 0) && decide (e.2.parent = ctx) && decide (e.2.st = .running) && inPlat s e.1 core)

/-- The surveys whose next parcel may be placed (R394, R395). -/
def headsOf (s : State) (part : Nat) : List (Nat × Survey) :=
  let qs := s.queues.filterMap (fun e => if e.2.launch then e.2.surveys.head? else none)
  (surveysOf s part).filter (fun e => decide (e.2.next < e.2.total) && decide (e.2.metDeps = e.2.dep) && mayPlace s e.2.ctx &&
    (qs.contains e.1 || decide (e.2.queue = 0)))

/-- Effective priority of a head (R394). How long it has been head is time, which is left out: what aging adds is free. -/
def effPrio (s : State) (v : Survey) (age : Nat) : Nat :=
  let c := if v.queue = 0 then 0xF0000000 else (queueAt s v.queue).cfg.toNat
  min 15 (bits c 26 24 + v.prio + (if bits c 31 28 = 15 then 0 else age % 16))

/-- Order of heads: larger priority first, then earlier acceptance. -/
def insertHead (x : Nat × Nat × Survey) : List (Nat × Nat × Survey) → List (Nat × Nat × Survey)
  | [] => [x]
  | y :: r => if y.1 < x.1 ∨ (y.1 = x.1 ∧ x.2.2.accept < y.2.2.accept) then x :: y :: r else y :: insertHead x r

/-- Chain slots that a team takes on a core (R398): the lowest free ones. -/
def teamSlots (s : State) (v : Survey) (core : Nat) : Option (List Nat) :=
  let free (i : Nat) : Bool := (s.chain? (16 * core + i)).isNone
  let n := v.kern.team
  if v.pairs then
    if (List.range n).all (fun i => free i && free (i + 8)) then some (List.range n ++ (List.range n).map (· + 8)) else none
  else
    let l := (List.range 16).filter free
    if l.length < n then none else some (l.take n)

/-- Blocks of a team's quota (R45, R398). -/
def teamQuota (v : Survey) : Nat := v.kern.team * v.kern.regs * (if v.pairs then 2 else 1)

/-- Kernels of the parcels that stand on a core, and those of a cluster. -/
def kernsOn (s : State) (core : Nat) : List Kern :=
  (s.parcels.filter (fun p => !p.out && p.teams.any (fun t => t.1 = core))).filterMap (fun p => (Tab.find s.surveys p.sid).map (·.kern))

/-- A team of a survey fits on a core. -/
def teamFits (s : State) (v : Survey) (core : Nat) : Bool :=
  let k := s.coreAt core
  let ks := kernsOn s core
  let sum (f : Kern → Nat) : Nat := (ks.map f).foldl (· + ·) 0
  let acc := (s.chains.filter (fun e => coreOf e.1 = core && !e.2.shadow)).foldl (fun a e => a + e.2.kern.acc) 0
  !k.fenced && (teamSlots s v core).isSome &&
    decide ((k.pools.map (·.2.quota)).foldl (· + ·) 0 + teamQuota v ≤ 32) && decide (acc + v.kern.team * v.kern.acc ≤ 8) &&
    decide (sum Kern.wbuf + v.kern.wbuf ≤ 65536) && decide (sum Kern.abuf + v.kern.abuf ≤ 65536)

/-- Where a parcel goes: its cores in TEAMID order, the base code of newly occupied ones, and its ways of the cluster cache. -/
structure Fit where
  cores : List Nat
  base : Nat
  ways : List Nat
deriving DecidableEq, Repr, Inhabited

/-- Ways of a cluster that parcels hold. -/
def waysTaken (s : State) (clu : Nat) : List Nat := (s.parcels.filter (fun p => !p.out && decide (p.cluster = clu))).flatMap (·.cways)

/-- The ways that the cluster-shared space of a kernel takes, from the highest free one downwards (R472). -/
def waysFor (s : State) (k : Kern) (clu : Nat) : Option (List Nat) :=
  let n := ceilDiv k.cshr 131072
  let free := ((List.range 16).reverse).filter (fun w => !((waysTaken s clu).contains w))
  if free.length < n then none else some (free.take n)

/-- The highest base code from 6 down that keeps an island's placement sum within its limit (R397). -/
def baseFor (s : State) (site n : Nat) : Option Nat :=
  ((List.range 7).reverse).find? (fun b => decide (placeSum s (islandOf site) + n * coreMilliamps b ≤ islandLimit))

/-- A parcel of a survey on a cluster (R396). -/
def clusterFit (s : State) (v : Survey) (site clu : Nat) (cores : List Nat) : Option Fit :=
  let mine := (cores.filter (fun c => c / 8 = clu)).map (fun c => site * 64 + c)
  let ok := (mine.filter (fun c => !(lent s v.ctx c) && teamFits s v c)).take v.kern.parcel
  if ok.length < v.kern.parcel then none
  else match waysFor s v.kern (site * 8 + clu) with
    | none => none
    | some ways => (baseFor s site (ok.filter (fun c => !((occupiedCores s).contains c))).length).map (fun b => { cores := ok, base := b, ways })

/-- The virtual dies of a survey. -/
def diesFor (s : State) (v : Survey) : List Plat :=
  let l := (s.ctxAt v.ctx).plat.drop v.die0
  if v.ndie = 0 then l else l.take v.ndie

/-- The first cluster, in ascending (virtual die, cluster), on which the next parcel fits. -/
def fitOf (s : State) (v : Survey) : Option Fit :=
  if (pathUp s v.ctx).any (fun c => decide ((s.ctxAt c).parc < (s.ctxAt c).nparc + 1)) then none
  else (diesFor s v).findSome? (fun p => (List.range 8).findSome? (fun c => clusterFit s v p.site c p.cores))

/-- A chain of a team at its start (R44, R391); it first issues 32 cycles after its placement at the earliest (R399). -/
def startChain (v : Survey) (sid team idx : Nat) (pair : Option Nat) (shadow : Bool) (cc : Nat) : Chain :=
  { ctx := v.ctx, part := v.part, sid, pid := v.next, team, idx, kern := v.kern,
    s := v.sregs.foldl (fun m x => Cells.set 0 m x.1 x.2) [], k := v.kregs.foldl (fun m x => Cells.set 0 m x.1 x.2) [],
    frontier := [{ prio := v.kern.prio, pc := 0, rot := false, lanes := allLanes }], live := allLanes,
    fpst := BitVec.ofNat 32 (v.rm * 512), chksb := v.chksb, pair, shadow, elig := cc + 32, eligSince := cc }

/-- Places one team on a core: its chains and its pool. -/
def placeTeam (s : State) (v : Survey) (sid team core : Nat) (slots : List Nat) : State :=
  let n := v.kern.team
  let cc := (s.coreAt core).cc
  let s1 := slots.zipIdx.foldl (fun s x =>
    let i := x.2 % n
    let mate := if v.pairs then some (16 * core + slots.getD ((x.2 + n) % (2 * n)) 0) else none
    s.setChain (16 * core + x.1) (startChain v sid team i mate (v.pairs && decide (n ≤ x.2)) cc)) s
  let c := Tab.get {} s1.chains (16 * core + slots.getD 0 0)
  s1.modCore core (fun k => { k with pools := Tab.put k.pools (poolKey c) { quota := teamQuota v, used := 0, wait := [] } })

/-- Lines of a cluster cache that its cacheable ways no longer hold leave, least recently used first (R472). -/
def trimL2 (s : State) (clu : Nat) : State :=
  let k := s.clusterAt clu
  let extra := (k.lru.zipIdx.filter (fun x =>
    decide (16 - k.ways ≤ ((k.lru.take x.2).filter (fun y => y % 512 = x.1 % 512)).length))).map (·.1)
  extra.foldl (fun s ln =>
    ((List.range 4).foldl (fun s i => l2Drop s clu (ln * 4 + i)) s).modCluster clu (fun k => { k with lru := k.lru.filter (· ≠ ln) })) s

/-- The ways of a cluster follow the parcels placed on it. -/
def settleWays (s : State) (clu : Nat) : State :=
  trimL2 (s.modCluster clu (fun k => { k with ways := (waysTaken s clu).length })) clu

/-- Places the next parcel of a survey. -/
def placeParcel (s : State) (key : Nat) (v : Survey) (x : Fit) : State :=
  let sid := key % 2 ^ 32
  let new := x.cores.filter (fun c => !((occupiedCores s).contains c))
  let teams := x.cores.map (fun c => (c, (teamSlots s v c).getD []))
  let clu := clusterOf (x.cores.getD 0 0)
  let p : Parcel := { sid := key, pid := v.next, cluster := clu, teams, bind := v.xbind, cways := x.ways }
  let s1 := teams.zipIdx.foldl (fun s t => placeTeam s v sid t.2 t.1.1 t.1.2) s
  let s2 := x.cores.foldl (fun s c => s.modCore c (fun k =>
    { k with lclk := max k.lclk v.clock, denied := 0, base := if new.contains c then x.base else k.base })) s1
  let v' := { v with next := v.next + 1 }
  let s3 : State := { s2 with
    parcels := s2.parcels ++ [p],
    surveys := Tab.put s2.surveys key v',
    queues := if v'.next < v.total then s2.queues
              else s2.queues.map (fun e => (e.1, { e.2 with surveys := e.2.surveys.filter (· ≠ key) })) }
  settleWays (countUp s3 v.ctx (fun c => { c with nparc := c.nparc + 1 })) clu

def execParcelPlacement (part : Nat) (s : State) : Host.Outcome State Fault Refusal :=
  let hs := headsOf s part
  let order := (hs.zipIdx.map (fun x => (effPrio s x.1.2 (Config.freeNat (s.tick + x.2)), x.1))).foldl (fun l x => insertHead x l) []
  let s1 := { s with tick := s.tick + hs.length }
  match order.findSome? (fun x => (fitOf s1 x.2.2).map (fun y => (x.2, y))) with
  | none => .next s1
  | some ((key, v), x) =>
    -- cores compare their clocks with the survey's stamps, which stand in the latest epoch
    if x.cores.all (peerEpoch s1) then .next (placeParcel s1 key v x) else .next s1

/-! ## The prologue (R315) and the first issue (R399) -/

/-- What a prologue answers: every line landed, or a binding failed with its REASON and chunk. -/
inductive Pro where
  | ok (s : State)
  | fail (s : State) (idx reason chunk : Nat)
  | wait
deriving Inhabited

/-- A binding as an XDEC of a core. -/
def bindCmd (s : State) (ctx core : Nat) (b : List Nat) : Cmd :=
  let sp := b.getD 2 0
  let n := b.getD 4 0
  let dst : Ptr := { (default : Ptr) with
    ver := 1, hdie := vdieOf s ctx core, hclu := core / 8 % 8, hcore := core % 8, space := sp, len := 256 * n, base := b.getD 1 0,
    scope := if sp = 4 then 1 else 0 }
  { id := 0, chain := 16 * core, ctx, sid := 0, pid := 0, core, seq := 0, eng := .xform, grp := 0, ins := .xdec default default, mode := 0,
    ks := [dst.toBits, BitVec.ofNat 128 (b.getD 0 0)], ss := [b.getD 3 0, n], readTime := (s.coreAt core).lclk }

/-- The source pointer of a binding passes the checks of a compressed operand. -/
def bindOk (s : State) (ctx core : Nat) (p : Ptr) : Bool := p.valid && (compRule p).isNone && homeOk s ctx core p && decide (32 ≤ p.len)

/-- Performs one binding on a core (R299, R315): the destination's presence bits are cleared, and set again as its lines land or
its failing chunk has its turn; those that a fault leaves unwritten stay clear. -/
def runBinding (s0 : State) (ctx core idx : Nat) (b : List Nat) : Pro :=
  let c := bindCmd s0 ctx core b
  let s := clearPresent s0 core c.dst.space c.dst.base c.dst.len
  if !(bindOk s ctx core c.buf) then .fail s idx 0 0
  else match headOf s c with
    | .wait => .wait
    | .fault s1 _ _ _ =>
      let (v, s2) := freeVal s1
      .fail s2 idx 0 (v % 2 ^ 24)
    | .ok s1 (r, c1) =>
      if r ≠ 0 then
        let (v, s2) := freeVal s1
        .fail (dropLines s2 c1) idx r (v % 2 ^ 24)
      else match xformRest c1.units s1 c1 with
        | .wait => .wait
        | .fault s2 _ _ _ => .fail s2 idx 0 (faultChunk c1.units s1 c1)
        | .ok s2 (r2, c2) => if r2 = 0 then .ok s2 else .fail (dropLines s2 c2) idx r2 c2.chunkNow

/-- The bindings in order: each core for its own buffers, the lowest for the cluster's. One that fails holds no other up, and the
first is the prologue's. -/
def runPrologue : List (Nat × Nat × List Nat) → State → Nat → Pro
  | [], s, _ => .ok s
  | (idx, core, b) :: r, s, ctx =>
    match runBinding s ctx core idx b with
    | .ok s1 => runPrologue r s1 ctx
    | .wait => .wait
    | .fail s1 i reason chunk =>
      match runPrologue r s1 ctx with
      | .ok s2 => .fail s2 i reason chunk
      | .fail s2 _ _ _ => .fail s2 i reason chunk
      | .wait => .wait

/-- The work of a parcel's prologue. -/
def prologueOf (p : Parcel) : List (Nat × Nat × List Nat) :=
  let cores := p.teams.map (·.1)
  let low := cores.foldl min (cores.getD 0 0)
  p.bind.zipIdx.flatMap (fun x => (if x.1.getD 2 0 = 4 then [low] else cores).map (fun c => (x.2, c, x.1)))

def parcelChains (p : Parcel) : List Nat := p.teams.flatMap (fun t => t.2.map (fun i => 16 * t.1 + i))

/-- The chains of a parcel that stand before their first issue. -/
def startParcel (s : State) (p : Parcel) (f : State → Nat → State) : State :=
  let s1 := { s with parcels := s.parcels.map (fun x => if x.sid = p.sid ∧ x.pid = p.pid then { x with started := true } else x) }
  let s2 := ((parcelChains p).filter (fun ch => !(Tab.get {} s1.chains ch).started)).foldl (fun s ch => (f s ch).modChain ch (fun c =>
    { c with started := true, elig := max c.elig (s.coreAt (coreOf ch)).cc })) s1
  p.teams.foldl (fun s t => monument s t.1 ((Tab.find s.surveys p.sid).map (·.ctx) |>.getD 0)) s2

def waitingParcel (s : State) (sid pid : Nat) : Option (Parcel × Survey) :=
  match s.parcels.find? (fun p => decide (p.sid = sid) && decide (p.pid = pid) && !p.started), Tab.find s.surveys sid with
  | some p, some v => some (p, v)
  | _, _ => none

def execParcelFirstIssue (sid pid : Nat) (s : State) : Host.Outcome State Fault Refusal :=
  match waitingParcel s sid pid with
  | none => .next s
  | some (p, v) =>
    match runPrologue (prologueOf p) s v.ctx with
    | .ok s1 => .next (startParcel s1 p (fun s _ => s))
    | _ => .next s

/-- Parks a chain at word 0 with the prologue's cause. -/
def parkProlog (tval : Nat) (s : State) (ch : Nat) : State :=
  let c := Tab.get {} s.chains ch
  let (rid, s1) := record s ch (2 ^ 66 + s.nextId) 0 false ((lanesOf c.live).map (fun l => { lane := l, cause := 0x53, tval })) 0
  s1.modChain ch (fun c => c.park c.live (.trap rid) 0 c.kern.prio)

def execPrologueFailure (sid pid : Nat) (s : State) : Host.Outcome State Fault Refusal :=
  match waitingParcel s sid pid with
  | none => .next s
  | some (p, v) =>
    match runPrologue (prologueOf p) s v.ctx with
    | .fail s1 idx reason chunk => .next (startParcel s1 p (parkProlog (idx * 2 ^ 30 + reason % 16 * 2 ^ 26 + chunk % 2 ^ 24)))
    | _ => .next s

/-! ## The end of a chain (R167, R175, R318) -/

/-- Whether a chain with no live lane has nothing on its way; its writes may have retired into the side log. -/
def endable (s : State) (ch : Nat) : Bool :=
  match s.chain? ch with
  | none => false
  | some c => c.live = 0 && c.outs.isEmpty && c.pend.isEmpty &&
      c.writes.all (fun w => (s.coreAt (coreOf ch)).side.any (fun e => e.wid = w.id))

/-- The kind of a barrier object, as a handle names it. -/
def barrierKind (s : State) (obj : Nat) : Bool :=
  (s.ctxs.findSome? (fun e => e.2.handles.findSome? (fun x => match x.2.obj with
    | .barrier parcel o => if o = obj then some parcel else none
    | _ => none))).getD false

/-- Barrier phases that complete now that a chain of a team has left. -/
def settleBarriers (s : State) (c : Chain) : State :=
  let left := s.chains.filter (fun e => sameParcel c e.2)
  let objs := (left.flatMap (fun e => e.2.bars.map (·.1))).eraseDups
  objs.foldl (fun s obj =>
    let parcel := barrierKind s obj
    match (if parcel then left else left.filter (fun e => e.2.team = c.team)).head? with
    | none => s
    | some (ch, x) =>
      let key := barKey x parcel obj
      let b := barOf s ch key
      let mates := left.filter (fun e => decide (e.2.team = c.team) && !e.2.shadow)
      let phase := mates.foldl (fun a e => min a (arrival e.2 obj).1) ((mates.head?.map (fun e => (arrival e.2 obj).1)).getD 0)
      let s1 := if parcel && decide (b.c < phase) && !(b.arrivals.contains (phase, c.team)) then
          setBar s ch key { b with arrivals := b.arrivals ++ [(phase, c.team)] } else s
      completePhases 33 s1 ch parcel obj) s

/-- The parcel has ended when its last chain has: its ways, pools and barriers are free, and its cores' offsets are 0. -/
def endParcel (s : State) (key : Nat) (c : Chain) : State :=
  if s.chains.any (fun e => sameParcel c e.2) then s
  else match s.parcels.find? (fun p => decide (p.sid = key) && decide (p.pid = c.pid)) with
    | none => s
    | some p =>
      let pk := c.sid * 2 ^ 24 + c.pid
      let s1 := p.teams.foldl (fun s t => s.modCore t.1 (fun k => { k with offset := 0, pools := k.pools.filter (fun e => e.1 / 16 ≠ pk) })) s
      let s2 := s1.modCluster p.cluster (fun k => { k with bars := k.bars.filter (fun e => e.1 / 16 % 2 ^ 56 ≠ pk) })
      let s3 : State := { s2 with
        parcels := s2.parcels.filter (fun x => !(decide (x.sid = p.sid) && decide (x.pid = p.pid))),
        surveys := match Tab.find s2.surveys key with
          | some v => Tab.put s2.surveys key { v with ended := v.ended + 1 }
          | none => s2.surveys }
      settleWays (countUp s3 c.ctx (fun x => { x with nparc := x.nparc - 1 })) p.cluster

/-- Removes a chain, and its shadow, from its core. -/
def dropChain (s : State) (ch : Nat) (c : Chain) : State :=
  let key := surveyKey c.part c.sid
  let s1 := unmapAccs (freeBlocks s ch c.blocks) ch (c.accs.map (·.1))
  let gone := ch :: c.pair.toList
  let s2 : State := { s1 with
    chains := gone.foldl (fun t x => Tab.erase t x) s1.chains,
    spins := s1.spins.filter (fun r => !(gone.contains r.2.2.2.1)),
    surveys := match Tab.find s1.surveys key with
      | some v => Tab.put s1.surveys key { v with killed := v.killed || c.killed }
      | none => s1.surveys }
  -- what the chain wrote is not undone: it cannot be issued again
  monument (endParcel (settleBarriers s2 c) key c) (coreOf ch) c.ctx

def execChainEnd (core slot : Nat) (s0 : State) : Host.Outcome State Fault Refusal :=
  let ch := 16 * core + slot % 16
  let s := match (Tab.get {} s0.chains ch).pair with
    | some q => commit (commit s0 ch) q
    | none => commit s0 ch
  match s.chain? ch with
  | none => .next s0
  | some c =>
    if c.shadow || !(endable s ch) || c.pair.any (fun q => !(endable s q)) then .next s0
    else .next (dropChain s ch c)

/-! ## The end of a survey (R400) -/

/-- Every core a survey may have left something on, pre-empted ones included. -/
def allCores (s : State) : List Core := s.cores.map (·.2) ++ s.savedCores.map (·.2)

/-- Commands of a survey that have not completed. -/
def surveyCmds (s : State) (part sid : Nat) : List Cmd :=
  ((allCores s).flatMap (fun k => k.copyq ++ k.matq ++ k.qntq ++ k.tenq) ++ s.clusters.flatMap (fun e => e.2.xfmq)).filter (fun c =>
    decide (c.sid = sid) && decide ((s.ctxAt c.ctx).part = part) && !c.done)

/-- A stopped command whose chain has ended can be raised nowhere: it is given up as TRET.kill would (log entry 61). -/
def giveUp (s : State) (part sid : Nat) : State :=
  (surveyCmds s part sid).foldl (fun s c => if c.stopped.isSome && (ownerOf s c).isNone then abandonCmd s c else s) s

/-- Side-log entries of a survey. -/
def surveySide (s : State) (part sid : Nat) : Bool :=
  (allCores s).any (fun k => k.side.any (fun e => decide (e.part = part) && decide (e.sid = sid)))

def execSurveyCompletion (sid : Nat) (s0 : State) : Host.Outcome State Fault Refusal :=
  match Tab.find s0.surveys sid with
  | none => .next s0
  | some v0 =>
    let n := sid % 2 ^ 32
    if v0.ended < v0.total then .next s0
    else
      let s := giveUp s0 v0.part n
      let v := Tab.get v0 s.surveys sid
      if !(surveyCmds s v.part n).isEmpty || surveySide s v.part n then .next s0
      else .next ((completeSurvey s sid v false).getD s0)

/-! ## The host's doorbell (R388, R455, R458) -/

/-- The queue that the record of the doorbell names, if it is a launch queue of the root. -/
def doorQueue (s : State) (ctx hnd : Nat) : Option Nat :=
  match handleObj s ctx hnd with
  | .queue obj => if (queueAt s obj).launch then some obj else none
  | _ => none

/-- The status of a function's last record. -/
def setDbstat (s : State) (fn n : Nat) : State := { s with fns := Tab.put s.fns fn { (Tab.get {} s.fns fn) with dbstat := n } }

/-- The first record sets the root running (R458). -/
def wakeRoot (s : State) (part ctx : Nat) : State :=
  match Tab.find s.parts part with
  | some p => if p.started then s
    else { s with parts := Tab.put s.parts part { p with started := true } }.modCtx ctx (fun c => { c with st := .running })
  | none => s

/-- A record that the host submits. Where a LAUNCH would trap (no launch queue, a misaligned record, a budget) nothing is
queued; the spec gives DBSTAT no code for it, and it takes a free one. A full queue holds the record back. -/
def execDoorbell (fn addr : Nat) (s : State) : Host.Outcome State Fault Refusal :=
  if !(hostUp s) then .next s
  else match (Tab.get {} s.fns fn).part with
  | none => .next s
  | some part =>
    match (Tab.find s.parts part).bind (·.root) with
    | none => .next s
    | some ctx =>
      let (t, s0) := freeVal (wakeRoot s part ctx)
      let tL := t % 0xC00000
      let refuse (s : State) : Host.Outcome State Fault Refusal :=
        let (n, s1) := freeVal s
        .next (setDbstat s1 fn (n % 2 ^ 32))
      let rd (s : State) (o n : Nat) : EngRes Nat := portBytes s ctx (addr + o) n tL none
      if addr % 64 ≠ 0 ∨ 2 ^ 57 ≤ addr ∨ (survStop s0 ctx).isSome then refuse s0
      else match rd s0 0 64 with
        | .wait => .next s
        | .fault s1 _ _ _ => .next (setDbstat s1 fn 9)
        | .ok s1 x =>
          match doorQueue s1 ctx (LRec.of x).queue with
          | none => refuse s1
          | some obj =>
            let q := queueAt s1 obj
            if q.cap ≤ q.surveys.length then .next s
            else match submit s1 { kctx := ctx, ctx, obj, lim := none, clk := tL, rel := tL, cx := false } rd with
              | .wait => .next s
              | .fault s2 _ _ _ => .next (setDbstat s2 fn 9)
              | .ok s2 (.inl r) => .next (setDbstat s2 fn r)
              | .ok s2 (.inr _) => .next s2

end Sys2Proof.Machine
end

