-- ==== Sys2Proof/Machine/Preempt.lean ====
section
/-!
DEFINITION. Pre-emption (R186, R187, R190, R214, R247, R282, R313, R341, R363, R385, R401): rollback to the latest
monument, what is saved of a context and under which names, restoring it, and time slices (R460).
-/
namespace Sys2Proof.Machine

/-! ## Names -/

/-- The name of a chain while its context is out. -/
def awayKey (ctx ch : Nat) : Nat := 2 ^ 40 * (ctx + 1) + ch
def awayOld (key : Nat) : Nat := key % 2 ^ 40

/-- The key of a context's part of a core or of a cluster. -/
def partKey (ctx unit : Nat) : Nat := ctx * 2 ^ 20 + unit

/-- A message body for a chain and a core that have other names. -/
def Body.moved (f g : Nat → Nat) : Body → Body
  | .read a ch seq pc key clk l => .read { a with core := g a.core } (f ch) seq pc key clk l
  | .store a ch seq pc key wid d m vas clk after => .store { a with core := g a.core } (f ch) seq pc key wid d m vas clk after
  | .atom a ch seq pc va wid lane vas op cells red clk after t =>
    .atom { a with core := g a.core } (f ch) seq pc va wid lane vas op cells red clk after t
  | .late a ch seq pc key wid d m vas after => .late { a with core := g a.core } (f ch) seq pc key wid d m vas after
  | .lateLocal core ctx ch seq space wid bytes after => .lateLocal (g core) ctx (f ch) seq space wid bytes after
  | b => b

def SideEnt.moved (f g : Nat → Nat) (e : SideEnt) : SideEnt := { e with chain := f e.chain, acc := { e.acc with core := g e.acc.core } }

def Cmd.moved (f g : Nat → Nat) (c : Cmd) : Cmd := { c with chain := f c.chain, core := g c.core }

/-- The records and rings of the machine under other names. -/
def renamed (s : State) (ctx : Nat) (f g : Nat → Nat) : State :=
  { s with
    recs := s.recs.map (fun e => (e.1, if e.2.ctx = ctx then
      { e.2 with chain := f e.2.chain, redo := e.2.redo.map (Body.moved f g) } else e.2)),
    rings := s.rings.map (fun e => (e.1, { e.2 with
      wait := e.2.wait.map (fun w => (w.1, f w.2.1, w.2.2)),
      after := e.2.after.map (fun a => (a.1, f a.2.1, a.2.2)) })) }

/-! ## What a context has on a core -/

def ctxCmds (ctx : Nat) (q : List Cmd) : List Cmd := q.filter (fun c => c.ctx = ctx)
def otherCmds (ctx : Nat) (q : List Cmd) : List Cmd := q.filter (fun c => c.ctx ≠ ctx)

/-- A context's transform commands from a core. -/
def ctxXform (s : State) (ctx core : Nat) : List Cmd := (s.clusterAt (clusterOf core)).xfmq.filter (fun c => decide (c.ctx = ctx) && decide (c.core = core))

/-- The cores that a context uses. -/
def coresUsed (s : State) (ctx : Nat) : List Nat :=
  let mine (k : Core) : Bool := k.side.any (fun e => e.acc.ctx = ctx) || k.regions.any (fun g => g.ctx = ctx) ||
    (k.copyq ++ k.matq ++ k.qntq ++ k.tenq).any (fun c => c.ctx = ctx)
  ((s.chains.filter (fun e => e.2.ctx = ctx)).map (fun e => coreOf e.1) ++ (s.cores.filter (fun e => mine e.2)).map (·.1) ++
    s.clusters.flatMap (fun e => (ctxCmds ctx e.2.xfmq).map (·.core))).eraseDups

/-- The chain that a message is for. -/
def bodyChain : Body → Option Nat
  | .read _ ch _ _ _ _ _ => some ch
  | .readAns _ ch _ _ _ _ _ _ _ _ => some ch
  | .store _ ch _ _ _ _ _ _ _ _ _ => some ch
  | .grant ch _ _ _ => some ch
  | .atom _ ch _ _ _ _ _ _ _ _ _ _ _ _ => some ch
  | .atomAns ch _ _ _ _ _ _ _ _ _ _ _ => some ch
  | .ticket _ (.atom _ ch _ _ _ _ _ _ _ _ _ _ _ _) => some ch
  | .fault ch _ _ _ _ _ _ _ _ => some ch
  | .logged _ e _ _ => some e.chain
  | .spinReg ch _ _ _ => some ch
  | .spinWake ch _ => some ch
  | .queueOp ch _ _ _ _ _ _ _ _ _ _ _ _ _ => some ch
  | .late _ ch _ _ _ _ _ _ _ _ => some ch
  | .lateLocal _ _ ch _ _ _ _ _ => some ch
  | _ => none

/-- An atomic that has drawn its ticket takes its turn (R140). -/
def ticketed : Body → Bool
  | .atom _ _ _ _ _ _ _ _ _ _ _ _ _ t => t.isSome
  | _ => false

/-- Every message, wherever it waits. -/
def allMsgs (s : State) : List Msg := s.msgs ++ s.slices.flatMap (fun e => e.2.secs.flatMap (fun x => x.2.queue))

/-- Messages for chains are dropped. -/
def dropMsgsOf (s : State) (chs : List Nat) : State :=
  let keep (m : Msg) : Bool := !((bodyChain m.body).any chs.contains)
  { s with msgs := s.msgs.filter keep,
           slices := s.slices.map (fun e => (e.1, { e.2 with secs := e.2.secs.map (fun x => (x.1, { x.2 with queue := x.2.queue.filter keep })) })),
           queues := s.queues.map (fun e => (e.1, { e.2 with parked := e.2.parked.filter keep })),
           spins := s.spins.filter (fun r => !(chs.contains r.2.2.2.1)) }

/-! ## Stopping (R186, R187) -/

/-- The sequence number of the monument of a context on a core. -/
def monSeq (s : State) (core ctx : Nat) : Nat := ((Tab.find (s.coreAt core).mons ctx).map (·.seq)).getD 0

/-- What its engine still runs of a command when its context is told to stop: a copy's units that have started (R282), a
quantise pass, an HCLR, HPCT or SFOLD (R363), a whole tensor command (R385). -/
def runsOn (c : Cmd) : Bool :=
  match c.eng with
  | .copy => (List.range c.started).any c.unitOpen
  | .quant => c.stopped.isNone && decide (c.started = 1)
  | .tensor => c.stopped.isNone && decide (c.keep ≠ [])
  | _ => false

/-- A core's engines stand at their units: every result from before the monument has landed or retired, no publication is
under way, and no atomic holds a ticket. -/
def canStop (s : State) (ctx core : Nat) : Bool :=
  let k := s.coreAt core
  let n := monSeq s core ctx
  let chs := chainsOn s core ctx
  let side (id : Nat) : Bool := k.side.any (fun e => e.wid = id)
  peerEpoch s core && k.regions.all (fun g => g.ctx ≠ ctx || g.pub.isNone) && (ctxCmds ctx (k.copyq ++ k.qntq ++ k.tenq)).all (fun c => !(runsOn c)) &&
    chs.all (fun e => e.2.outs.all (fun o => decide (n ≤ o.seq)) && e.2.pend.all (fun w => decide (n ≤ w.seq) || decide (w.land ≤ k.cc)) &&
      e.2.writes.all (fun w => decide (n ≤ w.seq) || side w.id)) &&
    (allMsgs s).all (fun m => !(ticketed m.body && (bodyChain m.body).any (fun ch => chs.any (fun e => e.1 = ch))))

/-- A logged copy as rollback restores it: no stamp of the sector is lowered (R130). -/
def Copy.back (c : Copy) (now : Option Copy) : Copy :=
  match now with
  | some x => { c with wts := max c.wts x.wts, rts := max c.rts x.rts }
  | none => c

/-- Restores one logged value (R186). -/
def undo (core : Nat) (s : State) : LogEnt → State
  | .reg sl cell old => s.modChain (16 * core + sl) (fun c => c.setFile cell old)
  | .fpst sl old => s.modChain (16 * core + sl) (fun c => { c with fpst := old })
  | .chksb sl old => s.modChain (16 * core + sl) (fun c => { c with chksb := old })
  | .sector key (some c) => l1Set s core key (c.back (l1Find s core key))
  | .sector key none => l1Erase s core key
  | .wbuf l old => localWrite s core 1 (64 * l) 64 (ofBytes old)
  | .abuf l old => localWrite s core 2 (64 * l) 64 (ofBytes old)
  | .accm l old => localWrite s core 3 (64 * l) 64 (ofBytes old)
  | .region id => s.modCore core (fun k => { k with regions := k.regions.filter (fun g => g.id ≠ id) })
  | .stack sl lane old => s.modChain (16 * core + sl) (fun c => { c with callStacks := Cells.set [] c.callStacks lane old })

/-- What a chain had issued ahead of its partner when the monument was taken: what either issued after it is undone (R188, R190). -/
def backAhead (m : Option Monument) (l : List Ahead) : List Ahead :=
  match m with
  | none => l
  | some m => (l.filter (fun a => a.seqs.all (fun n => decide (n < m.seq)))).map (fun a => { a with took := a.took.filter (fun n => decide (n < m.seq)) })

/-- A chain takes back what the monument recorded of it; rotated flags and the spin-park state are cleared. -/
def backTo (k : Core) (m : Option Monument) (ch : Nat) (c : Chain) : Chain :=
  let side := k.side.map (·.wid)
  let c1 : Chain := { c with pend := [], outs := [], writes := c.writes.filter (fun w => side.contains w.id), spin := [], spinPark := none, held := none,
                             ahead := backAhead m c.ahead, waiting := false, active := false }
  let plain (l : List Entry) : List Entry := (l.map (fun e => { e with rot := false, since := none })).foldl sortEntry []
  match m.bind (fun m => m.chains.find? (fun x => x.slot = slotOf ch)) with
  | some x => { c1 with frontier := plain x.frontier, parked := x.parked, callStacks := x.callStacks, live := x.live, latch := x.latch, bars := x.bars }
  | none => { c1 with frontier := plain c1.frontier }

/-- Lanes parked at a queue operation (R401), at an absent line, or at a RINGWT whose wait has been served since issue their
instruction again; `waits` are the ring waits that stand. -/
def requeue (waits : List Nat) (c0 : Chain) : Chain :=
  let c := { c0 with ahead := c0.ahead.filter (fun a => !(a.why.any (fun w => c0.parked.any (fun q => q.why = w)))) }
  (c.parked.filter (fun q => match q.why with
    | .queue _ => true
    | .line => true
    | .ring op => !(waits.contains op)
    | _ => false)).foldl (fun c q => { (c.unparkLanes q.lanes) with frontier := enter c.frontier { prio := q.prio, pc := q.pc, rot := false, lanes := q.lanes } }) c

/-- Lanes that rollback has put back where they waited go on when that wait has ended since: a barrier's phase has completed
(R175), or an EXIT's commands have (R167). -/
def settleChain (s : State) (ch : Nat) : State :=
  let c := Tab.get {} s.chains ch
  releaseExit (c.bars.foldl (fun s b => releaseBar s [(ch, c)] b.1 (barOf s ch (barKey c (barrierKind s b.1) b.1)).c) s) ch

/-- A record that some park, latch or side-log entry still refers to, or that has been delivered. -/
def recUsed (s : State) (rid : Nat) (r : Rec) : Bool :=
  let c := Tab.get {} s.chains r.chain
  r.loc ≠ .engine || r.grp.isSome || c.latch.any (fun l => l.1 = rid) || c.parked.any (fun q => q.why = .trap rid) ||
    (s.coreAt (coreOf r.chain)).side.any (fun e => e.rid = rid)

/-- Rollback of a context on a core. -/
def rollback (s : State) (ctx core : Nat) : State :=
  let chs := (chainsOn s core ctx).map (·.1)
  let n := monSeq s core ctx
  let mon := Tab.find (s.coreAt core).mons ctx
  -- results of instructions before the monument land, the others do not
  let s1 := chs.foldl (fun s i => commit (s.modChain i (fun c => { c with pend := c.pend.filter (fun w => decide (w.seq < n)) })) i) s
  let s2 := (dropMsgsOf s1 chs).modCore core (fun k =>
    { k with side := k.side.filter (fun e => !(decide (e.acc.ctx = ctx) && chs.contains e.chain && decide (n ≤ e.seq))) })
  let s3 := match mon with
    | some m => m.log.foldl (undo core) s2
    | none => s2
  let k := s3.coreAt core
  let waits := s3.rings.flatMap (fun e => e.2.wait.map (·.1))
  let s4 := chs.foldl (fun s i => settleChain (s.modChain i (fun c => requeue waits (backTo k mon i c))) i) s3
  let s5 := s4.modCore core (fun k =>
    { k with mons := Tab.erase k.mons ctx,
             pools := k.pools.map (fun e => (e.1, { e.2 with wait := e.2.wait.filter (fun ch =>
               !(chs.contains ch) || (Tab.get {} s4.chains ch).parked.any (fun q => match q.why with
                 | .gacq _ _ => true
                 | _ => false)) })) })
  { s5 with
    rings := s5.rings.map (fun e => (e.1, { e.2 with wait := e.2.wait.filter (fun w =>
      !(chs.contains w.2.1) || (Tab.get {} s5.chains w.2.1).parked.any (fun q => q.why = .ring w.1)) })),
    recs := s5.recs.filter (fun e => !(decide (e.2.ctx = ctx) && chs.contains e.2.chain) || recUsed s5 e.1 e.2) }

/-! ## Saving -/

/-- Sectors of a context's tag spaces that a core or its cluster cache holds dirty are written back (R214). -/
def writeBackDirty (s : State) (ctx core : Nat) : State :=
  let part := (s.ctxAt ctx).part
  let mine (e : Nat × Copy) : Bool := e.2.dirty && (tagOfKey e.1 = 2 * ctx || tagOfKey e.1 = 2 * part + 1)
  let s1 := ((s.coreAt core).l1.filter mine).foldl (fun s e => l1Drop s core e.1) s
  ((s1.clusterAt (clusterOf core)).l2.filter mine).foldl (fun s e => l2Drop s (clusterOf core) e.1) s1

/-- The U bytes of a context's publication regions on a core. -/
def uCopies (k : Core) (ctx : Nat) : Tab Copy :=
  k.l1.filter (fun e => e.2.umask ≠ 0 && k.regions.any (fun g => decide (g.ctx = ctx) && decide (g.tag = tagOfKey e.1) &&
    decide (g.lo < vaOfKey e.1 + 64) && decide (vaOfKey e.1 < g.lo + g.len)))

/-- A copy without its U bytes; none where nothing else is left. -/
def Copy.bareU (c : Copy) : Option Copy :=
  if c.bare then none else some { c with umask := 0, udata := 0, st := if c.st = .U then SSt.L else c.st }

def stripU (s : State) (core : Nat) (l : Tab Copy) : State :=
  l.foldl (fun s e => match e.2.bareU with
    | some c => l1Set s core e.1 c
    | none => l1Erase s core e.1) s

/-- The pool keys of a context's parcels. -/
def ctxPools (s : State) (ctx : Nat) : List Nat :=
  (s.parcels.filter (fun p => (Tab.find s.surveys p.sid).any (fun v => v.ctx = ctx))).map (fun p => p.sid % 2 ^ 32 * 2 ^ 24 + p.pid)

/-- The absent lines of a typed buffer that are a context's: those its commands are to write, or all of a core that only it
uses (R257). -/
def linesOut (k : Core) (alone : Bool) (ids : List Nat) (space : Nat) (l : List Nat) : List Nat :=
  l.filter (fun x => alone || k.ease.any (fun e => e.dst && ids.contains e.id && decide (e.space = space) &&
    decide (e.lo / 256 ≤ x) && decide (x ≤ e.hi / 256)))

/-- The bytes of some slots of accumulator memory. -/
def slotBytes (k : Core) (slots : List Nat) : Cells Byte := k.accm.filter (fun e => slots.contains (e.1 / 16384))

/-- Saves a context's part of one core, which then holds nothing of it. -/
def saveCore (s0 : State) (ctx core : Nat) : State :=
  let us := uCopies (s0.coreAt core) ctx
  let s := writeBackDirty (stripU s0 core us) ctx core
  let k := s.coreAt core
  let f (ch : Nat) : Nat := if ch < 2 ^ 40 then awayKey ctx ch else ch
  let chs := chainsOn s core ctx
  let cmds := ctxCmds ctx (k.copyq ++ k.matq ++ k.qntq ++ k.tenq) ++ ctxXform s ctx core
  let ids := cmds.map (·.id)
  let pks := ctxPools s ctx
  let mine (e : Nat × Pool) : Bool := pks.contains (e.1 / 16)
  let mv (q : List Cmd) : List Cmd := (ctxCmds ctx q).map (Cmd.moved f id)
  let slots := (chs.flatMap (fun e => e.2.accs.map (·.2))).eraseDups
  let alone := ((chainsOf s core).filter (fun e => e.2.ctx ≠ ctx)).isEmpty &&
    (otherCmds ctx (k.copyq ++ k.matq ++ k.qntq ++ k.tenq)).isEmpty
  let aw := linesOut k alone ids 1 k.absW
  let aa := linesOut k alone ids 2 k.absA
  let sv : Core :=
    { k with cc := 0, wideFree := 0, l1 := us, lru := [], fbuf := [], final := [], clearing := [], mons := [],
             absW := aw, absA := aa, accm := slotBytes k slots,
             regions := (k.regions.filter (fun g => g.ctx = ctx)).map (fun g => { g with chain := f g.chain }),
             side := (k.side.filter (fun e => e.acc.ctx = ctx)).map (SideEnt.moved f id),
             ease := k.ease.filter (fun e => ids.contains e.id),
             copyq := mv k.copyq ++ (ctxXform s ctx core).map (Cmd.moved f id), matq := mv k.matq, qntq := mv k.qntq, tenq := mv k.tenq,
             pools := (k.pools.filter mine).map (fun e => (e.1, { e.2 with wait := e.2.wait.map f })) }
  let k' : Core :=
    { k with offset := if alone then 0 else k.offset, denied := if alone then 0 else k.denied,
             absW := k.absW.filter (fun l => !(aw.contains l)), absA := k.absA.filter (fun l => !(aa.contains l)), regions := k.regions.filter (fun g => g.ctx ≠ ctx), side := k.side.filter (fun e => e.acc.ctx ≠ ctx),
             ease := k.ease.filter (fun e => !(ids.contains e.id)), copyq := otherCmds ctx k.copyq, matq := otherCmds ctx k.matq,
             qntq := otherCmds ctx k.qntq, tenq := otherCmds ctx k.tenq, pools := k.pools.filter (fun e => !(mine e)) }
  let away (c : Chain) : Chain := { c with pair := c.pair.map f, ahead := (c.ahead.filter (·.took.isNone)).map (fun a => { a with seqs := [] }) }
  let s1 : State := { (s.setCore core k') with
    chains := s.chains.filter (fun e => !(decide (coreOf e.1 = core) && decide (e.2.ctx = ctx))),
    saved := Tab.put s.saved ctx (Tab.get [] s.saved ctx ++ chs.map (fun e => (f e.1, away e.2))),
    savedCores := Tab.put s.savedCores (partKey ctx core) sv }
  let s2 := slots.foldl (fun s sl => zeroSlot s core sl) s1
  s2.modCluster (clusterOf core) (fun u =>
    { u with xfmq := u.xfmq.filter (fun c => !(decide (c.ctx = ctx) && decide (c.core = core))),
             l2 := u.l2.map (fun e => (e.1, { e.2 with pins := e.2.pins.filter (· ≠ core) })) })

/-- Saves a context's part of one cluster: its barrier instances, and the cluster-shared bytes. -/
def saveCluster (s : State) (ctx clu : Nat) : State :=
  let pks := ctxPools s ctx
  let mine (e : Nat × BarInst) : Bool := pks.contains (e.1 / 16 % 2 ^ 56)
  let u := s.clusterAt clu
  let sv : Cluster := { bars := u.bars.filter mine, shared := u.shared }
  { (s.setCluster clu { u with bars := u.bars.filter (fun e => !(mine e)) }) with
    savedClusters := Tab.put s.savedClusters (partKey ctx clu) sv }

/-- Saves a context whole. -/
def saveCtx (s : State) (ctx : Nat) : State :=
  let cores := coresUsed s ctx
  let clus := (cores.map clusterOf).eraseDups
  let s0 : State := { s with saved := Tab.put s.saved ctx [] }
  let s1 := cores.foldl (fun s c => rollback s ctx c) s0
  let s2 := renamed s1 ctx (fun ch => if (Tab.find s1.chains ch).any (fun c => c.ctx = ctx) then awayKey ctx ch else ch) id
  let s3 := cores.foldl (fun s c => saveCore s ctx c) s2
  let s4 := clus.foldl (fun s u => saveCluster s ctx u) s3
  let s5 : State := { s4 with parcels := s4.parcels.map (fun p =>
    if (Tab.find s4.surveys p.sid).any (fun v => v.ctx = ctx) then { p with out := true } else p) }
  clus.foldl settleWays s5

def execPreemptStop (ctx : Nat) (s : State) : Host.Outcome State Fault Refusal :=
  if (s.ctxAt ctx).out && (Tab.find s.saved ctx).isNone && (coresUsed s ctx).all (canStop s ctx) then .next (saveCtx s ctx) else .next s

/-! ## Subtrees -/

/-- A context lies below another. -/
def below (s : State) (a b : Nat) : Bool := a ≠ b && (pathUp s b).contains a

/-- A context and its descendants. -/
def subtree (s : State) (ctx : Nat) : List Nat := ctx :: (s.ctxs.filter (fun e => below s ctx e.1)).map (·.1)

/-- A pre-empted context whose collectors have reported: a stopping one is stopped, and a CXSTOP that waits for it goes on. -/
def execPreemptionComplete (ctx : Nat) (s : State) : Host.Outcome State Fault Refusal :=
  let sub := (subtree s ctx).filter (fun c => (s.ctxAt c).out)
  if !(s.ctxAt ctx).out || !(sub.all (fun c => (Tab.find s.saved c).isSome)) then .next s
  else
    let s1 := sub.foldl (fun s c => s.modCtx c (fun x => { x with st := if x.st = .stopping then .stopped else x.st })) s
    let free (c : Chain) : Chain := if c.hold = some ctx then { c with hold := none } else c
    .next { s1 with chains := s1.chains.map (fun e => (e.1, free e.2)),
                    saved := s1.saved.map (fun e => (e.1, e.2.map (fun x => (x.1, free x.2)))) }

/-! ## Restoring (R187) -/

/-- A core on which a context may be restored: in its plat, in order, and empty. -/
def emptyCore (s : State) (ctx core : Nat) : Bool :=
  let k := s.coreAt core
  inPlat s ctx core && !k.fenced && (chainsOf s core).isEmpty && k.clearing.isEmpty && !(lent s ctx core) && peerEpoch s core

/-- Ways that the pre-empted parcels of a cluster need. -/
def waysNeeded (s : State) (ctx clu : Nat) : Nat :=
  (s.parcels.filter (fun p => p.out && decide (p.cluster = clu) && (Tab.find s.surveys p.sid).any (fun v => v.ctx = ctx))).foldl
    (fun a p => a + p.cways.length) 0

/-- Cores that take the place of a cluster's: the same ones, else the first empty ones of one cluster of the plat. -/
def targetCores (s : State) (ctx clu : Nat) (old used : List Nat) : Option (List Nat) :=
  let fits (u : Nat) : Bool := decide ((waysTaken s u).length + waysNeeded s ctx clu ≤ 16)
  if old.all (fun c => emptyCore s ctx c && !(used.contains c)) && fits clu then some old
  else
    let clus := (s.ctxAt ctx).plat.flatMap (fun p => (List.range 8).map (fun c =>
      (p.site * 8 + c, (p.cores.filter (fun x => x / 8 = c)).map (fun x => p.site * 64 + x))))
    clus.findSome? (fun u =>
      let l := (u.2.filter (fun c => emptyCore s ctx c && !(used.any (fun x => clusterOf x = u.1)))).take old.length
      if l.length = old.length && fits u.1 then some l else none)

/-- Where every saved core goes. -/
def targets (s : State) (ctx : Nat) : List (Nat × List Nat) → List (Nat × Nat) → Option (List (Nat × Nat))
  | [], m => some m
  | (clu, old) :: r, m =>
    match targetCores s ctx clu old (m.map (·.2)) with
    | some l => targets s ctx r (m ++ old.zip l)
    | none => none

/-- The cores of which a context's part is saved. -/
def savedOf (s : State) (ctx : Nat) : List Nat := (s.savedCores.filter (fun e => e.1 / 2 ^ 20 = ctx)).map (fun e => e.1 % 2 ^ 20)

def byCluster (cores : List Nat) : List (Nat × List Nat) :=
  ((cores.map clusterOf).eraseDups).map (fun u => (u, cores.filter (fun c => clusterOf c = u)))

def mapTo (m : List (Nat × Nat)) (x : Nat) : Nat := ((m.find? (fun e => e.1 = x)).map (·.2)).getD x

/-- A saved core's U bytes ride over what the new core holds. -/
def putU (s : State) (core : Nat) (l : Tab Copy) : State :=
  l.foldl (fun s e => match l1Find s core e.1 with
    | some c => l1Set s core e.1 { c with umask := e.2.umask, udata := e.2.udata, st := if c.st = .L then SSt.U else c.st }
    | none => l1Insert s core e.1 { st := .U, data := 0, wts := 0, rts := 0, umask := e.2.umask, udata := e.2.udata, bare := true }) s

/-- Puts a saved core's part on a core. -/
def restoreCore (s : State) (ctx old new base : Nat) (f g : Nat → Nat) : State :=
  match Tab.find s.savedCores (partKey ctx old) with
  | none => s
  | some v =>
    let k := s.coreAt new
    let lclk := max k.lclk v.lclk
    let mv (q : List Cmd) : List Cmd := q.map (fun c => { (c.moved f g).resumed lclk with stage := [] })
    let k' : Core :=
      { k with seq := max k.seq v.seq, lclk, base, offset := v.offset, denied := v.denied,
               regions := k.regions ++ v.regions.map (fun g => { g with chain := f g.chain }),
               side := k.side ++ v.side.map (SideEnt.moved f g), ease := k.ease ++ v.ease, wb := v.wb, ab := v.ab, absW := v.absW, absA := v.absA,
               accm := v.accm.foldl (fun m e => Cells.set 0 m e.1 e.2) k.accm, copyq := k.copyq ++ mv (v.copyq.filter (fun c => c.eng ≠ .xform)), matq := k.matq ++ mv v.matq,
               qntq := k.qntq ++ mv v.qntq, tenq := k.tenq ++ mv v.tenq, hist := v.hist,
               pools := k.pools ++ v.pools.map (fun e => (e.1, { e.2 with wait := e.2.wait.map f })) }
    let s1 := (s.setCore new k').modCluster (clusterOf new) (fun u => { u with xfmq := u.xfmq ++ mv (v.copyq.filter (fun c => c.eng = .xform)) })
    let s2 := putU s1 new v.l1
    { s2 with savedCores := Tab.erase s2.savedCores (partKey ctx old) }

/-- Puts a saved cluster's part on a cluster. -/
def restoreCluster (s : State) (ctx old new : Nat) : State :=
  match Tab.find s.savedClusters (partKey ctx old) with
  | none => s
  | some v =>
    let s1 := s.modCluster new (fun u =>
      { u with bars := u.bars ++ v.bars, shared := if waysNeeded s ctx old = 0 then u.shared else v.shared })
    { s1 with savedClusters := Tab.erase s1.savedClusters (partKey ctx old) }

/-- A context's parcels stand on their new cores, with new ways of the cluster cache. -/
def replaceParcels (s : State) (ctx : Nat) (m : List (Nat × Nat)) : State :=
  s.parcels.foldl (fun s p =>
    if p.out && (Tab.find s.surveys p.sid).any (fun v => v.ctx = ctx) then
      let teams := p.teams.map (fun t => (mapTo m t.1, t.2))
      let clu := clusterOf ((teams.map (·.1)).headD 0)
      let free := ((List.range 16).reverse).filter (fun w => !((waysTaken s clu).contains w))
      let p' := { p with out := false, teams, cluster := clu, cways := free.take p.cways.length }
      settleWays { s with parcels := s.parcels.map (fun x => if x.sid = p.sid ∧ x.pid = p.pid then p' else x) } clu
    else s) s

/-- Records that were resolved while the context was out act now: none while one must wait. -/
def settleLater : List (Nat × Rec) → State → Option State
  | [], s => some s
  | (rid, r) :: l, s =>
    match r.loc with
    | .later act => (settleRec s rid r act).bind (settleLater l)
    | _ => settleLater l s

/-- A context's transform commands of a cluster stand in the order of their arrival (R313), which their numbers follow. -/
def inArrival (s : State) (ctx clu : Nat) : State :=
  s.modCluster clu (fun u => { u with xfmq := otherCmds ctx u.xfmq ++ (ctxCmds ctx u.xfmq).foldl (fun l c =>
    l.takeWhile (fun x => decide (x.id < c.id)) ++ c :: l.dropWhile (fun x => decide (x.id < c.id))) [] })

/-- Restores a context on the cores of a mapping. -/
def restoreCtx (s : State) (ctx : Nat) (m : List (Nat × Nat)) : Option State :=
  let f (ch : Nat) : Nat := if 2 ^ 40 ≤ ch ∧ ch / 2 ^ 40 = ctx + 1 then 16 * mapTo m (awayOld ch / 16) + awayOld ch % 16 else ch
  let g := mapTo m
  let clus := (m.map (fun e => (clusterOf e.1, clusterOf e.2))).eraseDups
  let base (new : Nat) : Nat := (baseFor s (siteOf new) ((m.filter (fun e => islandOf (siteOf e.2) = islandOf (siteOf new))).length)).getD 0
  let s1 := m.foldl (fun s e => restoreCore s ctx e.1 e.2 (base e.2) f g) (renamed s ctx f g)
  let s2 := replaceParcels (clus.foldl (fun s u => inArrival (restoreCluster s ctx u.1 u.2) ctx u.2) s1) ctx m
  let s3 := (Tab.get [] s2.saved ctx).foldl (fun s e =>
    let k := s.coreAt (coreOf (f e.1))
    s.setChain (f e.1) { e.2 with pair := e.2.pair.map f, elig := k.cc, eligSince := k.cc, lastIssue := 0, active := false }) s2
  let s4 : State := { s3 with saved := Tab.erase s3.saved ctx }
  settleLater (s4.recs.filter (fun e => e.2.ctx = ctx)) (m.foldl (fun s e => monument s e.2 ctx) s4)

/-- The islands of a mapping keep their placement sums (R397). -/
def islandsAllow (s : State) (m : List (Nat × Nat)) : Bool :=
  m.all (fun e => (baseFor s (siteOf e.2) ((m.filter (fun x => islandOf (siteOf x.2) = islandOf (siteOf e.2))).length)).isSome)

def execContextRestore (ctx : Nat) (s : State) : Host.Outcome State Fault Refusal :=
  let up := (pathUp s ctx).drop 1
  if (Tab.find s.saved ctx).isNone || (s.ctxAt ctx).out || (s.ctxAt ctx).st ≠ .running ||
      up.any (fun c => (s.ctxAt c).out || (Tab.find s.saved c).isSome) then .next s
  else match targets s ctx (byCluster (savedOf s ctx)) [] with
    | none => .next s
    | some m => if islandsAllow s m then .next ((restoreCtx s ctx m).getD s) else .next s

/-! ## Time slices (R460) -/

/-- Two running contexts of a partition that share a core and stand side by side in the tree. -/
def contend (s : State) (a b : Nat) : Bool :=
  let x := s.ctxAt a
  let y := s.ctxAt b
  a ≠ b && x.part = y.part && x.st = .running && y.st = .running && !(below s a b) && !(below s b a) &&
    x.plat.any (fun p => p.cores.any (fun c => inPlat s b (p.site * 64 + c)))

/-- Whether a context holds its cores. -/
def holdsCores (s : State) (ctx : Nat) : Bool := !(s.ctxAt ctx).out && (Tab.find s.saved ctx).isNone

/-- The next contending context in ascending identifier, wrapping round. -/
def nextSlice (s : State) (ctx : Nat) : Option Nat :=
  let l := (s.ctxs.filter (fun e => contend s ctx e.1)).map (·.1)
  (l.find? (fun c => decide (ctx < c))).or l.head?

/-- Whether the command at the head of a quantise queue runs now: its next pass can be read, or it is no command in passes. -/
def quantRuns (s : State) (c : Cmd) : Bool :=
  if !c.inPasses then true
  else match withSnapshot s c with
    | .ok s1 c1 => (match passVals s1 c1 with
      | .ok _ _ => true
      | _ => false)
    | _ => false

/-- A stop reaches the quantise engines while a context's command runs (R363). -/
def markRunning (s : State) (ctx : Nat) : State :=
  s.cores.foldl (fun s e => match quantHead s e.1 with
    | some c => if c.ctx = ctx && quantRuns s c then putCmd s { c with started := 1 } else s
    | none => s) s

/-- Sends a stop to the running contexts of a subtree. -/
def sendStop (s : State) (ctx : Nat) : State :=
  (subtree s ctx).foldl (fun s c =>
    if (s.ctxAt c).st = .running ∨ (s.ctxAt c).st = .stopping then (markRunning s c).modCtx c (fun x => { x with out := true }) else s) s

/-- Lets the running contexts of a subtree come back. -/
def sendGo (s : State) (ctx : Nat) : State :=
  (subtree s ctx).foldl (fun s c => s.modCtx c (fun x => if x.st = .running then { x with out := false } else x)) s

def execTimeSliceExpiry (ctx nextCtx : Nat) (s : State) : Host.Outcome State Fault Refusal :=
  if (s.ctxAt ctx).st = .running && holdsCores s ctx && nextSlice s ctx = some nextCtx && !(holdsCores s nextCtx) then
    .next (sendGo (sendStop s ctx) nextCtx)
  else .next s

end Sys2Proof.Machine
end

