-- ==== Sys2Proof/Machine/Contexts.lean ====
section
/-!
DEFINITION. What the context engine and the service controller do to contexts: descriptors and creation (R413 to R415,
R458), sweeps (R425, R426), deletion (R438), revocation (R417), page retirement (R432), migration logs (R433, R434) and
decode tables (R76, R77).
-/
namespace Sys2Proof.Machine

/-! ## Descriptors and creation (R413 to R415, R436, R458) -/

/-- A context descriptor (R414). -/
structure CDesc where
  s1root : Nat
  frlim : Nat
  ylimit : Nat
  nhome : Nat
  flags : Nat
  surv : Nat
  parc : Nat
  nchild : Nat
  port : Nat
  res : Nat
  home : List Nat
deriving DecidableEq, Repr, Inhabited

def CDesc.of (x : Nat) : CDesc :=
  let f (o n : Nat) : Nat := x / 2 ^ (8 * o) % 2 ^ (8 * n)
  { s1root := f 0 8, frlim := f 8 4, ylimit := f 12 4, nhome := f 16 1, flags := f 17 1, surv := f 18 2, parc := f 20 2,
    nchild := f 22 2, port := f 24 4, res := f 28 36, home := (List.range 128).map (fun i => f (64 + i) 1) }

/-- RATE and DEPTH of a port budget word (R279). -/
def portRate (w : Nat) : Nat := bits w 8 0
def portDepth (w : Nat) : Nat := bits w 27 16

/-- A level-4 table address (R414). -/
def rootOk (x : Nat) : Bool := x % 4096 = 0 && bits x 63 43 = 0

/-- A port budget word within its fields (R279). -/
def portOk (w : Nat) : Bool := bits w 29 28 = 0 && bits w 15 9 = 0 && decide (portRate w ≤ 256) && decide (1 ≤ portDepth w)

/-- Every field is in range and every reserved byte zero. -/
def CDesc.inRange (d : CDesc) : Bool :=
  rootOk d.s1root && decide (1 ≤ d.frlim) && decide (d.frlim ≤ 4194304) && decide (256 ≤ d.ylimit) && decide (d.ylimit ≤ 16777215) &&
    decide (1 ≤ d.nhome) && decide (d.nhome ≤ 128) && decide (d.flags ≤ 1) && portOk d.port && decide (d.res = 0) &&
    (d.home.drop d.nhome).all (· = 0)

/-- What a creator allows: home-list length, YLIMIT, SURV, PARC, NCHILD and RATE. -/
structure Limits where
  homes : Nat
  ylimit : Nat
  surv : Nat
  parc : Nat
  nchild : Nat
  rate : Nat

/-- Reasons 3 to 5 of R436; 0 for none. -/
def CDesc.reason (d : CDesc) (l : Limits) : Nat :=
  if !d.inRange then 3
  else if (d.home.take d.nhome).any (fun b => decide (l.homes ≤ b)) then 4
  else if l.ylimit < d.ylimit ∨ l.surv < d.surv ∨ l.parc < d.parc ∨ l.nchild < d.nchild ∨ l.rate < portRate d.port then 5
  else 0

/-- The lowest free context identifier (R413). -/
def freeCtx (s : State) : Option Nat := firstBelow 16384 (fun i => i ≠ 0 && (Tab.find s.ctxs i).isNone)

/-- A context as it is created (R415). -/
def CDesc.ctx (d : CDesc) (homes : List Nat) (part parent depth : Nat) (plat : List Plat) : Ctx :=
  { part, parent, depth, plat, s1root := d.s1root, frlim := d.frlim, ylimit := d.ylimit, common := d.flags % 2 = 1, surv := d.surv,
    parc := d.parc, nchild := d.nchild, port := BitVec.ofNat 32 d.port, home := (d.home.take d.nhome).map (fun b => homes.getD b 0) }

/-- The reason that rejects a child of a context, or its identifier (R436). -/
def newChild (s : State) (ctx : Nat) (d : CDesc) : Nat ⊕ Nat :=
  let c := s.ctxAt ctx
  if 8 ≤ c.depth then .inl 1
  else match freeCtx s with
    | none => .inl 2
    | some id =>
      match d.reason { homes := c.home.length, ylimit := c.ylimit, surv := c.surv, parc := c.parc, nchild := c.nchild,
                       rate := portRate c.port.toNat } with
      | 0 => if (pathUp s ctx).any (fun a => decide ((s.ctxAt a).nchild ≤ (s.ctxAt a).ndesc)) then .inl 6 else .inr id
      | n => .inl n

/-- Writes an entry of a context's handle table. -/
def setHandle (s : State) (ctx h : Nat) (e : HEnt) : State :=
  s.modCtx ctx (fun c => { c with handles := if e.obj = .empty then Tab.erase c.handles h else Tab.put c.handles h e })

/-- Creates a child under a handle of its parent. -/
def makeChild (s : State) (ctx h id : Nat) (d : CDesc) : State :=
  let c := s.ctxAt ctx
  let s1 := setHandle (s.setCtx id (d.ctx c.home c.part ctx (c.depth + 1) [])) ctx h { obj := .child id }
  countUp s1 ctx (fun x => { x with ndesc := x.ndesc + 1 })

/-! ## Sweeps (R425 to R427) -/

/-- The next sweep number of a partition. -/
def takeSweep (s : State) (part : Nat) : Nat × State :=
  match Tab.find s.parts part with
  | some p =>
    let n := if p.nextSweep % 2 ^ 32 = 0 then 1 else p.nextSweep % 2 ^ 32
    (n, { s with parts := Tab.put s.parts part { p with nextSweep := (n + 1) % 2 ^ 32 } })
  | none => (1, s)

/-- Empties the TLB entries that a condition names. -/
def dropTlb (s : State) (p : Tlb → Bool) : State :=
  { s with slices := s.slices.map (fun e => (e.1, { e.2 with tlb := e.2.tlb.filter (fun t => !(p t)) })) }

/-- Sectors that some cache holds. -/
def cachedKeys (s : State) : List Nat :=
  (s.cores.flatMap (fun e => e.2.l1.map (·.1) ++ e.2.fbuf.map (·.1)) ++ s.clusters.flatMap (fun e => e.2.l2.map (·.1)) ++
    s.slices.flatMap (fun e => e.2.secs.map (·.1))).eraseDups

/-- Whether a sector is dirty at some level. -/
def dirtySector (s : State) (key : Nat) : Bool :=
  s.cores.any (fun e => (Tab.find e.2.l1 key).any (·.dirty)) || s.clusters.any (fun e => (Tab.find e.2.l2 key).any (·.dirty)) ||
    s.slices.any (fun e => (Tab.find e.2.secs key).any (·.dirty))

/-- A sector leaves an L1; bytes of an open publication region stay, with no copy beneath them (R214). -/
def sweepL1 (s : State) (core key : Nat) : State :=
  match l1Find s core key with
  | none => s
  | some c =>
    if c.umask = 0 then l1Drop s core key
    else l1Set (l1Leave s core key c) core key { c with st := .U, data := 0, wts := 0, rts := 0, dirty := false, bare := true }

/-- An answer on its way that fills nothing of a swept sector. -/
def noFill (key : Nat) (m : Msg) : Msg :=
  match m.body with
  | .readAns acc ch seq k data w r t _ cmp => if k = key then { m with body := .readAns acc ch seq k data w r t 0 cmp } else m
  | _ => m

/-- Writes a sector back from every level and drops its copies: none while a request on it is under way. -/
def sweepKey (s : State) (key : Nat) : Option State :=
  let site := homeOfKey s key
  match homeFind s site key with
  | some h => if quiet h then some (away (recallOwner s site key h).1 site) else none
  | none => some (away s site)
where
  away (s : State) (site : Nat) : State :=
    let s1 := s.cores.foldl (fun s e => sweepL1 s e.1 key) s
    let s2 := s1.clusters.foldl (fun s e => l2Drop s e.1 key) s1
    let s3 := homeEvict s2 site key
    { s3 with msgs := s3.msgs.map (noFill key),
              cores := s3.cores.map (fun e => (e.1, { e.2 with fbuf := Tab.erase e.2.fbuf key })) }

def sweepKeys : List Nat → State → Option State
  | [], s => some s
  | k :: r, s => (sweepKey s k).bind (sweepKeys r)

/-- Whether a sector's line is filled through one of a context's frames: by the frame that its home filled it from, else by
the translation that stands. -/
def throughFrames (s : State) (ctx : Nat) (fs : List Nat) (bases : List Nat) (key : Nat) : Bool :=
  let tag := tagOfKey key
  !(isPeerKey key) && (pathUp s (tagCtx s tag)).contains ctx &&
    (match homeFind s (homeOfKey s key) key with
     | some h => bases.contains (h.pa / 2 ^ 21 * 2 ^ 21)
     | none =>
       match walk s tag (vaOfKey key) with
       | .ok cpa _ _ _ _ =>
         (match compose s (tagCtx s tag) (cpa / 2 ^ 21) with
          | .ok _ _ _ path => path.any (fun e => decide (e.1 = ctx) && fs.contains e.2)
          | _ => false)
       | _ => false)

/-- The physical frames behind a context's frames. -/
def basesOf (s : State) (ctx : Nat) (fs : List Nat) : List Nat :=
  fs.filterMap (fun f => match compose s ctx f with
    | .ok pa _ _ _ => some pa
    | _ => none)

/-- Step 1: TLB entries whose path, or that of a table on the way to them, passes a frame of a context. -/
def sweepOne (s : State) (ctx : Nat) (fs : List Nat) : State :=
  dropTlb s (fun t => (t.ctxs ++ t.tabs).any (fun e => decide (e.1 = ctx) && fs.contains e.2))

/-- Step 2 on lines filled through frames, before the entries change: none while it must wait. -/
def sweepTwo (s : State) (ctx : Nat) (fs : List Nat) : Option State :=
  let bases := basesOf s ctx fs
  sweepKeys ((cachedKeys s).filter (throughFrames s ctx fs bases)) s

/-- Writes a frame-array entry. -/
def setFrame (s : State) (ctx f : Nat) (e : W64) : State := s.modCtx ctx (fun c => { c with frames := Cells.set 0 c.frames f e })

/-- The mapped entries of a context among some frames. -/
def mappedOf (s : State) (ctx : Nat) (p : Nat → Bool) : List Nat :=
  ((s.ctxAt ctx).frames.filter (fun e => frameV e.2 && p e.1)).map (·.1)

/-- A page is reached through some of a context's frames: by its TLB entry, else by the translation that stands. -/
def pageThrough (s : State) (ctx : Nat) (fs : List Nat) (page : Nat) : Bool :=
  let hit (path : List (Nat × Nat)) : Bool := path.any (fun e => decide (e.1 = ctx) && fs.contains e.2)
  let key := page * 64
  match (s.sliceAt (homeOfKey s key)).tlb.find? (fun t => t.covers page) with
  | some t => hit t.ctxs
  | none =>
    match walk s (tagOfKey key) (vaOfKey key) with
    | .ok cpa _ _ _ _ =>
      (match compose s (tagCtx s (tagOfKey key)) (cpa / 2 ^ 21) with
       | .ok _ _ _ path => hit path
       | _ => false)
    | _ => false

/-- What the slices keep of the pages of frames goes when these are unmapped: their marks (R131), and the stamps of a flush. -/
def dropMarks (s : State) (ctx : Nat) (fs : List Nat) : State :=
  let out (g : Nat) : Bool := pageThrough s ctx fs (pageOfKey g)
  { s with slices := s.slices.map (fun e => (e.1, { e.2 with
      marks := e.2.marks.filter (fun m => !(pageThrough s ctx fs m.1)),
      floor := (e.2.given.filter (fun g => out g.1)).foldl (fun a g => max a (g.2 - 1)) e.2.floor,
      given := e.2.given.filter (fun g => !(out g.1)) })) }

/-- Changes entries: both steps where a mapped entry goes, and none while it must wait. -/
def changeFrames (s : State) (ctx : Nat) (fs : List Nat) (e : W64) : Option State :=
  let old := fs.filter (fun f => frameV (Cells.get 0 (s.ctxAt ctx).frames f))
  (sweepTwo s ctx old).map (fun s1 => fs.foldl (fun s f => setFrame s ctx f e) (sweepOne (dropMarks s1 ctx old) ctx old))

/-- Unmaps every frame of a context (R438, R439). -/
def unmapAll (s : State) (ctx : Nat) : Option State := changeFrames s ctx (mappedOf s ctx (fun _ => true)) 0

/-- The completion word of a sweep (R400, R426). -/
def sweepDone (num frames : Nat) : Nat := 2 ^ 63 + frames % 2 ^ 25 * 2 ^ 32 + num % 2 ^ 32

/-- Writes a completion word of a context: none while it cannot be written; a fault of its page is reported. -/
def putWord (s : State) (ctx : Nat) (p : W128) (num frames : Nat) : Option State :=
  match portPut s ctx (Ptr.ofBits p).base 8 (sweepDone num frames) 0 with
  | .wait => none
  | .fault s1 c a _ => some (reportTo s1 ctx c a)
  | .ok s1 _ => some s1

/-- The mark of a chain whose next issue waits for a sweep to finish (R438). -/
def sweepHold (id : Nat) : Nat := 2 ^ 32 + id

/-- A sweep runs on until its completion word is written. -/
def startSweep (s : State) (w : Sweep) : State :=
  { s with nextId := s.nextId + 1, sweeps := Tab.put s.sweeps s.nextId w }

/-! ## Handles (R417) -/

/-- Empties an entry and every entry shared onwards from it. -/
def revoke : Nat → State → Nat → Nat → State
  | 0, s, ctx, h => setHandle s ctx h {}
  | n + 1, s, ctx, h =>
    let s1 := setHandle s ctx h {}
    (s1.ctxs.flatMap (fun e => (e.2.handles.filter (fun x => x.2.src = some (ctx, h))).map (fun x => (e.1, x.1)))).foldl
      (fun s x => revoke n s x.1 x.2) s1

/-! ## Deletion (R438) -/

/-- Discards a survey of a deleted context: its completion word is not written. -/
def discardSurvey (s : State) (key : Nat) (v : Survey) : State :=
  let n := (s.parcels.filter (fun p => p.sid = key)).length
  let s1 : State := { s with parcels := s.parcels.filter (fun p => p.sid ≠ key) }
  retireSurvey (countUp s1 v.ctx (fun c => { c with nparc := c.nparc - n })) key v

/-- The bindings of a context are dropped; t is the time of the deletion: none while one must wait. -/
def discardBindings (s : State) (ctx t : Nat) : Option State :=
  (s.tensors.filter (fun e => decide (e.2.ctx = ctx) && decide (e.2.st ≠ 0))).foldl
    (fun r e => r.bind (fun s => discardBinding s s.selCore e.1 t)) (some s)

/-- Discards what a context has in its saved state, its records and its objects. -/
def discardState (s1 : State) (ctx : Nat) : State :=
  let gone (ch : Nat) : Bool := decide (2 ^ 40 ≤ ch) && decide (ch / 2 ^ 40 = ctx + 1)
  let s2 := (s1.surveys.filter (fun e => e.2.ctx = ctx)).foldl (fun s e => discardSurvey s e.1 e.2) s1
  let s3 := (s2.recs.filter (fun e => e.2.ctx = ctx)).foldl (fun s e => freeSlot s e.2) s2
  let part (k : Nat) : Bool := decide (k / 2 ^ 20 = ctx)
  { s3 with
    recs := s3.recs.filter (fun e => e.2.ctx ≠ ctx),
    saved := Tab.erase s3.saved ctx,
    savedCores := s3.savedCores.filter (fun e => !(part e.1)),
    savedClusters := s3.savedClusters.filter (fun e => !(part e.1)),
    rings := (s3.rings.filter (fun e => e.2.ctx ≠ ctx)).map (fun e => (e.1, { e.2 with
      wait := e.2.wait.filter (fun w => !(gone w.2.1)), after := e.2.after.filter (fun a => !(gone a.2.1)) })),
    tensors := s3.tensors.filter (fun e => e.2.ctx ≠ ctx),
    queues := s3.queues.filter (fun e => e.2.ctx ≠ ctx) }

/-- The identifier is free again: nothing that is kept by identifier outlives the context. -/
def freeId (s : State) (ctx : Nat) : State :=
  let up := (pathUp s ctx).drop 1
  let s1 := up.foldl (fun s c => s.modCtx c (fun x => { x with ndesc := x.ndesc - 1 })) s
  { s1 with
    ctxs := Tab.erase s1.ctxs ctx,
    clusters := s1.clusters.map (fun e => (e.1, { e.2 with ports := e.2.ports.filter (fun b => b.1 / 2 ≠ ctx) })),
    slices := s1.slices.map (fun e => (e.1, { e.2 with
      flags := Cells.erase e.2.flags ctx, marks := e.2.marks.filter (fun m => m.1 / 2 ^ 45 ≠ 2 * ctx),
      tlb := e.2.tlb.filter (fun x => x.page / 2 ^ 45 ≠ 2 * ctx) })) }

/-- Deletes one context that has no children: none while its sweep must wait. -/
def deleteCtx (s : State) (ctx t : Nat) : Option State :=
  ((discardBindings s ctx t).bind (fun s0 => unmapAll (discardState s0 ctx) ctx)).map (fun s1 => freeId (takeSweep s1 (s1.ctxAt ctx).part).2 ctx)

/-- A subtree, deepest contexts first. -/
def deepestFirst (s : State) (ctx : Nat) : List Nat :=
  let l := subtree s ctx
  (List.range 9).reverse.flatMap (fun d => l.filter (fun c => decide ((s.ctxAt c).depth = d)))

def deleteAll (t : Nat) : List Nat → State → Option State
  | [], s => some s
  | c :: r, s => (deleteCtx s c t).bind (deleteAll t r)

/-! ## Page retirement (R432) -/

/-- The lowest spare page of a stack that is not in use. -/
def freeSpare (s : State) (site : Nat) : Option Nat :=
  let l := (s.sliceAt site).retired
  if 256 ≤ l.length then none else firstBelow 256 (fun i => !(l.any (fun e => e.2 = i)))

/-- Bytes of a physical range that are not zero, by offset. -/
def physCells (s : State) (pa n : Nat) : List (Nat × Byte) :=
  let m := if isPeer pa then s.peer else s.hbm
  let lo := if isPeer pa then pa - 2 ^ 62 else pa
  (m.filter (fun e => decide (lo ≤ e.1) && decide (e.1 < lo + n))).map (fun e => (e.1 - lo, e.2))

/-- A physical range holds exactly the bytes of a list. -/
def physFill (s : State) (pa n : Nat) (l : List (Nat × Byte)) : State :=
  let lo := if isPeer pa then pa - 2 ^ 62 else pa
  let put (m : List Host.Cell) : List Host.Cell :=
    l.foldl (fun m e => Cells.set 0 m (lo + e.1) e.2) (m.filter (fun e => !(decide (lo ≤ e.1) && decide (e.1 < lo + n))))
  if isPeer pa then { s with peer := put s.peer } else { s with hbm := put s.hbm }

/-- Copies a physical page where it stands to a page address that stands for itself, with its C bits. -/
def copyPage (s : State) (src dst : Nat) : State :=
  let s1 := physFill s dst 4096 (physCells s src 4096)
  let keep := s1.cbits.filter (fun l => l / 16 ≠ dst / 4096)
  { s1 with cbits := (keep.filter (fun l => l / 16 = src / 4096)).map (fun l => dst / 256 + l % 16) ++ keep }

/-- Retires a physical page to a spare; sectors of the list are lost: none when the spare pool is empty. A page that has
been retired before leaves its former spare out of use. -/
def retirePage (s : State) (pa : Nat) (bad : List Nat) : Option State :=
  let site := paSite pa
  let page := pa / 4096
  (freeSpare s site).map (fun i =>
    let dst := sparePage site i
    let old := Tab.find (s.sliceAt site).retired page
    let s1 := copyPage s (realPa s (page * 4096)) dst
    -- the home's copy of a sector comes before the failing cells, but where HBM holds an image (R289)
    let secs := (s.sliceAt site).secs.filter (fun e => decide (e.2.pa / 4096 = page) && e.2.cmp.isNone)
    let s2 := secs.foldl (fun s e => { s with hbm := cellsWrite s.hbm (dst + e.2.pa % 4096) 64 e.2.data.toNat }) s1
    let lost := (bad.filter (fun i => decide (i < 64) && !(secs.any (fun e => e.2.pa / 64 % 64 = i)))).map (fun i => page * 64 + i)
    let s3 := s2.modSlice site (fun sl =>
      let r := Tab.put sl.retired page i
      { sl with
        retired := match old with
          | some j => Tab.put r (sparePage site j / 4096) j
          | none => r
        lost := sl.lost ++ lost.filter (fun k => !(sl.lost.contains k)) })
    { s3 with uzosa := { s3.uzosa with log := s3.uzosa.log ++ [(0x14, page * 4096)] } })

/-! ## Migration (R433, R434, R448, R449) -/

/-- The status word of a log (R448). -/
def MigLog.status (g : MigLog) : Nat := g.mode % 4 * 2 ^ 30 + g.count % 2 ^ 30

def migBase (g : MigLog) : Nat := (Ptr.ofBits g.ptr).base

/-- The bitmap bytes of the frames of pages. -/
def frameMap (m : Nat) (pages : List Nat) : Nat :=
  pages.foldl (fun x p => let f := p / 2 ^ 21; if f < 64 * m then x ||| 2 ^ f else x) 0

/-- Sets the mode that frames beyond the bitmap make. -/
def MigLog.passes (g : MigLog) (pages : List Nat) (mode : Nat) : MigLog :=
  { g with mode := if pages.any (fun p => decide (64 * g.m ≤ p / 2 ^ 21)) then 2 else mode }

/-- Pages enter a log in one buffer write: slots, a bitmap of them all, or more bits of it. -/
def logPages (s : State) (ctx : Nat) (g : MigLog) : EngRes MigLog :=
  let b := migBase g + 64
  let g0 := { g with pages := [] }
  match g.mode with
  | 0 =>
    if g.count + g.pages.length ≤ g.m then
      (portPut s ctx (b + 8 * g.count) (8 * g.pages.length) (g.pages.zipIdx.foldl (fun x e => x + e.1 * 2 ^ (64 * e.2)) 0) 0).bind
        (fun s1 _ => .ok s1 { g0 with count := g.count + g.pages.length })
    else
      let k := g.m - g.count
      (portBytes s ctx b (8 * g.count) 0 none).bind (fun s1 x =>
        let all := (List.range g.count).map (fun i => x / 2 ^ (64 * i) % 2 ^ 64) ++ g.pages
        (portPut s1 ctx b (8 * g.m) (frameMap g.m all) 0).bind (fun s2 _ => .ok s2 ({ g0 with count := g.count + k }.passes all 1)))
  | 1 =>
    (portBytes s ctx b (8 * g.m) 0 none).bind (fun s1 x =>
      (portPut s1 ctx b (8 * g.m) (x ||| frameMap g.m g.pages) 0).bind (fun s2 _ => .ok s2 (g0.passes g.pages 1)))
  | _ => .ok s g0

/-- A log's pages and its header are in its buffer. A fault of the buffer makes the log say that all is dirty. -/
def flushLog (s : State) (ctx : Nat) (g : MigLog) : Option (State × MigLog) :=
  let fail (s1 : State) (c a : Nat) : Option (State × MigLog) :=
    some (reportTo s1 ctx c a, { g with mode := 2, pages := [] })
  match logPages s ctx g with
  | .wait => none
  | .fault s1 c a _ => fail s1 c a
  | .ok s1 g1 =>
    match portPut s1 ctx (migBase g) 64 (g1.count % 2 ^ 32 + g1.mode * 2 ^ 32) 0 with
    | .wait => none
    | .fault s2 c a _ => fail s2 c a
    | .ok s2 _ => some (s2, g1)

/-- A buffer whose header is cleared; a fault is reported. -/
def clearLog (s : State) (ctx : Nat) (p : W128) : Option (State × MigLog) :=
  let g : MigLog := { ptr := p, m := ((Ptr.ofBits p).len - 64) / 8, count := 0, mode := 0, pages := [] }
  match portPut s ctx (migBase g) 64 0 0 with
  | .wait => none
  | .fault s1 c a _ => some (reportTo s1 ctx c a, g)
  | .ok s1 _ => some (s1, g)

/-- Copies one page of a frame: images stay images within the module, and are expanded for a peer. -/
def frameLine (s : State) (src dst i : Nat) : State :=
  let a := src + 256 * i
  let b := dst + 256 * i
  let c := !(isPeer src) && cBit s a
  if c && isPeer dst then
    match imgDecode (lineBytes s a) with
    | some pl => physWrite s b 256 (field pl 0 256)
    | none => s
  else if isPeer dst then s else setCBit s b c

/-- The page address that a physical page stands at. -/
def standing (s : State) (pa : Nat) : Nat := if isPeer pa then pa else realPa s pa

/-- Copies 2 MiB between physical frames (R449): bytes, C bits and lost marks. -/
def moveFrame (s : State) (src dst : Nat) : State :=
  let s1 := (List.range 512).foldl (fun s i =>
    let cells := physCells s (standing s (src + 4096 * i)) 4096
    physFill s (standing s (dst + 4096 * i)) 4096 cells) s
  let s2 := (List.range 8192).foldl (fun s i => frameLine s src dst i) s1
  let lost := if isPeer src then [] else ((s.sliceAt (paSite src)).lost.filter (fun k => k / 2 ^ 15 = src / 2 ^ 21)).map (fun k => k % 2 ^ 15)
  if isPeer dst then s2
  else s2.modSlice (paSite dst) (fun sl =>
    { sl with lost := sl.lost.filter (fun k => k / 2 ^ 15 ≠ dst / 2 ^ 21) ++ lost.map (fun o => dst / 64 + o) })

/-! ## Decode tables (R76, R77) -/

def entV (e : Nat) : Bool := bit e 31
def entIop (e : Nat) : Nat := bits e 21 12

/-- Whether a table names an internal operation. -/
def names (t : Option (List W32)) (iop : Nat) : Bool :=
  (List.range 1024).any (fun i => let e := (tableEntry t i).toNat; entV e && decide (entIop e = iop))

/-- The first of conditions 1 to 4 that an entry breaks; par is the parent's table, none where any operation may be named. -/
def entryFault (par : Option (Option (List W32))) (e : Nat) : Nat :=
  if !(entV e) then (if e = 0 then 0 else 3)
  else if (fmtOf (entIop e)).isNone then 1
  else if fmtOf (entIop e) ≠ some (bits e 26 24) then 2
  else if bits e 30 27 ≠ 0 ∨ bits e 23 22 ≠ 0 ∨ bits e 11 0 ≠ 0 then 3
  else match par with
    | none => 0
    | some t => if names t (entIop e) then 0 else 4

/-- The first failed condition of a table image; 0 for none. -/
def tableFault (par : Option (Option (List W32))) (l : List W32) : Nat :=
  match (l.map (fun e => entryFault par e.toNat)).find? (· ≠ 0) with
  | some n => n
  | none => if names (some l) 0x006 && names (some l) 0x024 then 0 else 5

/-- A table without the entries that name withdrawn operations. -/
def cutTable (gone : Nat → Bool) (t : Option (List W32)) : Option (List W32) :=
  if (List.range 1024).any (fun i => let e := (tableEntry t i).toNat; entV e && gone (entIop e)) then
    some ((List.range 1024).map (fun i => let e := tableEntry t i; if entV e.toNat && gone (entIop e.toNat) then 0 else e))
  else t

/-- A context takes a table; its descendants lose the operations that the table no longer names. -/
def loadTable (s : State) (ctx : Nat) (l : List W32) : State :=
  let old := (s.ctxAt ctx).dtab
  let gone (iop : Nat) : Bool := names old iop && !(names (some l) iop)
  let s1 := s.modCtx ctx (fun c => { c with dtab := some l })
  ((subtree s ctx).drop 1).foldl (fun s d => s.modCtx d (fun c => { c with dtab := cutTable gone c.dtab })) s1

end Sys2Proof.Machine
end

