-- ==== Sys2Proof/Machine/ContextEngine.lean ====
section
/-!
DEFINITION. The context engine's instructions (R435 to R452): creating, running and deleting contexts, grants and
revocation, frames, plats, decode tables and handles, delegation, retirement, migration, invalidation and CXSTAT.
-/
namespace Sys2Proof.Machine

/-! ## Common rules (R435) -/

/-- The child that a handle of the issuer names. -/
def childOf (s : State) (hnd : Nat) : Option Nat :=
  match handleObj s s.selChain.ctx hnd with
  | .child c => some c
  | _ => none

/-- Runs a meaning on the child that HND names, or raises 0x21. -/
def withChild (s : State) (h : Hdr) (f : F4) (k : Nat → Host.Outcome State Fault Refusal) : Host.Outcome State Fault Refusal :=
  match childOf s f.hnd.toNat with
  | some c => k c
  | none => .next (trapIssue s h 0x21 f.hnd.toNat)

/-- The dies of a context's plat and home list. -/
def ctxDies (s : State) (ctx : Nat) : List Nat := (s.ctxAt ctx).plat.map (·.site) ++ (s.ctxAt ctx).home

/-- Cycles from performing to completion, to the farthest die of a context. -/
def ctxLat (s : State) (ctx : Nat) : Nat :=
  let a := siteOf s.selCore
  2 + 2 * (20 + ((ctxDies s ctx).map (fun b => 3 * hops a b + stitches a b)).foldl max 0)

/-- The next issue of the chain waits until completion. -/
def holdIssue (s : State) (n : Nat) : State := s.modChain s.sel.chain (fun c => { c with elig := max c.elig (s.sel.t0 + n) })

/-- The end of a context command that completes after n cycles: its results and its monument. -/
def cxEnd (s : State) (h : Hdr) (n : Nat) (ws : List (CellId × Nat)) : Host.Outcome State Fault Refusal :=
  .next (holdIssue (finish (landV s n ws) h) n)

/-- The end of CXSTAT and FRQRY, which take no monument. -/
def cxRead (s : State) (h : Hdr) (n : Nat) (ws : List (CellId × Nat)) : Host.Outcome State Fault Refusal :=
  .next (holdIssue (advanceUniform (landV s n ws) h) n)

/-- A context command: its checks in order, its ordering (R148), then what it does; none while it must wait. -/
def cxCommand (s : State) (h : Hdr) (checks : List (Option (Nat × Nat))) (scope : Nat) (act : Option (Host.Outcome State Fault Refusal)) :
    Host.Outcome State Fault Refusal :=
  match firstFault checks with
  | some (c, t) => .next (trapIssue s h c t)
  | none => if !(ordered s.selChain scope) then .next (waitIssue s) else act.getD (.next (waitIssue s))

/-- A memory-side fault of what a command reads, in state s1 after it. -/
def cxFault (s s1 : State) (h : Hdr) (c v d : Nat) : Host.Outcome State Fault Refusal :=
  .next (advanceUniform (trapLanes s1 ((lanesOf s.sel.act).map (fun l => { lane := l, cause := c, tval := v })) d) h)

/-- Raises a cause when a condition holds. -/
def faultIf (b : Bool) (cause tval : Nat) : Option (Nat × Nat) := if b then some (cause, tval) else none

def ctxCode : CSt → Nat
  | .stopped => 0
  | .running => 1
  | .stopping => 2

/-- The child is in the wrong state (R452). -/
def wrongState (s : State) (f : F4) (c : Nat) (bad : Bool) : Option (Nat × Nat) :=
  faultIf bad 0x78 (f.hnd.toNat + ctxCode (s.ctxAt c).st * 2 ^ 8)

/-- The child must be stopped. -/
def mustStop (s : State) (f : F4) (c : Nat) : Option (Nat × Nat) := wrongState s f c ((s.ctxAt c).st ≠ .stopped)

/-- The checks of a completion pointer: one that SWAIT accepts (R406). -/
def wordCheck (s : State) (f : F4) : Option (Nat × Nat) :=
  let p := kPtr s f 0
  operandCheck s f.pb.toNat p ((wordRule f.pb.toNat p).map (fun _ => (0x7E, f.pb.toNat))) true p.base 8 (p.base % 8 = 0)

/-- The checks of a pointer to n bytes that the command reads or invalidates. -/
def tableCheck (s : State) (f : F4) (bad : Bool) (n : Nat) (aligned : Bool) : Option (Nat × Nat) :=
  let p := kPtr s f 0
  operandCheck s f.pb.toNat p (faultIf (p.space ≠ 0 || bad) 0x7E f.pb.toNat) false p.base n aligned

/-- The clock of the issuing core. -/
def nowClk (s : State) : Nat := (s.coreAt s.selCore).lclk

/-- A command's sweep: its number, and its completion word, written at once where there is nothing to sweep (R426). -/
def sweepWord (s : State) (k : W128) (frames : Nat) (now : Bool) : Option (Nat × State) :=
  let ctx := s.selChain.ctx
  let part := (s.ctxAt ctx).part
  let (n, s1) := takeSweep s part
  if now then (putWord s1 ctx k n frames).map (fun s2 => (n, s2))
  else some (n, startSweep s1 { part, num := n, ctx, done := some k, frames, core := s.selCore })

/-! ## CXNEW (R436) -/

def execCxnew (h : Hdr) (f : F4) (s : State) : Host.Outcome State Fault Refusal :=
  let ctx := s.selChain.ctx
  let p := kPtr s f 0
  cxCommand s h [faultIf (handleObj s ctx f.hnd.toNat ≠ .empty) 0x7C f.hnd.toNat, tableCheck s f false 192 true] p.scope
    (match rdBytes s ctx s.selCore (nowClk s) p p.base 192 with
     | .wait => none
     | .fault s1 c v d => some (cxFault s s1 h c v d)
     | .ok s1 x =>
       let d := CDesc.of x
       let n := ctxLat s ctx
       some (match newChild s1 ctx d with
         | .inl r => cxEnd s1 h n [sCell f 0 0, sCell f 1 r]
         | .inr id => cxEnd (makeChild s1 ctx f.hnd.toNat id d) h n [sCell f 0 id, sCell f 1 0]))

/-! ## Running and stopping (R437) -/

/-- The descendants that were running when a context was stopped, with it. -/
def resumeSet (s : State) (ctx : Nat) : List Nat :=
  (subtree s ctx).filter (fun c => ((pathUp s c).takeWhile (· ≠ ctx)).all (fun x => (s.ctxAt x).wasRunning))

/-- A context runs; while another holds a core of its plat it waits for its time slice (R460). -/
def setRunning (s : State) (c : Nat) : State :=
  let s1 := s.modCtx c (fun x => { x with st := .running, wasRunning := false })
  if s1.ctxs.any (fun e => contend s1 c e.1 && holdsCores s1 e.1) then
    { s1.modCtx c (fun x => { x with out := true }) with saved := Tab.put s1.saved c (Tab.get [] s1.saved c) }
  else s1.modCtx c (fun x => { x with out := false })

/-- Resumes a stopped context; a running one goes on. -/
def resumeCtx (s : State) (ctx : Nat) : State :=
  if (s.ctxAt ctx).st = .stopped then (resumeSet s ctx).foldl setRunning s else s

def execCxrun (h : Hdr) (f : F4) (s : State) : Host.Outcome State Fault Refusal :=
  withChild s h f (fun c => cxCommand s h [mustStop s f c] 0 (some (cxEnd (resumeCtx s c) h (ctxLat s c) [])))

/-- The start queue of a child: a launch queue of capacity 1 and PRIO 0. -/
def startQueue (s : State) (c : Nat) : Nat × State :=
  match (s.ctxAt c).startq with
  | some q => (q, s)
  | none =>
    let q := s.nextId
    (q, (setQueue { s with nextId := q + 1 } q { ctx := c, vdie := 0, clu := 0, cfg := 0xF8030000 }).modCtx c (fun x => { x with startq := some q }))

def execCxrunLaunch (h : Hdr) (f : F4) (s : State) : Host.Outcome State Fault Refusal :=
  withChild s h f (fun c =>
    let p := kPtr s f 0
    let kreg := f.pb.toNat
    let (obj, s1) := startQueue s c
    let q := queueAt s1 obj
    let clk := ringTime s s.selCore (nowClk s)
    cxCommand s h [operandCheck s kreg p (recordRule kreg p) false p.base 0 true, wrongState s f c ((s.ctxAt c).st = .stopping),
        (survStop s c).map (fun x => (0x20, budgetTval x))] (min 2 p.scope)
      (if q.cap ≤ q.surveys.length then some (.next (waitLong s))
       else some (match launchFrom s1 h f p { kctx := s.selChain.ctx, ctx := c, obj, lim := some p.len, clk, rel := s.selChain.top, cx := true } q
              (fun s => resumeCtx s c) with
         | .next s2 => .next (if s2.sel.waited then s2 else holdIssue s2 (ctxLat s c))
         | o => o)))

/-- Sends the stop of a CXSTOP to a subtree. -/
def stopTree (s : State) (c : Nat) : State :=
  let s1 := (subtree s c).foldl (fun s x => s.modCtx x (fun y =>
    if y.st = .running then { y with st := .stopping, wasRunning := decide (x ≠ c) } else y)) s
  sendStop s1 c

def execCxstop (h : Hdr) (f : F4) (s : State) : Host.Outcome State Fault Refusal :=
  withChild s h f (fun c =>
    cxCommand s h [wrongState s f c ((s.ctxAt c).st ≠ .running)] 0
      (some (cxEnd ((stopTree s c).modChain s.sel.chain (fun x => { x with hold := some c })) h (ctxLat s c) [])))

/-! ## CXDEL (R438) -/

/-! The issuing chain goes on when the last sweep has finished: SWEEP_COMPLETE lifts its hold. -/

def execCxdel (h : Hdr) (f : F4) (s : State) : Host.Outcome State Fault Refusal :=
  withChild s h f (fun c =>
    cxCommand s h [mustStop s f c] 0
      ((deleteAll (nowClk s) (deepestFirst s c) s).map (fun s1 =>
        let part := (s.ctxAt s.selChain.ctx).part
        let s2 := startSweep s1 { part, num := 0, ctx := s.selChain.ctx, done := none, frames := 0, core := s.selCore }
        cxEnd ((setHandle s2 s.selChain.ctx f.hnd.toNat {}).modChain s.sel.chain (fun x => { x with hold := some (sweepHold s1.nextId) }))
          h (ctxLat s c) [])))

/-! ## Grants and revocation (R439) -/

/-- Unused bits of the operand pair must be zero. -/
def spare (x : Nat) (used : Nat) : Option (Nat × Nat) := faultIf (x &&& used ≠ x) 0x7D x

/-- A value above what the issuer holds. -/
def overHeld (x lim : Nat) : Option (Nat × Nat) := faultIf (decide (lim < x)) 0x7A x

def execCxgrantBudget (h : Hdr) (f : F4) (s : State) : Host.Outcome State Fault Refusal :=
  withChild s h f (fun c =>
    let me := s.ctxAt s.selChain.ctx
    let surv := bits (sOp s f 0) 15 0
    let parc := bits (sOp s f 0) 31 16
    let kids := bits (sOp s f 1) 15 0
    cxCommand s h [spare (sOp s f 1) 0xFFFF, overHeld surv me.surv, overHeld parc me.parc, overHeld kids me.nchild] 0
      (some (cxEnd (s.modCtx c (fun x => { x with surv, parc, nchild := kids })) h (ctxLat s c) [])))

def execCxgrantPort (h : Hdr) (f : F4) (s : State) : Host.Outcome State Fault Refusal :=
  withChild s h f (fun c =>
    let w := sOp s f 0
    let me := s.ctxAt s.selChain.ctx
    cxCommand s h [spare w 0xCFFF01FF, spare (sOp s f 1) 0, faultIf (portRate me.port.toNat < portRate w) 0x7A w,
        faultIf (portDepth w = 0) 0x7D w] 0
      (some (cxEnd (s.modCtx c (fun x => { x with port := BitVec.ofNat 32 w })) h (ctxLat s c) [])))

def execCxgrantHandle (h : Hdr) (f : F4) (s : State) : Host.Outcome State Fault Refusal :=
  withChild s h f (fun c =>
    let a := bits (sOp s f 0) 7 0
    let b := bits (sOp s f 0) 15 8
    let ctx := s.selChain.ctx
    let obj := handleObj s ctx a
    let isChild := match obj with
      | .child _ => true
      | _ => false
    cxCommand s h [spare (sOp s f 0) 0xFFFF, spare (sOp s f 1) 0, faultIf (obj = .empty) 0x7A a, faultIf isChild 0x7B a,
        faultIf (handleObj s c b ≠ .empty) 0x7C b] 0
      (some (cxEnd (setHandle s c b { obj, src := some (ctx, a) }) h (ctxLat s c) [])))

def execCxgrantCommon (h : Hdr) (f : F4) (s : State) : Host.Outcome State Fault Refusal :=
  withChild s h f (fun c =>
    cxCommand s h [spare (sOp s f 0) 1, spare (sOp s f 1) 0] 0
      (some (cxEnd (s.modCtx c (fun x => { x with common := bit (sOp s f 0) 0 })) h (ctxLat s c) [])))

/-- The end of a command with a sweep number in s(c + 2). -/
def sweepEnd (s : State) (h : Hdr) (f : F4) (n frames : Nat) (now : Bool) : Option (Host.Outcome State Fault Refusal) :=
  (sweepWord s (kOp s f 0) frames now).map (fun x => cxEnd x.2 h n [sCell f 2 x.1])

def execCxrevokeHandle (h : Hdr) (f : F4) (s : State) : Host.Outcome State Fault Refusal :=
  withChild s h f (fun c =>
    cxCommand s h [wordCheck s f, spare (sOp s f 0) 0xFF00, spare (sOp s f 1) 0] (kPtr s f 0).scope
      (sweepEnd (revoke 9 s c (bits (sOp s f 0) 15 8)) h f (ctxLat s c) 0 true))

/-- Common-half sectors that the cores of a context's plat, or their cluster caches, hold. -/
def commonKeys (s : State) (ctx : Nat) : List Nat :=
  let tag := 2 * (s.ctxAt ctx).part + 1
  ((s.cores.filter (fun e => inPlat s ctx e.1)).flatMap (fun e =>
    e.2.l1.map (·.1) ++ e.2.fbuf.map (·.1) ++ (s.clusterAt (clusterOf e.1)).l2.map (·.1))).eraseDups.filter (fun k => tagOfKey k = tag)

def execCxrevokeCommon (h : Hdr) (f : F4) (s : State) : Host.Outcome State Fault Refusal :=
  withChild s h f (fun c =>
    cxCommand s h [wordCheck s f, spare (sOp s f 0) 0, spare (sOp s f 1) 0] (kPtr s f 0).scope
      ((sweepKeys (commonKeys s c) s).bind (fun s1 =>
        sweepEnd (s1.modCtx c (fun x => { x with common := false })) h f (ctxLat s c) 0 false)))

def execCxrevokeAll (h : Hdr) (f : F4) (s : State) : Host.Outcome State Fault Refusal :=
  withChild s h f (fun c =>
    let n := (mappedOf s c (fun _ => true)).length
    cxCommand s h [wordCheck s f, mustStop s f c, spare (sOp s f 0) 0, spare (sOp s f 1) 0] (kPtr s f 0).scope
      ((unmapAll s c).bind (fun s1 =>
        let s2 := ((s1.ctxAt c).handles.map (·.1)).foldl (fun s b => revoke 9 s c b) s1
        sweepEnd (s2.modCtx c (fun x => { x with surv := 0, parc := 0, nchild := 0 })) h f (ctxLat s c) n false)))

/-! ## Frames (R440, R441) -/

/-- The entry of a mapped frame (R421). -/
def frameWord (ra : Bool) (g : Nat) : W64 := BitVec.ofNat 64 (2 ^ 63 + (if ra then 2 ^ 62 else 0) + g % 2 ^ 22)

/-- The issuer's own array maps a frame. -/
def mapsFrame (s : State) (ctx g : Nat) : Bool := frameV (Cells.get 0 (s.ctxAt ctx).frames g)

/-- Changes one entry of a child (R440): none where it must wait; whether no sweep was needed. -/
def mapFrame (s : State) (c a : Nat) (w : W64) : Option (State × Bool) :=
  let old := Cells.get 0 (s.ctxAt c).frames a
  if !(frameV old) then some (setFrame s c a w, true)
  else if frameNum old = frameNum w then some (sweepOne (setFrame s c a w) c [a], false)
  else (changeFrames s c [a] w).map (fun s1 => (s1, false))

def execFrmap (h : Hdr) (f : F4) (s : State) : Host.Outcome State Fault Refusal :=
  withChild s h f (fun c =>
    let a := sOp s f 0
    let g := sOp s f 1
    cxCommand s h [wordCheck s f, faultIf ((s.ctxAt c).frlim ≤ a) 0x7D a, faultIf (!(mapsFrame s s.selChain.ctx g)) 0x7A g]
      (kPtr s f 0).scope
      ((mapFrame s c a (frameWord (bit f.sub.toNat 0) g)).bind (fun x => sweepEnd x.1 h f (ctxLat s c) 1 x.2)))

def execFrunmap (h : Hdr) (f : F4) (s : State) : Host.Outcome State Fault Refusal :=
  withChild s h f (fun c =>
    let a := sOp s f 0
    let n := sOp s f 1
    let fs := mappedOf s c (fun i => decide (a ≤ i) && decide (i < a + n))
    cxCommand s h [wordCheck s f, faultIf (n = 0 || decide (65536 < n)) 0x7D n,
        faultIf ((s.ctxAt c).frlim < a + n) 0x7D ((a + n - 1) % 2 ^ 32)] (kPtr s f 0).scope
      ((changeFrames s c fs 0).bind (fun s1 => sweepEnd s1 h f (ctxLat s c) n fs.isEmpty)))

/-- The result pair of FRQRY on a context's frame; a frame at or above FRLIM gives zero. -/
def frqryEnd (s : State) (h : Hdr) (f : F4) (c : Nat) (w : Nat → W64) : Host.Outcome State Fault Refusal :=
  let a := sOp s f 0
  let x := if (s.ctxAt c).frlim ≤ a then 0 else (w a).toNat
  cxRead s h (ctxLat s c) [sCell f 0 x, sCell f 1 (x / 2 ^ 32)]

def execFrqryChild (h : Hdr) (f : F4) (s : State) : Host.Outcome State Fault Refusal :=
  withChild s h f (fun c => frqryEnd s h f c (fun a => Cells.get 0 (s.ctxAt c).frames a))
def execFrqryComp (h : Hdr) (f : F4) (s : State) : Host.Outcome State Fault Refusal :=
  withChild s h f (fun c => frqryEnd s h f c (fun a => compWord (compose s c a)))
def execFrqrySelf (h : Hdr) (f : F4) (s : State) : Host.Outcome State Fault Refusal :=
  frqryEnd s h f s.selChain.ctx (fun a => compWord (compose s s.selChain.ctx a))

/-! ## Plat, decode table and handles (R442 to R444) -/

/-- A child's plat with virtual die v bound, or removed for an empty list of cores. -/
def platWith (l : List Plat) (v site : Nat) (cores : List Nat) : List Plat :=
  if cores.isEmpty then l.take v else l.take v ++ { site, cores } :: l.drop (v + 1)

/-- Cores of a plat by core key. -/
def platCores (l : List Plat) : List Nat := l.flatMap (fun p => p.cores.map (fun c => p.site * 64 + c))

/-- The cores of a dense mask (R51). -/
def maskCores (l : List Nat) (m : Nat) : List Nat := (l.zipIdx.filter (fun e => bit m e.2)).map (·.1)

/-- The cores that a mask lends of a die: one fenced since the issuer's plat was made is no usable core, unless the child held it before
(R51). A mask of such cores alone acts as an empty one (log entry 104). -/
def lentCores (s : State) (src : Plat) (old : List Plat) (m : Nat) : List Nat :=
  (maskCores src.cores m).filter (fun c => usable s (src.site * 64 + c) || (platCores old).contains (src.site * 64 + c))

/-- The RATEs of the issuer's children that use a cluster, with a child's new plat, pass what a port has (R279, R415). -/
def rateOver (s : State) (ctx c : Nat) (plat : List Plat) : Bool :=
  let clus (l : List Plat) : List Nat := ((platCores l).map clusterOf).eraseDups
  (clus plat).any (fun u =>
    decide (256 < portRate (s.ctxAt c).port.toNat +
      (s.ctxs.filter (fun e => decide (e.2.parent = ctx) && decide (e.2.depth ≠ 0) && decide (e.1 ≠ c) && (clus e.2.plat).contains u)).foldl
        (fun a e => a + portRate e.2.port.toNat) 0))

def execPlatset (h : Hdr) (f : F4) (s : State) : Host.Outcome State Fault Refusal :=
  withChild s h f (fun c =>
    let ctx := s.selChain.ctx
    let m := sOp64 s f 0
    let w := sOp s f 2
    let v := bits w 6 0
    let pv := bits w 14 8
    let mine := (s.ctxAt ctx).plat
    let src := mine.getD pv default
    let old := (s.ctxAt c).plat
    let lend := lentCores s src old m
    let new := platWith old v src.site lend
    let kept := platCores new
    let used := ((subtree s c).drop 1).flatMap (fun d => platCores (s.ctxAt d).plat)
    cxCommand s h [mustStop s f c, spare w 0x7F7F, faultIf (mine.length ≤ pv) 0x7A pv, faultIf (2 ^ src.cores.length ≤ m) 0x7A (m % 2 ^ 32),
        faultIf (old.length < v || (lend.isEmpty && v + 1 ≠ old.length)) 0x7D v,
        faultIf (((platCores old).filter (fun x => !(kept.contains x))).any used.contains) 0x7C f.hnd.toNat,
        faultIf (rateOver s ctx c new) 0x7A (portRate (s.ctxAt c).port.toNat)] 0
      (some (cxEnd (s.modCtx c (fun x => { x with plat := new })) h (ctxLat s c) [])))

/-- The 1,024 entries of a table image. -/
def tableOf (x : Nat) : List W32 := (List.range 1024).map (fun i => BitVec.ofNat 32 (x / 2 ^ (32 * i)))

/-- The table that condition 4 looks in. -/
def parentTable (s : State) (c : Nat) : Option (Option (List W32)) :=
  if (s.ctxAt c).depth = 0 then none else some (s.ctxAt (s.ctxAt c).parent).dtab

/-- DTLD for a context. -/
def dtldFor (s : State) (h : Hdr) (f : F4) (c : Nat) : Host.Outcome State Fault Refusal :=
  let p := kPtr s f 0
  cxCommand s h [tableCheck s f (p.len < 4096) 4096 true] p.scope
    (match rdBytes s s.selChain.ctx s.selCore (nowClk s) p p.base 4096 with
     | .wait => none
     | .fault s1 cs v d => some (cxFault s s1 h cs v d)
     | .ok s1 x =>
       let l := tableOf x
       let n := tableFault (parentTable s c) l
       some (cxEnd (if n = 0 then loadTable s1 c l else s1) h (ctxLat s c + 4096) [sCell f 0 n]))

def execDtld (h : Hdr) (f : F4) (s : State) : Host.Outcome State Fault Refusal :=
  if bit f.sub.toNat 0 then withChild s h f (fun c => dtldFor s h f c) else dtldFor s h f s.selChain.ctx

/-- A handle entry of a type with its data word (R444). -/
def newHandle (s : State) (ctx ty d : Nat) : HObj × State :=
  let id := s.nextId
  let s1 := { s with nextId := id + 1 }
  match ty with
  | 1 => (.queue id, setQueue s1 id { ctx, vdie := bits d 6 0, clu := bits d 9 7 })
  | 2 => (.barrier (bit d 0) id, s1)
  | 3 => (.ring id, setRing s1 id { desc := BitVec.ofNat 64 d, ctx })
  | 4 => (.tensor id, setTensor s1 id { ctx })
  | 6 => (.peer d, s1)
  | _ => (.empty, s1)

/-- The bits of a data word that its type has. -/
def dataMask (ty : Nat) : Nat :=
  match ty with
  | 1 => 0x3FF
  | 2 => 1
  | 3 => 0xFFFFFFFFFFFFFFFF
  | 6 => 0xFFFFFFFF003F
  | _ => 0

/-- An entry with parked or outstanding operations, or a bound tensor. -/
def handleBusy (s : State) (o : HObj) : Bool :=
  match o with
  | .queue q =>
    let x := queueAt s q
    !x.parked.isEmpty || !x.surveys.isEmpty || (allMsgs s).any (fun m => match m.body with
      | .queueOp _ _ _ _ _ obj _ _ _ _ _ _ _ _ => decide (obj = q)
      | _ => false)
  | .barrier _ b =>
    let waits (c : Chain) : Bool := c.parked.any (fun q => match q.why with
      | .barrier obj _ => decide (obj = b)
      | _ => false)
    s.chains.any (fun e => waits e.2) || s.saved.any (fun e => e.2.any (fun x => waits x.2))
  | .ring r => match Tab.find s.rings r with
    | some x => !x.wait.isEmpty || !x.after.isEmpty
    | none => false
  | .tensor t => decide ((tensorAt s t).st ≠ 0)
  | _ => false

def execHtset (h : Hdr) (f : F4) (s : State) : Host.Outcome State Fault Refusal :=
  let ctx := s.selChain.ctx
  let hnd := f.hnd.toNat
  let ty := bits f.sub.toNat 2 0
  let d := sOp64 s f 0
  let old := handleObj s ctx hnd
  let isChild := match old with
    | .child _ => true
    | _ => false
  cxCommand s h [faultIf (ty = 5 || isChild) 0x7B hnd, faultIf (d &&& dataMask ty ≠ d) 0x7D (d % 2 ^ 32), faultIf (handleBusy s old) 0x7C hnd] 0
    (let x := newHandle s ctx ty d
     some (cxEnd (setHandle x.2 ctx hnd { obj := x.1 }) h (ctxLat s ctx) []))

/-! ## Delegation and declining (R445, R446) -/

/-- A mask with one of its words replaced. -/
def maskWord (m : BitVec 256) (w v : Nat) : BitVec 256 :=
  BitVec.ofNat 256 (m.toNat - bits m.toNat (32 * w + 31) (32 * w) * 2 ^ (32 * w) + v % 2 ^ 32 * 2 ^ (32 * w))

/-- Writes a mask word of a context; the root's are ignored. -/
def maskEnd (s : State) (h : Hdr) (f : F4) (c : Nat) : Host.Outcome State Fault Refusal :=
  let w := sOp s f 0
  cxCommand s h [spare w 7] 0
    (some (cxEnd (s.modCtx c (fun x => if x.depth = 0 then x else { x with mask := maskWord x.mask w (sOp s f 1) })) h (ctxLat s c) []))

def execTrdlgMask (h : Hdr) (f : F4) (s : State) : Host.Outcome State Fault Refusal := maskEnd s h f s.selChain.ctx
def execTrdlgMaskChild (h : Hdr) (f : F4) (s : State) : Host.Outcome State Fault Refusal := withChild s h f (fun c => maskEnd s h f c)

/-- A ring pointer (R445). -/
def ringOk (p : Ptr) : Bool :=
  p.space = 0 && (p.scope = 2 || p.scope = 3) && p.fmt = 0 && p.base % 32 = 0 && (List.range 12).any (fun m => decide (p.len = 64 * 2 ^ m))

def execTrdlgRing (h : Hdr) (f : F4) (s : State) : Host.Outcome State Fault Refusal :=
  withQueue s h f.hnd (fun obj q =>
    let ctx := s.selChain.ctx
    let p := kPtr s f 0
    let hnd := f.hnd.toNat
    cxCommand s h [faultIf (q.launch || !(q.scope = 2 || q.scope = 3)) 0x70 hnd,
        operandCheck s f.pb.toNat p (faultIf (!(ringOk p)) 0x7E f.pb.toNat) true p.base p.len true,
        faultIf ((s.ctxAt ctx).ring.any (fun g => !g.busy.isEmpty)) 0x7C hnd] p.scope
      (some (cxEnd (s.modCtx ctx (fun x => { x with ring := some { ptr := kOp s f 0, n := p.len / 32, next := 0, busy := [], queue := obj } }))
        h (ctxLat s ctx) [])))

def execTrdlgOff (h : Hdr) (f : F4) (s : State) : Host.Outcome State Fault Refusal :=
  let ctx := s.selChain.ctx
  let _ := f
  cxCommand s h [] 0 (some (cxEnd (s.modCtx ctx (fun x => { x with ring := none })) h (ctxLat s ctx) []))

/-- A token that names no record routed to the issuer raises 0x33, whose TVAL has no handle to hold. -/
def execTrflt (h : Hdr) (f : F4) (s : State) : Host.Outcome State Fault Refusal :=
  let c := s.selChain
  match findToken s c.part (sOp s f 0) (inRing c.ctx) with
  | some (rid, r) =>
    if r.routed = some c.ctx then cxCommand s h [] 0 (some (cxEnd (decline s rid r) h (ctxLat s c.ctx) []))
    else
      let (v, s1) := freeVal s
      .next (trapIssue s1 h 0x33 (v % 2 ^ 8))
  | none =>
    let (v, s1) := freeVal s
    .next (trapIssue s1 h 0x33 (v % 2 ^ 8))

/-! ## Retirement and migration (R447 to R449) -/

/-- The physical address behind a context-physical one, in an HBM stack of the module. -/
def stackAddr (s : State) (ctx cpa : Nat) : Option Nat :=
  match compose s ctx (cpa / 2 ^ 21) with
  | .ok pa _ _ _ => if isPeer pa then none else some (pa + cpa % 2 ^ 21)
  | _ => none

def execPgret (h : Hdr) (f : F4) (s : State) : Host.Outcome State Fault Refusal :=
  let ctx := s.selChain.ctx
  let cpa := sOp64 s f 0
  let n := ctxLat s ctx + 8192
  cxCommand s h [faultIf (cpa % 4096 ≠ 0) 0x0B (cpa % 2 ^ 57)] 0
    (some (match stackAddr s ctx cpa with
      | none => cxEnd s h n [sCell f 0 2]
      | some pa => match retirePage s pa [] with
        | none => cxEnd s h n [sCell f 0 1]
        | some s1 => cxEnd s1 h n [sCell f 0 0]))

/-- A log pointer (R448). -/
def logOk (p : Ptr) : Bool :=
  p.space = 0 && p.share = 0 && p.fmt = 0 && (p.scope = 2 || p.scope = 3) && decide (128 ≤ p.len) && p.len % 8 = 0

def logCheck (s : State) (f : F4) : Option (Nat × Nat) :=
  let p := kPtr s f 0
  operandCheck s f.pb.toNat p (faultIf (!(logOk p)) 0x7E f.pb.toNat) true p.base p.len true

def execMiglogOn (h : Hdr) (f : F4) (s : State) : Host.Outcome State Fault Refusal :=
  withChild s h f (fun c =>
    cxCommand s h [logCheck s f, wrongState s f c (s.ctxAt c).mig.isSome] (kPtr s f 0).scope
      ((clearLog s s.selChain.ctx (kOp s f 0)).map (fun x =>
        cxEnd (x.1.modCtx c (fun y => { y with mig := some x.2 })) h (ctxLat s c) [])))

def execMiglogTake (h : Hdr) (f : F4) (s : State) : Host.Outcome State Fault Refusal :=
  withChild s h f (fun c =>
    cxCommand s h [logCheck s f, wrongState s f c (s.ctxAt c).mig.isNone] (kPtr s f 0).scope
      ((s.ctxAt c).mig.bind (fun g =>
        (flushLog s s.selChain.ctx g).bind (fun x =>
          (clearLog x.1 s.selChain.ctx (kOp s f 0)).map (fun y =>
            cxEnd (y.1.modCtx c (fun z => { z with mig := some y.2 })) h (ctxLat s c) [sCell f 0 x.2.status])))))

/-- The dirty sectors of a subtree's tag spaces. -/
def dirtyOf (s : State) (c : Nat) : List Nat :=
  (cachedKeys s).filter (fun k => (subtree s c).any (fun d => tagOfKey k = 2 * d) && dirtySector s k)

def execMiglogOff (h : Hdr) (f : F4) (s : State) : Host.Outcome State Fault Refusal :=
  withChild s h f (fun c =>
    let keys := dirtyOf s c
    cxCommand s h [mustStop s f c, wrongState s f c (s.ctxAt c).mig.isNone] 0
      ((sweepKeys keys (keys.foldl logWrite s)).bind (fun s1 =>
        (s1.ctxAt c).mig.bind (fun g =>
          (flushLog s1 s.selChain.ctx g).map (fun x =>
            cxEnd (x.1.modCtx c (fun z => { z with mig := none })) h (ctxLat s c) [sCell f 0 x.2.status])))))

/-- The physical base of a context's frame. -/
def frameBase (s : State) (ctx g : Nat) : Option Nat :=
  match compose s ctx g with
  | .ok pa _ _ _ => some pa
  | _ => none

def execMigmov (h : Hdr) (f : F4) (s : State) : Host.Outcome State Fault Refusal :=
  withChild s h f (fun c =>
    let ctx := s.selChain.ctx
    let a := sOp s f 0
    let g := sOp s f 1
    let src := if (s.ctxAt c).frlim ≤ a then none else frameBase s c a
    let dst := frameBase s ctx g
    let e := Cells.get 0 (s.ctxAt c).frames a
    cxCommand s h [wordCheck s f, faultIf src.isNone 0x7D a, faultIf dst.isNone 0x7A g] (kPtr s f 0).scope
      ((sweepTwo s c [a]).bind (fun s1 =>
        let s2 := sweepOne (setFrame (moveFrame s1 (src.getD 0) (dst.getD 0)) c a (frameWord (frameRA e) g)) c [a]
        sweepEnd s2 h f (ctxLat s c) 1 false)))

/-! ## Invalidation (R450) -/

/-- Writes back and drops sectors: how many were dirty. -/
def invalidate (s : State) (keys : List Nat) : Option (Nat × State) :=
  (sweepKeys keys s).map (fun s1 => (min 0xFFFFFFFF (keys.filter (dirtySector s)).length, s1))

/-- The checks of INVPG's pointer, and of the common half for a context other than the root. -/
def invChecks (s : State) (f : F4) : List (Option (Nat × Nat)) :=
  let p := kPtr s f 0
  let ctx := s.selChain.ctx
  [tableCheck s f false p.len (p.base % 4096 = 0 && p.len % 4096 = 0),
   faultIf (2 ^ 56 ≤ p.base && (s.ctxAt ctx).depth ≠ 0) 0x7A (p.base % 2 ^ 32)]

/-- A page of the issuer's range. -/
def pageIn (s : State) (p : Ptr) (page : Nat) : Bool :=
  decide (page / 2 ^ 45 = tagFor s s.selChain.ctx p.base) && decide (p.base ≤ page % 2 ^ 45 * 4096) &&
    decide (page % 2 ^ 45 * 4096 < p.base + p.len)

/-- An entry of the TLB that translates some page of the issuer's range. -/
def tlbIn (s : State) (p : Ptr) (t : Tlb) : Bool :=
  decide (t.page / 2 ^ 45 = tagFor s s.selChain.ctx p.base) && decide (t.page % 2 ^ 45 * 4096 < p.base + p.len) &&
    decide (p.base < (t.page % 2 ^ 45 + (if t.big then 512 else 1)) * 4096)

def execInvpg (h : Hdr) (f : F4) (s : State) : Host.Outcome State Fault Refusal :=
  let p := kPtr s f 0
  cxCommand s h (invChecks s f) p.scope
    ((invalidate s ((cachedKeys s).filter (fun k => !(isPeerKey k) && pageIn s p (pageOfKey k)))).map (fun x =>
      cxEnd (dropTlb x.2 (tlbIn s p)) h (ctxLat s s.selChain.ctx + 16 * (p.len / 4096)) [sCell f 0 x.1]))

def execInvpgTlb (h : Hdr) (f : F4) (s : State) : Host.Outcome State Fault Refusal :=
  let p := kPtr s f 0
  cxCommand s h (invChecks s f) p.scope
    (some (cxEnd (dropTlb s (tlbIn s p)) h (ctxLat s s.selChain.ctx + 16 * (p.len / 4096)) [sCell f 0 0]))

/-- INVCX acts on the issuer, or on the child of HND. -/
def invTarget (s : State) (h : Hdr) (f : F4) (k : Nat → Host.Outcome State Fault Refusal) : Host.Outcome State Fault Refusal :=
  if bit f.sub.toNat 3 then withChild s h f k else k s.selChain.ctx

/-- Empties the TLB entries of a context's tag space. -/
def dropTag (s : State) (c : Nat) : State := dropTlb s (fun t => t.page / 2 ^ 45 = 2 * c)

def execInvcxAll (h : Hdr) (f : F4) (s : State) : Host.Outcome State Fault Refusal :=
  invTarget s h f (fun c =>
    cxCommand s h [] 0
      ((invalidate s ((cachedKeys s).filter (fun k => tagOfKey k = 2 * c))).map (fun x =>
        cxEnd (dropTag x.2 c) h (ctxLat s c + 12800 + x.1) [sCell f 0 x.1])))

def execInvcxTlb (h : Hdr) (f : F4) (s : State) : Host.Outcome State Fault Refusal :=
  invTarget s h f (fun c => cxCommand s h [] 0 (some (cxEnd (dropTag s c) h (ctxLat s c) [sCell f 0 0])))

def execInvcxRoot (h : Hdr) (f : F4) (s : State) : Host.Outcome State Fault Refusal :=
  invTarget s h f (fun c =>
    let r := sOp64 s f 0
    cxCommand s h [faultIf (!(rootOk r)) 0x7D (r % 2 ^ 32)] 0
      (some (cxEnd (dropTag (s.modCtx c (fun x => { x with s1root := r })) c) h (ctxLat s c) [sCell f 0 0])))

/-! ## CXSTAT (R451) -/

/-- CXSTAT reads the issuer, or the child of HND. -/
def statTarget (s : State) (h : Hdr) (f : F4) (k : Nat → Host.Outcome State Fault Refusal) : Host.Outcome State Fault Refusal :=
  if bit f.sub.toNat 4 then k s.selChain.ctx else withChild s h f k

/-- A record that is not resolved. -/
def Rec.open_ (r : Rec) : Bool :=
  match r.loc with
  | .resolved _ => false
  | .later _ => false
  | _ => true

def stateWord (s : State) (c : Nat) : Nat :=
  let x := s.ctxAt c
  ctxCode x.st * 2 ^ 30 + x.depth % 16 * 2 ^ 26 + (if x.common then 2 ^ 25 else 0) +
    (if s.recs.any (fun e => decide (e.2.ctx = c) && e.2.open_) then 2 ^ 24 else 0) + c % 2 ^ 14

def execCxstatState (h : Hdr) (f : F4) (s : State) : Host.Outcome State Fault Refusal :=
  statTarget s h f (fun c => cxRead s h (ctxLat s c) [sCell f 0 (stateWord s c)])

/-- What an index or class out of range returns. -/
def noStat : Nat := 0xFFFFFFFF

def execCxstatFlags (h : Hdr) (f : F4) (s : State) : Host.Outcome State Fault Refusal :=
  statTarget s h f (fun c =>
    let i := sOp s f 0
    let x := s.ctxAt c
    let n := ctxLat s c
    if i = 255 then cxRead (s.modCtx c (fun y => { y with lflags := 0 })) h n [sCell f 0 x.lflags.toNat]
    else match x.home[i]? with
      | some site =>
        let v := Cells.get 0 (s.sliceAt site).flags c
        cxRead (s.modSlice site (fun sl => { sl with flags := Cells.set 0 sl.flags c 0 })) h n [sCell f 0 v]
      | none => cxRead s h n [sCell f 0 noStat])

/-- A 64-bit count, or the mark of an index out of range in both words. -/
def countPair (f : F4) (v : Option Nat) : List (CellId × Nat) :=
  match v with
  | some x => [sCell f 0 x, sCell f 1 (x / 2 ^ 32)]
  | none => [sCell f 0 noStat, sCell f 1 noStat]

def execCxstatCont (h : Hdr) (f : F4) (s : State) : Host.Outcome State Fault Refusal :=
  statTarget s h f (fun c =>
    let i := sOp s f 0
    cxRead s h (ctxLat s c) (countPair f (if i ≤ 6 then some (Cells.get 0 (s.ctxAt c).lost i) else none)))

/-- One of the counts of a bucket (R281). -/
def Bucket.item (b : Bucket) : Nat → Nat
  | 0 => b.lent
  | 1 => b.borrowed
  | _ => b.waited

def execCxstatPort (h : Hdr) (f : F4) (s : State) : Host.Outcome State Fault Refusal :=
  statTarget s h f (fun c =>
    let i := sOp s f 0
    let sum := s.clusters.foldl (fun a e => a + (Tab.get {} e.2.ports (2 * c + i % 2)).item (i / 2)) 0
    cxRead s h (ctxLat s c) (countPair f (if i ≤ 5 then some sum else none)))

def execCxstatPword (h : Hdr) (f : F4) (s : State) : Host.Outcome State Fault Refusal :=
  statTarget s h f (fun c => cxRead s h (ctxLat s c) [sCell f 0 (s.ctxAt c).port.toNat])

end Sys2Proof.Machine
end

