-- ==== Sys2Proof/Machine/Package.lean ====
section
/-!
DEFINITION. What the package does by itself or for the host and the service controller: bring-up, islands and links (R13 to
R20, R466 to R468), ports (R279 to R281, R453, R462), partitions (R458, R459, R461), the host's window (R455 to R457) and
memory accesses (R151, R454), retirement and contained errors (R432, R471), firmware and attestation (R469, R470).
-/
namespace Sys2Proof.Machine

/-! ## Host memory accesses (R151, R454) -/

/-- The sectors of a byte range of a context. -/
def rangeKeys (s : State) (ctx a n : Nat) : List Nat := (pieces a n).map (fun p => keyFor s ctx p.1)

/-- The host holds sectors that it has read (R454). -/
def hostHolds (s : State) (keys : List Nat) : State :=
  keys.foldl (fun s k =>
    match homeFind s (homeOfKey s k) k with
    | some x => homeSet s (homeOfKey s k) k { x with host := true }
    | none => s) s

/-- A host read returns the current value and grants no lease; what it returns leaves the device. -/
def execHostMemRead (ctx va len : Nat) (s : State) : Host.Outcome State Fault Refusal :=
  if !(hostUp s) then .next s
  else match portBytes s ctx va len 0 none with
  | .ok s1 _ => .next (hostHolds s1 (rangeKeys s1 ctx va len))
  | _ => .next s

/-- A host write stamps each sector with rts + 1. -/
def execHostMemWrite (ctx va : Nat) (data : List Byte) (s : State) : Host.Outcome State Fault Refusal :=
  if !(hostUp s) then .next s
  else match portPut s ctx va data.length (ofBytes data) 0 with
  | .ok s1 _ => .next s1
  | _ => .next s

/-! ## Sweeps that end (R426, R455) -/

/-- A host sweep is done: the function reads it, if it is the latest write's. -/
def hostSweep (s : State) (fn num : Nat) : State :=
  let f := Tab.get {} s.fns fn
  { s with fns := Tab.put s.fns fn { f with sweepDone := f.sweepDone || decide (f.sweepNum = num) } }

def execSweepComplete (sweep : Nat) (s : State) : Host.Outcome State Fault Refusal :=
  match Tab.find s.sweeps sweep with
  | none => .next s
  | some w =>
    let s1 := { s with sweeps := Tab.erase s.sweeps sweep }
    match w.done, w.fn with
    | some k, _ => .next ((putWord s1 w.ctx k w.num w.frames).getD s)
    | none, some fn => .next (hostSweep s1 fn w.num)
    | none, none =>
      let free (c : Chain) : Chain := if c.hold = some (sweepHold sweep) then { c with hold := none } else c
      .next { s1 with chains := s1.chains.map (fun e => (e.1, free e.2)),
                      saved := s1.saved.map (fun e => (e.1, e.2.map (fun x => (x.1, free x.2)))) }

/-! ## The host's window (R455 to R458) -/

/-- Number of CXL functions: four physical ones and 96 virtual ones (R453). -/
def fnCount : Nat := 100

def modFn (s : State) (fn : Nat) (f : Fn → Fn) : State := { s with fns := Tab.put s.fns fn (f (Tab.get {} s.fns fn)) }

def execMboxhead (fn head : Nat) (s : State) : Host.Outcome State Fault Refusal :=
  if !(hostUp s) then .next s else .next (flushErrors (modFn s fn (fun f => { f with mboxhead := head % 2 ^ 32 })))

/-- Of the registers without an event of their own only MBOXBASE can be written; it is a multiple of 4,096. -/
def execHostRegisterWrite (fn off value : Nat) (s : State) : Host.Outcome State Fault Refusal :=
  if hostUp s = true ∧ off = 0x010 ∧ value % 4096 = 0 then .next (flushErrors (modFn s fn (fun f => { f with mboxbase := value % 2 ^ 64 }))) else .next s

def execFunctionAssignment (fn part : Nat) (s : State) : Host.Outcome State Fault Refusal :=
  if fn < fnCount ∧ (Tab.find s.parts part).isSome then .next (modFn s fn (fun f => { f with part := some part })) else .next s

/-- The plat of a root: a virtual die for each compute die in use that holds a cluster of the partition (R2, R458). -/
def rootPlat (s : State) (p : Part) : List Plat :=
  ((List.range 256).filter (fun x => !(s.offSites.contains x) && p.clusters.any (fun u => u / 8 = x))).map (fun x =>
    { site := x,
      cores := (List.range 64).filter (fun c => p.clusters.contains (x * 8 + c / 8) && usable s (x * 64 + c)) })

def setRootstat (s : State) (fn n : Nat) : State := modFn s fn (fun f => { f with rootstat := n })

/-- Creates a partition's root. -/
def makeRoot (s : State) (part id : Nat) (p : Part) (d : CDesc) : State :=
  { (s.setCtx id (d.ctx p.memory part 0 0 (rootPlat s p))) with parts := Tab.put s.parts part { p with root := some id, started := false } }

/-- A device-memory address lies in an HBM stack (R13). -/
def inStack (a n : Nat) : Bool := isMemory (paSite a) && decide (a % 2 ^ 36 + n ≤ 24576 * 2 ^ 21)

def execRootdesc (fn addr : Nat) (s : State) : Host.Outcome State Fault Refusal :=
  if !(hostUp s) then .next s
  else match (Tab.get {} s.fns fn).part with
  | none => .next s
  | some part =>
    match Tab.find s.parts part with
    | none => .next s
    | some p =>
      if p.root.isSome then .next s
      else if !(inStack addr 192) then .fault (.noSuchMemory addr)
      else
        let d := CDesc.of (physRead s addr 192)
        match freeCtx s with
        | none => .next (setRootstat s fn 2)
        | some id =>
          match d.reason { homes := p.memory.length, ylimit := p.ylimit, surv := p.surv, parc := p.parc, nchild := p.nchild,
                           rate := portRate p.port.toNat } with
          | 0 => .next (setRootstat (makeRoot s part id p d) fn 0)
          | n => .next (setRootstat s fn n)

/-- A root entry that may be written (R457): its die in the partition's memory list, its frame in the stack, reserved bits
zero; a peer frame has no die. -/
def rootEntryOk (p : Part) (e : W64) : Bool :=
  let n := e.toNat
  if !(frameV e) then n % 2 ^ 63 = 0
  else if e.getLsbD 61 then bits n 60 38 = 0 && bits n 31 15 = 0
  else bits n 60 22 = 0 && decide (bits n 14 0 ≤ 24575) && p.memory.contains (dieSite (bits n 21 15))

/-- Takes the function's next host sweep number. -/
def takeHostSweep (s : State) (fn : Nat) (done : Bool) : Nat × State :=
  let n := (Tab.get {} s.fns fn).sweepNext
  (n, modFn s fn (fun f => { f with sweepNext := if (n + 1) % 2 ^ 32 = 0 then 1 else (n + 1) % 2 ^ 32, sweepNum := n, sweepDone := done }))

/-- Writes a root entry (R425): none while its sweep must wait; whether no sweep was needed. -/
def writeRoot (s : State) (ctx i : Nat) (e : W64) : Option (State × Bool) :=
  let old := Cells.get 0 (s.ctxAt ctx).frames i
  if !(frameV old) then some (setFrame s ctx i e, true)
  else if frameV e && rootFrame old = rootFrame e then some (sweepOne (setFrame s ctx i e) ctx [i], false)
  else (changeFrames s ctx [i] e).map (fun s1 => (s1, false))

def execRootfa (fn index : Nat) (entry : W64) (s : State) : Host.Outcome State Fault Refusal :=
  if !(hostUp s) then .next s
  else match (Tab.get {} s.fns fn).part with
  | none => .next s
  | some part =>
    match Tab.find s.parts part with
    | none => .next s
    | some p =>
      match p.root with
      | none => .next s
      | some ctx =>
        if !(rootEntryOk p entry) || (s.ctxAt ctx).frlim ≤ index then .next (setRootstat (takeHostSweep s fn true).2 fn 3)
        else match writeRoot s ctx index entry with
          | none => .next s
          | some (s1, now) =>
            let (n, s2) := takeHostSweep s1 fn now
            .next (if now then s2 else startSweep s2 { part, num := n, ctx, done := none, frames := 1, fn := some fn })

/-! ## Partitions (R458, R459, R461) -/

/-- A partition that may be created: a new one of at most 40, of clusters that no other has, on compute dies in use (R2), with
memory dies. -/
def partOk (s : State) (d : PartDesc) : Bool :=
  (Tab.find s.parts d.id).isNone && decide (s.parts.length < 40) &&
    d.clusters.all (fun c => isCompute c.1 && !(s.offSites.contains c.1) && decide (c.2 < 8) && !(s.parts.any (fun e => e.2.clusters.contains (c.1 * 8 + c.2)))) &&
    d.memory.all isMemory

def newPart (d : PartDesc) : Part :=
  { clusters := (d.clusters.map (fun c => c.1 * 8 + c.2)).eraseDups, memory := (List.range 256).filter d.memory.contains,
    ylimit := d.ylimit, surv := d.surv, parc := d.parc, nchild := d.nchild, port := d.port }

def execPartitionCreate (desc : PartDesc) (s : State) : Host.Outcome State Fault Refusal :=
  .next (if partOk s desc then { s with parts := Tab.put s.parts desc.id (newPart desc) } else s)

/-- The ticket that an atomic holds and the slice it is for. -/
def ticketOf (m : Msg) : Option (Nat × Nat) :=
  match m.body with
  | .atom _ _ _ _ _ _ _ _ _ _ _ _ _ (some t) => some (m.dst, t)
  | _ => none

/-- A message whose ticket follows a void one takes the number before its own. -/
def lowerTicket (site t : Nat) (m : Msg) : Msg :=
  match m.body with
  | .atom acc ch seq pc va wid lane vas op cells red clk after (some k) =>
    if m.dst = site ∧ t < k ∧ isPodTicket t = isPodTicket k then { m with body := .atom acc ch seq pc va wid lane vas op cells red clk after (some (k - 1)) } else m
  | _ => m

/-- The slice's sequence closes over the ticket of an atomic that is dropped: the others keep their order (R140, R461). -/
def voidTicket (s : State) (x : Nat × Nat) : State :=
  { s with msgs := s.msgs.map (lowerTicket x.1 x.2),
           slices := s.slices.map (fun e => (e.1, { e.2 with secs := e.2.secs.map (fun y => (y.1, { y.2 with queue := y.2.queue.map (lowerTicket x.1 x.2) })) })),
           tickets := if isPodTicket x.2 then s.tickets else Cells.set 0 s.tickets x.1 (Cells.get 0 s.tickets x.1 - 1),
           podTickets := if isPodTicket x.2 then Cells.set 0 s.podTickets x.1 (Cells.get 0 s.podTickets x.1 - 1) else s.podTickets }

/-- Tickets of chains, the latest first, so that each is void before the earlier ones move. -/
def ticketsOf (s : State) (chs : List Nat) : List (Nat × Nat) :=
  ((allMsgs s).filter (fun m => (bodyChain m.body).any chs.contains)).filterMap ticketOf

/-- Tickets in falling order. -/
def insertLate (x : Nat × Nat) : List (Nat × Nat) → List (Nat × Nat)
  | [] => [x]
  | y :: r => if y.2 ≤ x.2 then x :: y :: r else y :: insertLate x r

/-- Drops the messages of chains, and the tickets they hold. -/
def dropChainMsgs (s : State) (chs : List Nat) : State :=
  let ts := ticketsOf s chs
  let order := ts.foldl (fun l x => insertLate x l) []
  order.foldl voidTicket (dropMsgsOf s chs)

/-- The tag spaces of a partition and its contexts. -/
def partTags (s : State) (part : Nat) : List Nat := (2 * part + 1) :: (s.ctxs.filter (fun e => e.2.part = part)).map (fun e => 2 * e.1)

/-- The largest stamp among what a slice keeps of some sectors and bindings. -/
def Slice.topOf (sl : Slice) (out : Nat → Bool) (tag : Nat → Bool) : Nat :=
  let secs := (sl.secs.filter (fun e => out e.1)).foldl (fun a e => max a e.2.rts) 0
  let gone := (sl.given.filter (fun e => out e.1)).foldl (fun a e => max a (e.2 - 1)) secs
  let kept := (sl.floors.filter (fun f => out f.1)).foldl (fun a f => max a f.2.2) gone
  (sl.binds.filter (fun b => tag b.tag)).foldl (fun a b => max a b.fl) kept

/-- A slice without the lines of tag spaces, dropped without write-back: its floor stands above their stamps (R130). -/
def Slice.without (sl : Slice) (tags ctxs : List Nat) : Slice :=
  let out (k : Nat) : Bool := tags.contains (tagOfKey k) && !(isPeerKey k)
  { sl with
    floor := max sl.floor (sl.topOf out tags.contains), given := sl.given.filter (fun e => !(out e.1)),
    floors := sl.floors.filter (fun f => !(out f.1)),
    secs := sl.secs.filter (fun e => !(out e.1)), lru := sl.lru.filter (fun l => sl.secs.any (fun e => !(out e.1) && homeLine sl e.1 = l)),
    tlb := sl.tlb.filter (fun t => !(tags.contains (t.page / 2 ^ 45))), marks := sl.marks.filter (fun m => !(tags.contains (m.1 / 2 ^ 45))),
    binds := sl.binds.filter (fun b => !(tags.contains b.tag)), flags := ctxs.foldl (fun m c => Cells.erase m c) sl.flags }

/-- Frames of the partition: those its root's array maps. -/
def partFrames (s : State) (p : Part) : List Nat :=
  match p.root with
  | some r => ((s.ctxAt r).frames.filter (fun e => frameV e.2 && !(isPeer (rootFrame e.2)))).map (fun e => rootFrame e.2)
  | none => []

/-- A frame of zeros. -/
def zeroFrame (s : State) (pa : Nat) : State :=
  let s1 := (List.range 512).foldl (fun s i => physFill s (realPa s (pa + 4096 * i)) 4096 []) s
  let s2 := (List.range 8192).foldl (fun s i => setCBit s (pa + 256 * i) false) s1
  s2.modSlice (paSite pa) (fun sl => { sl with lost := sl.lost.filter (fun k => k / 2 ^ 15 ≠ pa / 2 ^ 21) })

/-- A core and a cluster that have been cleared; clock, epoch, base code and fence are the core's own. -/
def Core.cleared (k : Core) : Core := { cc := k.cc, seq := k.seq, epoch := k.epoch, base := k.base, fenced := k.fenced }
def Cluster.cleared (k : Cluster) : Cluster := { epoch := k.epoch }

/-- Partition reset (R461). -/
def resetPart (s : State) (part : Nat) (p : Part) (scrub : Bool) : State :=
  let ctxs := (s.ctxs.filter (fun e => e.2.part = part)).map (·.1)
  let tags := partTags s part
  let chs := (s.chains.filter (fun e => e.2.part = part)).map (·.1)
  let frames := partFrames s p
  let s1 := dropChainMsgs s chs
  let mine (ctx : Nat) : Bool := ctxs.contains ctx
  let away (k : Nat) : Bool := mine (k / 2 ^ 20)
  let coreIn (c : Nat) : Bool := p.clusters.contains (clusterOf c)
  let chainIn (ch : Nat) : Bool := chs.contains ch || (decide (2 ^ 40 ≤ ch) && mine (ch / 2 ^ 40 - 1))
  let s2 : State := { s1 with
    msgs := s1.msgs.filter (fun m => !((bodyKey m.body).any (fun k => tags.contains (tagOfKey k)))),
    chains := s1.chains.filter (fun e => e.2.part ≠ part),
    cores := s1.cores.map (fun e => if coreIn e.1 then (e.1, e.2.cleared) else e),
    clusters := s1.clusters.map (fun e => if p.clusters.contains e.1 then (e.1, e.2.cleared) else e),
    slices := s1.slices.map (fun e => (e.1, e.2.without tags ctxs)),
    ctxs := s1.ctxs.filter (fun e => e.2.part ≠ part),
    saved := s1.saved.filter (fun e => !(mine e.1)),
    savedCores := s1.savedCores.filter (fun e => !(away e.1)),
    savedClusters := s1.savedClusters.filter (fun e => !(away e.1)),
    recs := s1.recs.filter (fun e => e.2.part ≠ part),
    surveys := s1.surveys.filter (fun e => e.2.part ≠ part),
    parcels := s1.parcels.filter (fun x => x.sid / 2 ^ 32 ≠ part),
    sweeps := s1.sweeps.filter (fun e => e.2.part ≠ part),
    queues := s1.queues.filter (fun e => !(mine e.2.ctx)),
    rings := (s1.rings.filter (fun e => !(mine e.2.ctx))).map (fun e => (e.1, { e.2 with
      wait := e.2.wait.filter (fun w => !(chainIn w.2.1)), after := e.2.after.filter (fun a => !(chainIn a.2.1)) })),
    tensors := s1.tensors.filter (fun e => !(mine e.2.ctx)),
    parts := Tab.put s1.parts part { p with root := none, started := false, nextSid := 1, nextSweep := 1, nextToken := 1 },
    fns := s1.fns.map (fun e => if e.2.part = some part then (e.1, { e.2 with sweepNext := 1 }) else e) }
  if scrub then frames.foldl zeroFrame s2 else s2

def execPartitionReset (part : Nat) (scrub : Bool) (s : State) : Host.Outcome State Fault Refusal :=
  match Tab.find s.parts part with
  | some p => .next (resetPart s part p scrub)
  | none => .next s

/-! ## Page retirement and contained errors (R432, R471) -/

/-- An uncorrectable error in a page of a stack; with no spare left the page is fenced. -/
def execPageRetirement (site page : Nat) (bad : List Nat) (s : State) : Host.Outcome State Fault Refusal :=
  let pa := site * 2 ^ 36 + page * 4096
  if !(inStack pa 4096) then .next s
  else match retirePage s pa bad with
    | some s1 => .next s1
    | none =>
      .next (s.modSlice site (fun sl => { sl with fencedPages := if sl.fencedPages.contains (pa / 4096) then sl.fencedPages else sl.fencedPages ++ [pa / 4096] }))

/-- The partition that owns a core. -/
def ownerPart (s : State) (core : Nat) : Option Nat := (s.parts.find? (fun e => e.2.clusters.contains (clusterOf core))).map (·.1)

/-- What a failing core held of its chains is lost: they are ended as by TRET.kill. -/
def endChain (s : State) (ch : Nat) : State :=
  match s.chain? ch with
  | none => s
  | some c =>
    if c.shadow then s
    else
      let dead (c : Chain) : Chain := { c with live := 0, frontier := [], parked := [], pend := [], outs := [], writes := [], latch := [], killed := true }
      let s1 := modPair s ch dead
      match s1.chain? ch with
      | some d => dropChain s1 ch d
      | none => s1

/-- Commands, side-log entries, easements and regions of chains on a core are gone. -/
def clearUnit (s : State) (core : Nat) (chs : List Nat) : State :=
  let mine (c : Cmd) : Bool := decide (c.core = core)
  let us := (s.coreAt core).l1.filter (fun e => e.2.umask ≠ 0)
  let s1 := (stripU ((s.coreAt core).regions.foldl thaw s) core us).modCore core (fun k =>
    { k with copyq := [], matq := [], qntq := [], tenq := [], ease := [], side := [], regions := [] })
  let s2 := s1.modCluster (clusterOf core) (fun u => { u with xfmq := u.xfmq.filter (fun c => !(mine c)) })
  { s2 with rings := s2.rings.map (fun e => (e.1, { e.2 with
      wait := e.2.wait.filter (fun w => !(chs.contains w.2.1)), after := e.2.after.filter (fun a => !(chs.contains a.2.1)) })) }

/-- An uncorrectable error of a core: it is fenced, its chains end, and the owner's mailbox and the log hear of it. -/
def execContainedError (core cause : Nat) (s : State) : Host.Outcome State Fault Refusal :=
  if !(isCompute (siteOf core)) then .next s
  else
    let chs := (s.chains.filter (fun e => coreOf e.1 = core)).map (·.1)
    let s1 := clearUnit (dropChainMsgs s chs) core chs
    let s2 := chs.foldl endChain s1
    let s3 : State := { (s2.modCore core (fun k => { k with fenced := true })) with
      offCores := if s2.offCores.contains core then s2.offCores else s2.offCores ++ [core] }
    -- the work of the core is reported to its contexts (R51)
    let s3 := ((chs.map (fun ch => (Tab.get {} s.chains ch).ctx)).eraseDups).foldl (fun s c => noteReport s c cause core) s3
    match ownerPart s core with
    | some part => .next (flushErrors (reportError s3 part cause core))
    | none => .next { s3 with uzosa := { s3.uzosa with log := s3.uzosa.log ++ [(cause, core)] } }

/-! ## Links and rails (R15 to R19) -/

/-- A link: 2 * site for the one to the site at x + 1, 2 * site + 1 for the one to y + 1. -/
def linkEnds (link : Nat) : Option (Nat × Nat) :=
  let a := link / 2
  if 256 ≤ a then none
  else if link % 2 = 0 then (if siteX a = 15 then none else some (a, a + 1))
  else if siteY a = 15 then none else some (a, a + 16)

/-- The class of a rail (R16); none for the spare. -/
def railClass (r : Nat) : Option Nat :=
  if r < 12 then some (r / 3) else if r = 12 then some 4 else if r = 13 then some 5 else if r = 14 then some 6 else none

/-- Rails of a class that still carry it: its own that have not failed, and the spare where it stands for one. -/
def railsLeft (l : Link) (cls : Nat) : Nat :=
  ((List.range 15).filter (fun r => decide (railClass r = some cls) && (!(l.failed.contains r) ||
    (decide (l.spareFor = some r) && !(l.failed.contains 15))))).length

/-- A rail fails: the spare takes its place if it is free (R19). -/
def failRail (l : Link) (rail : Nat) : Link :=
  if l.failed.contains rail then l
  else
    let l1 := { l with failed := l.failed ++ [rail] }
    let l2 := if rail < 15 ∧ l.spareFor = none ∧ !(l.failed.contains 15) then { l1 with spareFor := some rail } else l1
    { l2 with fenced := (List.range 7).filter (fun c => railsLeft l2 c = 0) }

/-- A context uses a die. -/
def usesDie (c : Ctx) (site : Nat) : Bool := c.plat.any (fun p => p.site = site) || c.home.contains site

/-- Fences the pairs of dies that no route joins any more, reporting each to the contexts that use it. -/
def fencePairs (s : State) : State :=
  let pairs := (List.range 7).flatMap (fun cls => (List.range 65536).filterMap (fun n =>
    let a := n / 256
    let b := n % 256
    if a ≠ b ∧ !(s.fencedPairs.contains (cls, a, b)) ∧ pairFenced s cls a b then some (cls, a, b) else none))
  let s1 : State := { s with fencedPairs := s.fencedPairs ++ pairs }
  pairs.foldl (fun s p =>
    ((s.ctxs.filter (fun e => usesDie e.2 p.2.1 && usesDie e.2 p.2.2)).map (·.1)).foldl (fun s ctx =>
      reportTo s ctx 0 (p.2.1 * 256 + p.2.2)) s) s1

def execRailFailure (link rail : Nat) (s : State) : Host.Outcome State Fault Refusal :=
  if (linkEnds link).isNone ∨ 16 ≤ rail then .next s
  else
    let l := Cells.get {} s.links link
    let l1 := failRail l rail
    let s1 : State := { s with links := Cells.set {} s.links link l1,
                               uzosa := { s.uzosa with log := if l1.spareFor = l.spareFor then s.uzosa.log else s.uzosa.log ++ [(link, rail)] } }
    .next (if l1.fenced = l.fenced then s1 else flushErrors (fencePairs s1))

/-- A failed flit of a Biant link is replayed; that counts as contention (R462). -/
def execLinkFlitReplay (port ctx cls : Nat) (s : State) : Host.Outcome State Fault Refusal :=
  if 16 ≤ port then .next s
  else
    let p := Cells.get {} s.ports port
    let s1 : State := { s with ports := Cells.set {} s.ports port { p with replays := p.replays + 1 } }
    .next (s1.modCtx ctx (fun c => { c with lost := Cells.set 0 c.lost cls (Cells.get 0 c.lost cls + 1) }))

/-! ## Islands (R466 to R468) -/

def modIsland (s : State) (i : Nat) (f : Island → Island) : State := { s with islands := Cells.set {} s.islands i (f (Cells.get {} s.islands i)) }

/-- Links of which one end lies in an island and the other does not. -/
def stitchLinks (i : Nat) : List Nat :=
  (List.range 512).filter (fun l => match linkEnds l with
    | some (a, b) => islandOf a ≠ islandOf b && (islandOf a = i || islandOf b = i)
    | none => false)

/-- Fences every class of an island's stitch links. -/
def fenceIsland (s : State) (i : Nat) : State :=
  { s with links := (stitchLinks i).foldl (fun m l => Cells.set {} m l { (Cells.get {} m l) with fenced := List.range 7 }) s.links }

def execIslandLockLoss (island : Nat) (s : State) : Host.Outcome State Fault Refusal :=
  if 16 ≤ island then .next s
  else .next (flushErrors (fencePairs (fenceIsland (modIsland s island (fun x => { x with lockLost := true })) island)))

/-- A sample above 2,000 A lowers every core of the island by one step for 2,000,000 fc, and is counted. -/
def execCurrentMonitorSample (island mA : Nat) (s : State) : Host.Outcome State Fault Refusal :=
  if 16 ≤ island then .next s
  else .next (modIsland s island (fun x =>
    if 2000000 < mA then { x with sample := mA, throttled := true, events := x.events + 1 } else { x with sample := mA }))

def execIslandThrottleEnd (island : Nat) (s : State) : Host.Outcome State Fault Refusal :=
  if 16 ≤ island then .next s else .next (modIsland s island (fun x => { x with throttled := false }))

/-- The order of bring-up (R466). -/
def bringOrder : List Nat := [9, 5, 8, 10, 13, 1, 4, 6, 11, 12, 14, 0, 2, 7, 15, 3]

def islandSites (i : Nat) : List Nat := (List.range 256).filter (fun x => islandOf x = i)

/-- Brings one island up, or fences it with its dies. -/
def bringUp (ok : BitVec 16) (s : State) (i : Nat) : State :=
  if ok.getLsbD i then modIsland s i (fun x => { x with up := true })
  else
    let s1 := fenceIsland (modIsland s i (fun x => { x with fenced := true })) i
    { s1 with offSites := s1.offSites ++ (islandSites i).filter (fun x => !(s1.offSites.contains x)) }

/-- Power-up: the islands in order, with the fuses' disabled sites and failed cores; it happens once. -/
def execIslandBringUp (ok : BitVec 16) (s : State) : Host.Outcome State Fault Refusal :=
  if s.islands.any (fun e => e.2.up || e.2.fenced) then .next s
  else .next (bringOrder.foldl (bringUp ok) { s with offCores := Config.failedCores, offSites := disabledSites })

/-! ## Ports (R279 to R281, R453) -/

/-- One refill of a bucket by its PORT word: what would pass DEPTH goes to the deposit, or is lost. -/
def refill (w : Nat) (b : Bucket) : Bucket :=
  let cap := 64 * portDepth w
  let t := b.t + portRate w
  { b with t := min cap t, d := if bit w 30 then min cap (b.d + (t - cap)) else b.d }

/-- A context pays for a beat from its own tokens. -/
def payOwn (b : Bucket) : Option Bucket :=
  if 64 ≤ b.t then some { b with t := b.t - 64 } else if 64 ≤ b.d then some { b with d := b.d - 64 } else none

/-- Contexts that use a cluster. -/
def portCtxs (s : State) (clu : Nat) : List Nat :=
  (s.ctxs.filter (fun e => e.2.plat.any (fun p => p.site = clu / 8 && p.cores.any (fun c => c / 8 = clu % 8)))).map (·.1)

/-- The state of a port during one fc: buckets by context, beats that wait (context, class, and the message it is of, or 0), and
the identifier last served. -/
structure PortFc where
  buckets : Tab Bucket
  beats : List (Nat × Nat × Nat)
  last : Nat
  free : Nat

/-- Takes the first waiting beat of a context and class. -/
def takeBeat (l : List (Nat × Nat × Nat)) (ctx cls : Nat) : List (Nat × Nat × Nat) :=
  l.eraseP (fun b => decide (b.1 = ctx ∧ b.2.1 = cls))

/-- Identifiers in rising order, each once. -/
def rising (l : List Nat) : List Nat := l.foldr ins []
where
  ins (x : Nat) : List Nat → List Nat
    | [] => [x]
    | y :: r => if x < y then x :: y :: r else if x = y then y :: r else y :: ins x r

/-- Contexts with a beat of a class, after the last one served, in rotating order. -/
def turnOrder (beats : List (Nat × Nat × Nat)) (cls last : Nat) : List Nat :=
  let ids := rising ((beats.filter (fun b => b.2.1 = cls)).map (·.1))
  ids.filter (fun c => last < c) ++ ids.filter (fun c => c ≤ last)

/-- Step 2 of R280 on a class: beats that their context pays for. -/
def serveOwn (cls : Nat) : Nat → PortFc → PortFc
  | 0, x => x
  | n + 1, x =>
    match (turnOrder x.beats cls x.last).findSome? (fun c => (payOwn (Tab.get {} x.buckets c)).map (fun b => (c, b))) with
    | some (c, b) =>
      serveOwn cls n { buckets := Tab.put x.buckets c b, beats := takeBeat x.beats c cls, last := c, free := x.free - 1 }
    | none => x

/-- The lender with the largest deposit, the lowest identifier among equals. -/
def lenderOf (x : PortFc) (ctx : Nat) : Option (Nat × Bucket) :=
  (x.buckets.filter (fun e => decide (e.1 ≠ ctx) && decide (64 ≤ e.2.d))).foldl (fun a e =>
    match a with
    | some b => if b.2.d < e.2.d then some e else some b
    | none => some e) none

/-- Step 3: slots still free go to contexts that may borrow. -/
def serveBorrow (s : State) (cls : Nat) : Nat → PortFc → PortFc
  | 0, x => x
  | n + 1, x =>
    match (turnOrder x.beats cls x.last).findSome? (fun c => if bit (s.ctxAt c).port.toNat 31 then (lenderOf x c).map (fun l => (c, l)) else none) with
    | some (c, l, b) =>
      let bs := Tab.put x.buckets l { b with d := b.d - 64, lent := b.lent + 1 }
      let m := Tab.get {} bs c
      serveBorrow s cls n { buckets := Tab.put bs c { m with borrowed := m.borrowed + 1 }, beats := takeBeat x.beats c cls, last := c, free := x.free - 1 }
    | none => x

/-- One class of one fc: own beats, then borrowed slots. -/
def serveClass (s : State) (dir cls : Nat) (x : Tab Bucket × List (Nat × Nat × Nat) × Cells Nat) :
    Tab Bucket × List (Nat × Nat × Nat) × Cells Nat :=
  let y := serveOwn cls 4 { buckets := x.1, beats := x.2.1, last := Cells.get 0 x.2.2 (2 * cls + dir), free := 4 }
  let z := serveBorrow s cls y.free y
  (z.buckets, z.beats, Cells.set 0 x.2.2 (2 * cls + dir) z.last)

/-- The beats at a port in one direction: those given, those left over, and one for each message that has come to it (log entry
99). -/
def portBeats (s : State) (cluster d : Nat) (given : List (Nat × Nat)) : List (Nat × Nat × Nat) :=
  let at_ (m : Msg) : Bool := m.ports.head? = some (cluster, d)
  ((s.clusterAt cluster).beats.filter (fun b => b.1 = d)).map (fun b => (b.2.1, b.2.2, 0)) ++
    (given.filter (fun b => decide (b.2 < 7))).map (fun b => (b.1, b.2, 0)) ++
    (s.msgs.filter at_).map (fun m => ((bodyCtx s m.body).getD 0, m.cls, m.id))

/-- One fc of a cluster's port in one direction (R280). Beats left over wait to the next fc: for tokens (R281), or, where their
context could pay, for a slot (R25). A message whose beat was served has passed the port. -/
def execPortTokenRefill (cluster : Nat) (dir : Bool) (beats : List (Nat × Nat)) (s : State) : Host.Outcome State Fault Refusal :=
  let d := if dir then 1 else 0
  let k := s.clusterAt cluster
  let all := portBeats s cluster d beats
  let ids := (portCtxs s cluster ++ all.map (·.1)).eraseDups
  let full : Tab Bucket := ids.foldl (fun t c => Tab.put t c (refill (s.ctxAt c).port.toNat (Tab.get {} k.ports (2 * c + d)))) []
  let r := (List.range 7).foldl (fun x cls => serveClass s d cls x) (full, all, k.rotor)
  let short := (r.2.1.map (·.1)).eraseDups.filter (fun c => (payOwn (Tab.get {} r.1 c)).isNone)
  let bs := short.foldl (fun t c => let b := Tab.get {} t c; Tab.put t c { b with waited := b.waited + 1 }) r.1
  let ports := bs.foldl (fun t e => Tab.put t (2 * e.1 + d) e.2) k.ports
  let late := r.2.1.filter (fun b => (payOwn (Tab.get {} r.1 b.1)).isSome)
  let left := (r.2.1.filter (fun b => b.2.2 = 0)).map (fun b => (d, b.1, b.2.1))
  let passed (m : Msg) : Bool := m.ports.head? = some (cluster, d) && !(r.2.1.any (fun b => b.2.2 = m.id))
  let s1 : State := { (s.setCluster cluster { k with ports, rotor := r.2.2, beats := k.beats.filter (fun b => b.1 ≠ d) ++ left }) with
    msgs := s.msgs.map (fun m => if passed m then { m with ports := m.ports.tail } else m) }
  .next (late.foldl (fun s b => s.modCtx b.1 (fun c => { c with lost := Cells.set 0 c.lost b.2.1 (Cells.get 0 c.lost b.2.1 + 1) })) s1)

/-- A CXL port falls back to a lower rate, or to x8. -/
def execCxlLaneFailure (port lanes rate : Nat) (s : State) : Host.Outcome State Fault Refusal :=
  let p := Cells.get {} s.cxl port
  if port < 4 ∧ (lanes = 16 ∨ lanes = 8) ∧ (rate = 128 ∨ rate = 64 ∨ rate = 32) ∧ lanes ≤ p.lanes ∧ rate ≤ p.rate then
    .next { s with cxl := Cells.set {} s.cxl port { p with lanes, rate } }
  else .next s

/-! ## The pod and the service controller (R463, R469, R470) -/

/-- Pod formation numbers the module, loads its routing table and names the designated module. -/
def execPodFormation (module designated : Nat) (routes : List (Nat × Nat)) (s : State) : Host.Outcome State Fault Refusal :=
  if 64 ≤ module ∨ 64 ≤ designated then .next s
  else .next { s with module, designated, routes := (routes.filter (fun r => decide (r.1 < 64) && decide (r.2 < 16))).foldl (fun m r => Cells.set 0 m r.1 r.2) [] }

/-- The partition map as bytes: each partition with its clusters. -/
def partitionMap (s : State) : List Byte :=
  s.parts.flatMap (fun e => toBytes 2 e.1 ++ e.2.clusters.flatMap (toBytes 2) ++ e.2.memory.flatMap (toBytes 1))

/-- The fuse state as bytes: security version, disabled sites, failed cores. -/
def fuseState (s : State) : List Byte := toBytes 1 s.uzosa.secver ++ s.offSites.flatMap (toBytes 1) ++ s.offCores.flatMap (toBytes 2)

/-- An SPDM request is answered with digests of each loaded image, the fuse state and the partition map, signed. -/
def execSpdmRequest (port : Nat) (request : List Byte) (s : State) : Host.Outcome State Fault Refusal :=
  if 4 ≤ port || !(hostUp s) then .next s
  else
    let m := request ++ s.uzosa.images.flatMap (fun i => Config.sha512 i.2) ++ Config.sha512 (fuseState s) ++ Config.sha512 (partitionMap s)
    .next { s with uzosa := { s.uzosa with replies := s.uzosa.replies ++ [(port, m ++ Config.edSign m)] } }

/-- A firmware image is loaded when its signature over its digest verifies and its version is not older than the fused
one; device images need the controller's own firmware first. -/
def execFirmwareLoad (image : List Byte) (version : Nat) (manifest : List Byte) (own : Bool) (s : State) : Host.Outcome State Fault Refusal :=
  let u := s.uzosa
  if version < u.secver ∨ 64 < version ∨ !(own || u.ownVerified) ∨ !(Config.edVerify (Config.sha512 image) manifest) then .next s
  else .next { s with uzosa := { u with images := u.images ++ [(version, image)], secver := max u.secver version, ownVerified := u.ownVerified || own } }

end Sys2Proof.Machine
end

