-- ==== Sys2Proof/Machine/Dispatch.lean ====
section
/-!
DEFINITION. The one dispatch: each constructor of Instr calls its own meaning.
-/
namespace Sys2Proof.Machine

def exec (i : Instr) (s : State) : Host.Outcome State Fault Refusal :=
  match i with
  | .bra h f => Sys2Proof.Machine.execBra h f s
  | .brx h f => Sys2Proof.Machine.execBrx h f s
  | .bru h f => Sys2Proof.Machine.execBru h f s
  | .call h f => Sys2Proof.Machine.execCall h f s
  | .ret h f => Sys2Proof.Machine.execRet h f s
  | .join h f => Sys2Proof.Machine.execJoin h f s
  | .exit h f => Sys2Proof.Machine.execExit h f s
  | .yield h f => Sys2Proof.Machine.execYield h f s
  | .nop h f => Sys2Proof.Machine.execNop h f s
  | .pset h f => Sys2Proof.Machine.execPset h f s
  | .plogLut h f => Sys2Proof.Machine.execPlogLut h f s
  | .plogFroms h f => Sys2Proof.Machine.execPlogFroms h f s
  | .voteBallot h f => Sys2Proof.Machine.execVoteBallot h f s
  | .voteAny h f => Sys2Proof.Machine.execVoteAny h f s
  | .voteAll h f => Sys2Proof.Machine.execVoteAll h f s
  | .voteEq h f => Sys2Proof.Machine.execVoteEq h f s
  | .elect h f => Sys2Proof.Machine.execElect h f s
  | .sadd h f => Sys2Proof.Machine.execSadd h f s
  | .ssub h f => Sys2Proof.Machine.execSsub h f s
  | .smul h f => Sys2Proof.Machine.execSmul h f s
  | .smin h f => Sys2Proof.Machine.execSmin h f s
  | .smax h f => Sys2Proof.Machine.execSmax h f s
  | .sand h f => Sys2Proof.Machine.execSand h f s
  | .sor h f => Sys2Proof.Machine.execSor h f s
  | .sxor h f => Sys2Proof.Machine.execSxor h f s
  | .sshl h f => Sys2Proof.Machine.execSshl h f s
  | .sshr h f => Sys2Proof.Machine.execSshr h f s
  | .ssra h f => Sys2Proof.Machine.execSsra h f s
  | .sldi h f => Sys2Proof.Machine.execSldi h f s
  | .smov h f => Sys2Proof.Machine.execSmov h f s
  | .gacq h f => Sys2Proof.Machine.execGacq h f s
  | .grel h f => Sys2Proof.Machine.execGrel h f s
  | .bara h f => Sys2Proof.Machine.execBara h f s
  | .barw h f => Sys2Proof.Machine.execBarw h f s
  | .qsend h f => Sys2Proof.Machine.execQsend h f s
  | .qrecv h f => Sys2Proof.Machine.execQrecv h f s
  | .qpeek h f => Sys2Proof.Machine.execQpeek h f s
  | .sget h f => Sys2Proof.Machine.execSget h f s
  | .sset h f => Sys2Proof.Machine.execSset h f s
  | .trap h f => Sys2Proof.Machine.execTrap h f s
  | .tretRetry h f => Sys2Proof.Machine.execTretRetry h f s
  | .tretSkip h f => Sys2Proof.Machine.execTretSkip h f s
  | .tretKill h f => Sys2Proof.Machine.execTretKill h f s
  | .hops h f => Sys2Proof.Machine.execHops h f s
  | .topoGrade h f => Sys2Proof.Machine.execTopoGrade h f s
  | .topoCores h f => Sys2Proof.Machine.execTopoCores h f s
  | .topoDies h f => Sys2Proof.Machine.execTopoDies h f s
  | .topoIsland h f => Sys2Proof.Machine.execTopoIsland h f s
  | .topoNcore h f => Sys2Proof.Machine.execTopoNcore h f s
  | .topoFirst h f => Sys2Proof.Machine.execTopoFirst h f s
  | .isync h f => Sys2Proof.Machine.execIsync h f s
  | .iadd h f => Sys2Proof.Machine.execIadd h f s
  | .isub h f => Sys2Proof.Machine.execIsub h f s
  | .imul h f => Sys2Proof.Machine.execImul h f s
  | .imulh h f => Sys2Proof.Machine.execImulh h f s
  | .imad h f => Sys2Proof.Machine.execImad h f s
  | .imin h f => Sys2Proof.Machine.execImin h f s
  | .imax h f => Sys2Proof.Machine.execImax h f s
  | .iabs h f => Sys2Proof.Machine.execIabs h f s
  | .and h f => Sys2Proof.Machine.execAnd h f s
  | .or h f => Sys2Proof.Machine.execOr h f s
  | .xor h f => Sys2Proof.Machine.execXor h f s
  | .shl h f => Sys2Proof.Machine.execShl h f s
  | .shr h f => Sys2Proof.Machine.execShr h f s
  | .sra h f => Sys2Proof.Machine.execSra h f s
  | .popc h f => Sys2Proof.Machine.execPopc h f s
  | .clz h f => Sys2Proof.Machine.execClz h f s
  | .bfx h f => Sys2Proof.Machine.execBfx h f s
  | .bfi h f => Sys2Proof.Machine.execBfi h f s
  | .sel h f => Sys2Proof.Machine.execSel h f s
  | .mov h f => Sys2Proof.Machine.execMov h f s
  | .ldi h f => Sys2Proof.Machine.execLdi h f s
  | .fadd h f => Sys2Proof.Machine.execFadd h f s
  | .fsub h f => Sys2Proof.Machine.execFsub h f s
  | .fmul h f => Sys2Proof.Machine.execFmul h f s
  | .ffma h f => Sys2Proof.Machine.execFfma h f s
  | .fmin h f => Sys2Proof.Machine.execFmin h f s
  | .fmax h f => Sys2Proof.Machine.execFmax h f s
  | .fcmp h f => Sys2Proof.Machine.execFcmp h f s
  | .frcp h f => Sys2Proof.Machine.execFrcp h f s
  | .frsq h f => Sys2Proof.Machine.execFrsq h f s
  | .fsqrt h f => Sys2Proof.Machine.execFsqrt h f s
  | .fdiv h f => Sys2Proof.Machine.execFdiv h f s
  | .fexp2 h f => Sys2Proof.Machine.execFexp2 h f s
  | .flog2 h f => Sys2Proof.Machine.execFlog2 h f s
  | .fclass h f => Sys2Proof.Machine.execFclass h f s
  | .cvt h f => Sys2Proof.Machine.execCvt h f s
  | .cvti h f => Sys2Proof.Machine.execCvti h f s
  | .pack h f => Sys2Proof.Machine.execPack h f s
  | .unpack h f => Sys2Proof.Machine.execUnpack h f s
  | .shfl h f => Sys2Proof.Machine.execShfl h f s
  | .shflx h f => Sys2Proof.Machine.execShflx h f s
  | .lred h f => Sys2Proof.Machine.execLred h f s
  | .lscan h f => Sys2Proof.Machine.execLscan h f s
  | .bcast h f => Sys2Proof.Machine.execBcast h f s
  | .cmul h f => Sys2Proof.Machine.execCmul h f s
  | .pmake h f => Sys2Proof.Machine.execPmake h f s
  | .pnarrow h f => Sys2Proof.Machine.execPnarrow h f s
  | .pwiden h f => Sys2Proof.Machine.execPwiden h f s
  | .pslice h f => Sys2Proof.Machine.execPslice h f s
  | .ptype h f => Sys2Proof.Machine.execPtype h f s
  | .pget h f => Sys2Proof.Machine.execPget h f s
  | .pchk h f => Sys2Proof.Machine.execPchk h f s
  | .ld h f => Sys2Proof.Machine.execLd h f s
  | .st h f => Sys2Proof.Machine.execSt h f s
  | .ldx h f => Sys2Proof.Machine.execLdx h f s
  | .stx h f => Sys2Proof.Machine.execStx h f s
  | .atom h f => Sys2Proof.Machine.execAtom h f s
  | .acas h f => Sys2Proof.Machine.execAcas h f s
  | .amred h f => Sys2Proof.Machine.execAmred h f s
  | .pubopen h f => Sys2Proof.Machine.execPubopen h f s
  | .publish h f => Sys2Proof.Machine.execPublish h f s
  | .lcadv h f => Sys2Proof.Machine.execLcadv h f s
  | .ldprs h f => Sys2Proof.Machine.execLdprs h f s
  | .cpy h f => Sys2Proof.Machine.execCpy h f s
  | .cpyx h f => Sys2Proof.Machine.execCpyx h f s
  | .cpyw h f => Sys2Proof.Machine.execCpyw h f s
  | .cpyg h f => Sys2Proof.Machine.execCpyg h f s
  | .cpwait h f => Sys2Proof.Machine.execCpwait h f s
  | .ringacqProd h f => Sys2Proof.Machine.execRingacqProd h f s
  | .ringacqCons h f => Sys2Proof.Machine.execRingacqCons h f s
  | .ringrelProd h f => Sys2Proof.Machine.execRingrelProd h f s
  | .ringrelProdAfter h f => Sys2Proof.Machine.execRingrelProdAfter h f s
  | .ringrelCons h f => Sys2Proof.Machine.execRingrelCons h f s
  | .ringwtFull h f => Sys2Proof.Machine.execRingwtFull h f s
  | .ringwtEmpty h f => Sys2Proof.Machine.execRingwtEmpty h f s
  | .easeqCount h f => Sys2Proof.Machine.execEaseqCount h f s
  | .easeqProbe h f => Sys2Proof.Machine.execEaseqProbe h f s
  | .easeqWait h f => Sys2Proof.Machine.execEaseqWait h f s
  | .xhdrRd h f => Sys2Proof.Machine.execXhdrRd h f s
  | .xhdrXp h f => Sys2Proof.Machine.execXhdrXp h f s
  | .xhdrChk h f => Sys2Proof.Machine.execXhdrChk h f s
  | .xhdrAdopt h f => Sys2Proof.Machine.execXhdrAdopt h f s
  | .xexp h f => Sys2Proof.Machine.execXexp h f s
  | .xcmp h f => Sys2Proof.Machine.execXcmp h f s
  | .xdec h f => Sys2Proof.Machine.execXdec h f s
  | .xstat h f => Sys2Proof.Machine.execXstat h f s
  | .xwait h f => Sys2Proof.Machine.execXwait h f s
  | .mma h f => Sys2Proof.Machine.execMma h f s
  | .mmac h f => Sys2Proof.Machine.execMmac h f s
  | .arel h f => Sys2Proof.Machine.execArel h f s
  | .aread h f => Sys2Proof.Machine.execAread h f s
  | .awrite h f => Sys2Proof.Machine.execAwrite h f s
  | .azero h f => Sys2Proof.Machine.execAzero h f s
  | .mwait h f => Sys2Proof.Machine.execMwait h f s
  | .mstatGrp h f => Sys2Proof.Machine.execMstatGrp h f s
  | .mstatAcc h f => Sys2Proof.Machine.execMstatAcc h f s
  | .hclr h f => Sys2Proof.Machine.execHclr h f s
  | .hacc h f => Sys2Proof.Machine.execHacc h f s
  | .hpct h f => Sys2Proof.Machine.execHpct h f s
  | .sfold h f => Sys2Proof.Machine.execSfold h f s
  | .qnt h f => Sys2Proof.Machine.execQnt h f s
  | .dqnt h f => Sys2Proof.Machine.execDqnt h f s
  | .qstatGrp h f => Sys2Proof.Machine.execQstatGrp h f s
  | .qstatAll h f => Sys2Proof.Machine.execQstatAll h f s
  | .qstatBin h f => Sys2Proof.Machine.execQstatBin h f s
  | .tbind h f => Sys2Proof.Machine.execTbind h f s
  | .tfree h f => Sys2Proof.Machine.execTfree h f s
  | .tlook h f => Sys2Proof.Machine.execTlook h f s
  | .tnear h f => Sys2Proof.Machine.execTnear h f s
  | .thalo h f => Sys2Proof.Machine.execThalo h f s
  | .tdropWb h f => Sys2Proof.Machine.execTdropWb h f s
  | .tdropDiscard h f => Sys2Proof.Machine.execTdropDiscard h f s
  | .twrb h f => Sys2Proof.Machine.execTwrb h f s
  | .tqryGrp h f => Sys2Proof.Machine.execTqryGrp h f s
  | .tqryAll h f => Sys2Proof.Machine.execTqryAll h f s
  | .tqryBind h f => Sys2Proof.Machine.execTqryBind h f s
  | .launch h f => Sys2Proof.Machine.execLaunch h f s
  | .kreg h f => Sys2Proof.Machine.execKreg h f s
  | .kdereg h f => Sys2Proof.Machine.execKdereg h f s
  | .swait h f => Sys2Proof.Machine.execSwait h f s
  | .qcfg h f => Sys2Proof.Machine.execQcfg h f s
  | .depadd h f => Sys2Proof.Machine.execDepadd h f s
  | .budgqIsland h f => Sys2Proof.Machine.execBudgqIsland h f s
  | .budgqCtx h f => Sys2Proof.Machine.execBudgqCtx h f s
  | .pairq h f => Sys2Proof.Machine.execPairq h f s
  | .cxnew h f => Sys2Proof.Machine.execCxnew h f s
  | .cxgrantBudget h f => Sys2Proof.Machine.execCxgrantBudget h f s
  | .cxgrantPort h f => Sys2Proof.Machine.execCxgrantPort h f s
  | .cxgrantHandle h f => Sys2Proof.Machine.execCxgrantHandle h f s
  | .cxgrantCommon h f => Sys2Proof.Machine.execCxgrantCommon h f s
  | .cxrevokeHandle h f => Sys2Proof.Machine.execCxrevokeHandle h f s
  | .cxrevokeCommon h f => Sys2Proof.Machine.execCxrevokeCommon h f s
  | .cxrevokeAll h f => Sys2Proof.Machine.execCxrevokeAll h f s
  | .cxrun h f => Sys2Proof.Machine.execCxrun h f s
  | .cxrunLaunch h f => Sys2Proof.Machine.execCxrunLaunch h f s
  | .cxstop h f => Sys2Proof.Machine.execCxstop h f s
  | .cxstatState h f => Sys2Proof.Machine.execCxstatState h f s
  | .cxstatFlags h f => Sys2Proof.Machine.execCxstatFlags h f s
  | .cxstatCont h f => Sys2Proof.Machine.execCxstatCont h f s
  | .cxstatPort h f => Sys2Proof.Machine.execCxstatPort h f s
  | .cxstatPword h f => Sys2Proof.Machine.execCxstatPword h f s
  | .cxdel h f => Sys2Proof.Machine.execCxdel h f s
  | .frmap h f => Sys2Proof.Machine.execFrmap h f s
  | .frunmap h f => Sys2Proof.Machine.execFrunmap h f s
  | .frqryChild h f => Sys2Proof.Machine.execFrqryChild h f s
  | .frqryComp h f => Sys2Proof.Machine.execFrqryComp h f s
  | .frqrySelf h f => Sys2Proof.Machine.execFrqrySelf h f s
  | .platset h f => Sys2Proof.Machine.execPlatset h f s
  | .dtld h f => Sys2Proof.Machine.execDtld h f s
  | .htset h f => Sys2Proof.Machine.execHtset h f s
  | .trdlgMask h f => Sys2Proof.Machine.execTrdlgMask h f s
  | .trdlgMaskChild h f => Sys2Proof.Machine.execTrdlgMaskChild h f s
  | .trdlgRing h f => Sys2Proof.Machine.execTrdlgRing h f s
  | .trdlgOff h f => Sys2Proof.Machine.execTrdlgOff h f s
  | .trflt h f => Sys2Proof.Machine.execTrflt h f s
  | .pgret h f => Sys2Proof.Machine.execPgret h f s
  | .miglogOn h f => Sys2Proof.Machine.execMiglogOn h f s
  | .miglogTake h f => Sys2Proof.Machine.execMiglogTake h f s
  | .miglogOff h f => Sys2Proof.Machine.execMiglogOff h f s
  | .migmov h f => Sys2Proof.Machine.execMigmov h f s
  | .invpg h f => Sys2Proof.Machine.execInvpg h f s
  | .invpgTlb h f => Sys2Proof.Machine.execInvpgTlb h f s
  | .invcxAll h f => Sys2Proof.Machine.execInvcxAll h f s
  | .invcxTlb h f => Sys2Proof.Machine.execInvcxTlb h f s
  | .invcxRoot h f => Sys2Proof.Machine.execInvcxRoot h f s
  | .chainSetExchange core => Sys2Proof.Machine.execChainSetExchange core s
  | .pendingChainPromotion core => Sys2Proof.Machine.execPendingChainPromotion core s
  | .spinParkWake msg => Sys2Proof.Machine.execSpinParkWake msg s
  | .spinParkTimeout core slot => Sys2Proof.Machine.execSpinParkTimeout core slot s
  | .joinRelease core slot => Sys2Proof.Machine.execJoinRelease core slot s
  | .chainEnd core slot => Sys2Proof.Machine.execChainEnd core slot s
  | .memorySideFaultReturn msg => Sys2Proof.Machine.execMemorySideFaultReturn msg s
  | .trapRecordDelivery rec => Sys2Proof.Machine.execTrapRecordDelivery rec s
  | .redundantPairTimeout core slot => Sys2Proof.Machine.execRedundantPairTimeout core slot s
  | .preemptStop ctx => Sys2Proof.Machine.execPreemptStop ctx s
  | .preemptionComplete ctx => Sys2Proof.Machine.execPreemptionComplete ctx s
  | .contextRestore ctx => Sys2Proof.Machine.execContextRestore ctx s
  | .timeSliceExpiry ctx nextCtx => Sys2Proof.Machine.execTimeSliceExpiry ctx nextCtx s
  | .homeRead msg => Sys2Proof.Machine.execHomeRead msg s
  | .homeWriteLease msg => Sys2Proof.Machine.execHomeWriteLease msg s
  | .loadResponse msg => Sys2Proof.Machine.execLoadResponse msg s
  | .storeWriteGrant msg => Sys2Proof.Machine.execStoreWriteGrant msg s
  | .forwardedRead msg => Sys2Proof.Machine.execForwardedRead msg s
  | .ownerWriteBack msg => Sys2Proof.Machine.execOwnerWriteBack msg s
  | .ownershipCleanReturn msg => Sys2Proof.Machine.execOwnershipCleanReturn msg s
  | .ownerDataAnswer msg => Sys2Proof.Machine.execOwnerDataAnswer msg s
  | .goneAnswer msg => Sys2Proof.Machine.execGoneAnswer msg s
  | .pageFlush msg => Sys2Proof.Machine.execPageFlush msg s
  | .atomicAtHome msg => Sys2Proof.Machine.execAtomicAtHome msg s
  | .atomicReturn msg => Sys2Proof.Machine.execAtomicReturn msg s
  | .meridianTicket msg => Sys2Proof.Machine.execMeridianTicket msg s
  | .rebaseNotice => Sys2Proof.Machine.execRebaseNotice s
  | .rebaseBroadcastReceipt core => Sys2Proof.Machine.execRebaseBroadcastReceipt core s
  | .cacheRebaseSweep level index => Sys2Proof.Machine.execCacheRebaseSweep level index s
  | .rebaseComplete => Sys2Proof.Machine.execRebaseComplete s
  | .hostMemRead ctx va len => Sys2Proof.Machine.execHostMemRead ctx va len s
  | .hostMemWrite ctx va data => Sys2Proof.Machine.execHostMemWrite ctx va data s
  | .backInvalidateResponse msg => Sys2Proof.Machine.execBackInvalidateResponse msg s
  | .copyUnitLanding core => Sys2Proof.Machine.execCopyUnitLanding core s
  | .copyFault core => Sys2Proof.Machine.execCopyFault core s
  | .ringSlotReady ring => Sys2Proof.Machine.execRingSlotReady ring s
  | .transformChunkCommit cluster cmd => Sys2Proof.Machine.execTransformChunkCommit cluster cmd s
  | .transformChunkFail cluster cmd => Sys2Proof.Machine.execTransformChunkFail cluster cmd s
  | .transformCommandComplete cluster cmd => Sys2Proof.Machine.execTransformCommandComplete cluster cmd s
  | .streamPost cluster cmd => Sys2Proof.Machine.execStreamPost cluster cmd s
  | .transformFault cluster cmd => Sys2Proof.Machine.execTransformFault cluster cmd s
  | .mmaStepLanding core => Sys2Proof.Machine.execMmaStepLanding core s
  | .accumulatorSlotCleared core slot => Sys2Proof.Machine.execAccumulatorSlotCleared core slot s
  | .matrixFault core => Sys2Proof.Machine.execMatrixFault core s
  | .quantisePassEnd core => Sys2Proof.Machine.execQuantisePassEnd core s
  | .scaleWordFold core => Sys2Proof.Machine.execScaleWordFold core s
  | .quantiseFault core => Sys2Proof.Machine.execQuantiseFault core s
  | .tensorCommandComplete core => Sys2Proof.Machine.execTensorCommandComplete core s
  | .tensorFault core => Sys2Proof.Machine.execTensorFault core s
  | .queueOpAtHome msg => Sys2Proof.Machine.execQueueOpAtHome msg s
  | .parcelPlacement part => Sys2Proof.Machine.execParcelPlacement part s
  | .prologueFailure sid pid => Sys2Proof.Machine.execPrologueFailure sid pid s
  | .parcelFirstIssue sid pid => Sys2Proof.Machine.execParcelFirstIssue sid pid s
  | .surveyCompletion sid => Sys2Proof.Machine.execSurveyCompletion sid s
  | .sweepComplete sweep => Sys2Proof.Machine.execSweepComplete sweep s
  | .pageRetirement site page bad => Sys2Proof.Machine.execPageRetirement site page bad s
  | .containedError core cause => Sys2Proof.Machine.execContainedError core cause s
  | .railFailure link rail => Sys2Proof.Machine.execRailFailure link rail s
  | .linkFlitReplay port ctx cls => Sys2Proof.Machine.execLinkFlitReplay port ctx cls s
  | .islandLockLoss island => Sys2Proof.Machine.execIslandLockLoss island s
  | .currentMonitorSample island mA => Sys2Proof.Machine.execCurrentMonitorSample island mA s
  | .islandThrottleEnd island => Sys2Proof.Machine.execIslandThrottleEnd island s
  | .islandBringUp ok => Sys2Proof.Machine.execIslandBringUp ok s
  | .partitionCreate desc => Sys2Proof.Machine.execPartitionCreate desc s
  | .partitionReset part scrub => Sys2Proof.Machine.execPartitionReset part scrub s
  | .spdmRequest port request => Sys2Proof.Machine.execSpdmRequest port request s
  | .firmwareLoad image version manifest own => Sys2Proof.Machine.execFirmwareLoad image version manifest own s
  | .doorbell fn addr => Sys2Proof.Machine.execDoorbell fn addr s
  | .mboxhead fn head => Sys2Proof.Machine.execMboxhead fn head s
  | .tresolveRetry fn token => Sys2Proof.Machine.execTresolveRetry fn token s
  | .tresolveSkip fn token => Sys2Proof.Machine.execTresolveSkip fn token s
  | .tresolveKill fn token => Sys2Proof.Machine.execTresolveKill fn token s
  | .tresolveDecline fn token => Sys2Proof.Machine.execTresolveDecline fn token s
  | .rootdesc fn addr => Sys2Proof.Machine.execRootdesc fn addr s
  | .rootfa fn index entry => Sys2Proof.Machine.execRootfa fn index entry s
  | .hostRegisterWrite fn off value => Sys2Proof.Machine.execHostRegisterWrite fn off value s
  | .spinParkRegistration msg => Sys2Proof.Machine.execSpinParkRegistration msg s
  | .publicationFreeze msg => Sys2Proof.Machine.execPublicationFreeze msg s
  | .publicationWrite msg => Sys2Proof.Machine.execPublicationWrite msg s
  | .portTokenRefill cluster dir beats => Sys2Proof.Machine.execPortTokenRefill cluster dir beats s
  | .accumulatorTransferComplete core => Sys2Proof.Machine.execAccumulatorTransferComplete core s
  | .hclrHpctSfoldCompletion core => Sys2Proof.Machine.execHclrHpctSfoldCompletion core s
  | .cxlLaneFailure port lanes rate => Sys2Proof.Machine.execCxlLaneFailure port lanes rate s
  | .podFormation module designated routes => Sys2Proof.Machine.execPodFormation module designated routes s
  | .functionAssignment fn part => Sys2Proof.Machine.execFunctionAssignment fn part s

end Sys2Proof.Machine
end

