-- ==== Sys2Proof/Machine/Step.lean ====
section
/-!
DEFINITION. One step: the next turn is taken, either a core's issue slot or an event (log entry 3). Everything it does
is called from Issue.lean and Dispatch.lean.
-/
namespace Sys2Proof.Machine

/-- A turn: a core's issue slot in one cycle, or an event. -/
def runTurn (t : Turn) (s : State) : Host.Outcome State Fault Refusal :=
  match t with
  | .core c => coreTurn exec s c
  | .event i => eventTurn exec i s

def step (s : State) : Host.Outcome State Fault Refusal :=
  match s.turns with
  | t :: r => runTurn t { s with turns := r }
  | [] => runTurn (Config.schedule s.tick) { s with tick := s.tick + 1 }

/-- The machine with an instruction where its next step fetches: a chain of its own on a core that holds no chain, with
the word in that core's fetch buffer, and that core's turn next (log entry 5). -/
def State.withFetchWord (s : State) (nbits w : Nat) : State := loadWord s (w % 2 ^ nbits)

end Sys2Proof.Machine
end

