-- ==== Sys2Proof/Safety.lean ====
section
/-!
DEFINITION. Safe runs, and the terms that claims are made in: what one issue may change (R36, R66), what a register
reads as, and what the FPST flags become (R71, R106).
-/
namespace Sys2Proof.Machine

/-- The step from s goes on to s'. -/
def Steps (s s' : State) : Prop := step s = .next s'

/-- States reached from s by steps that go on. -/
inductive Reaches (s : State) : State → Prop where
  | here : Reaches s s
  | more {t u : State} : Reaches s t → Steps t u → Reaches s u

/-- A step that neither faults nor refuses. -/
def SafeStep (s : State) : Prop := ∃ s', step s = .next s'

/-! ## What claims read -/

/-- The byte of HBM at a physical address. -/
def byteAt (s : State) (pa : Nat) : Byte := Cells.get 0 s.hbm pa

/-- FPST with the flags that have landed before cycle n (R106). -/
def fpstAt (c : Chain) (n : Nat) : W32 :=
  (c.pend.filter (fun w => decide (w.cell = .fpst) && decide (w.land < n))).foldl (fun a w => a ||| BitVec.ofNat 32 w.val) c.fpst

/-- No write to the cell is on its way that lands after cycle n: the write-after-write half of R70. -/
def NoLater (c : Chain) (cell : CellId) (n : Nat) : Prop := ∀ w ∈ c.pend, w.cell = cell → w.land ≤ n

/-- The value of a g register, or of a pair, of the performing chain after an instruction: in a lane at a cycle. -/
def gAfter (t : State) (wide : Bool) (r lane n : Nat) : Nat := gVal t.selChain wide r lane n

/-- Element i of a value of a type, as a bit pattern (R64, R196). -/
def elem (ty x i : Nat) : Nat := x / 2 ^ (tyWidth ty * i) % 2 ^ tyWidth ty

/-- A lane stands at a program counter in the frontier (R31). -/
def Stands (c : Chain) (l pc : Nat) : Prop := ∃ e ∈ c.frontier, e.pc = pc ∧ e.lanes.getLsbD l = true

/-- A lane stands at one program counter and nowhere else. -/
def OnlyAt (c : Chain) (l pc : Nat) : Prop := ∀ q, Stands c l q ↔ q = pc

/-! ## What one issue changes -/

/-- Nothing has changed but the performing chain and its core's cycle count and sequence number. -/
structure OnlyIssue (s t : State) (n : Nat) : Prop where
  rest : t = { s with chains := t.chains, cores := t.cores }
  chains : ∀ j, j ≠ s.sel.chain → t.chain? j = s.chain? j
  cores : ∀ k, k ≠ s.selCore → t.coreAt k = s.coreAt k
  core : t.coreAt s.selCore = { s.coreAt s.selCore with cc := s.sel.t0 + n, seq := s.sel.seq + 1 }
  bytes : ∀ a, byteAt t a = byteAt s a

/-- The frame of an instruction of n issue cycles whose results go to registers: only the cells of dst may read
differently, FPST gains just the flags fl at the cycle land, and of the chain nothing else has changed but its frontier
and its issue accounting (R33, R66). -/
structure RegFrame (s t : State) (h : Hdr) (n : Nat) (dst : List CellId) (fl : Flags) (land : Nat) : Prop where
  only : OnlyIssue s t n
  chain : ∃ c d, s.chain? s.sel.chain = some c ∧ t.chain? s.sel.chain = some d ∧
    d = { c with pend := d.pend, frontier := d.frontier, elig := s.sel.t0 + (n - 1) + max h.stall.toNat 1,
                 lastIssue := s.sel.t0 + (n - 1), waiting := false } ∧
    (∀ cell, cell ∉ dst → cell ≠ .fpst → ∀ k, d.readAt cell k = c.readAt cell k) ∧
    (∀ k, fpstAt d k = fpstAt c k ||| (if land < k then fl.setWidth 32 else 0))

/-- As OnlyIssue, for instructions that may also log old values or take a monument (R184, R185). -/
structure OnlyIssueLog (s t : State) (n : Nat) : Prop where
  rest : t = { s with chains := t.chains, cores := t.cores }
  chains : ∀ j, j ≠ s.sel.chain → t.chain? j = s.chain? j
  cores : ∀ k, k ≠ s.selCore → t.coreAt k = s.coreAt k
  core : t.coreAt s.selCore = { s.coreAt s.selCore with cc := s.sel.t0 + n, seq := s.sel.seq + 1, mons := (t.coreAt s.selCore).mons }
  bytes : ∀ a, byteAt t a = byteAt s a

/-- The issue accounting of the performing chain (R66): next eligible after the stall count, with n issue cycles. -/
def Accounted (s : State) (d : Chain) (stall n : Nat) : Prop :=
  d.elig = s.sel.t0 + (n - 1) + max stall 1 ∧ d.lastIssue = s.sel.t0 + (n - 1) ∧ d.waiting = false

/-- The cells of a g register, or of a pair, in the active lanes. -/
def gCells (s : State) (wide : Bool) (r : Nat) : List CellId :=
  (lanesOf s.sel.act).flatMap (fun l => .g r l :: (if wide then [.g (r + 1) l] else []))

/-- The cells of a predicate register in the active lanes. -/
def pCells (s : State) (r : Nat) : List CellId := (lanesOf s.sel.act).map (fun l => .p r l)

/-- An s register, or a pair. -/
def sCells (wide : Bool) (r : Nat) : List CellId := .s r :: (if wide then [.s (r + 1)] else [])

/-- No write to any of these cells lands later than the cycle given for it. -/
def GFree (s : State) (wide : Bool) (r lat : Nat) : Prop :=
  ∀ l ∈ lanesOf s.sel.act, NoLater s.selChain (.g r l) (laneCycle s l + lat) ∧
    (wide = true → NoLater s.selChain (.g (r + 1) l) (laneCycle s l + lat))

end Sys2Proof.Machine
end

