-- ==== Sys2Proof/Certificates/Slice0/Obligations.lean ====
section
/-!
DEFINITION. The statements about the model, for the provers; each docstring names the rules it formalises.
-/

open Sys2Proof Sys2Proof.Machine

/-! ## Chain sequencer -/

namespace Sys2Proof.Machine

/-- The uniform integer instructions of R173 with their exact results. -/
def uniIntTable : List ((Hdr → F0 → Instr) × (Int → Int → Int)) :=
  [(.sadd, fun a b => a + b), (.ssub, fun a b => a - b), (.smul, fun a b => a * b), (.smin, fun a b => min a b),
   (.smax, fun a b => max a b)]

/-- Bit j of a uniform bit instruction's result of w bits; n is s(B) read as 32 bits (R173). -/
def uniBitTable : List ((Hdr → F0 → Instr) × ((w a b n : Nat) → Nat → Bool)) :=
  [(.sand, fun _ a b _ j => a.testBit j && b.testBit j), (.sor, fun _ a b _ j => a.testBit j || b.testBit j),
   (.sxor, fun _ a b _ j => a.testBit j != b.testBit j), (.sshl, fun _ a _ n j => decide (n ≤ j) && a.testBit (j - n)),
   (.sshr, fun w a _ n j => decide (j + n < w) && a.testBit (j + n)), (.ssra, fun w a _ n j => a.testBit (min (j + n) (w - 1))),
   (.smov, fun _ a _ _ j => a.testBit j)]

/-- A value does not fit its type (R93). -/
def outside (ty : Nat) (v : Int) : Prop :=
  v < loOf (tyWidth ty) (tySigned ty) ∨ hiOf (tyWidth ty) (tySigned ty) < v

/-- Wrapped to the element width, or saturated first (R198). -/
def narrowed (sat : Bool) (ty : Nat) (v : Int) : Nat :=
  wrapN (if sat then max (loOf (tyWidth ty) (tySigned ty)) (min (hiOf (tyWidth ty) (tySigned ty)) v) else v) (tyWidth ty)

/-- No write to an s register, or pair, lands later than a cycle. -/
def SFree (c : Chain) (wide : Bool) (r n : Nat) : Prop :=
  NoLater c (.s r) n ∧ (wide = true → NoLater c (.s (r + 1)) n)

end Sys2Proof.Machine

/-- R173, R93, R106: the uniform integer instructions write their exact result, wrapped or saturated, to s(D) once; SAT rises
exactly when a saturated result did not fit; nothing else changes. -/
def Obligations.UniformIntegerResults : Prop :=
  ∀ p ∈ uniIntTable, ∀ (h : Hdr) (f : F0) (s : State) (c : Chain), s.chain? s.sel.chain = some c → WellFormed (p.1 h f) →
    SFree c (wide0 f) f.d.toNat (s.sel.t0 + 2) → ∀ v,
    v = p.2 (intElem f.ty.toNat (sVal c (wide0 f) f.a.toNat s.sel.t0)) (intElem f.ty.toNat (sVal c (wide0 f) f.b.toNat s.sel.t0)) →
    ∃ t fl, exec (p.1 h f) s = .next t ∧ RegFrame s t h 1 (sCells (wide0 f) f.d.toNat) fl (s.sel.t0 + 2) ∧
      (∀ k, s.sel.t0 + 2 ≤ k → sVal t.selChain (wide0 f) f.d.toNat k = narrowed (f.sub = 1) f.ty.toNat v) ∧
      ((fl = Flag.sat ∧ f.sub = 1 ∧ outside f.ty.toNat v) ∨ (fl = 0 ∧ ¬ (f.sub = 1 ∧ outside f.ty.toNat v)))

/-- R173: the uniform bit instructions bit by bit, and SLDI; no flag rises and nothing but s(D) changes. -/
def Obligations.UniformBitResults : Prop :=
  (∀ p ∈ uniBitTable, ∀ (h : Hdr) (f : F0) (s : State) (c : Chain), s.chain? s.sel.chain = some c → WellFormed (p.1 h f) →
    SFree c (wide0 f) f.d.toNat (s.sel.t0 + 2) →
    ∃ t, exec (p.1 h f) s = .next t ∧ RegFrame s t h 1 (sCells (wide0 f) f.d.toNat) 0 (s.sel.t0 + 2) ∧
      ∀ k, s.sel.t0 + 2 ≤ k → ∀ j, j < tyWidth f.ty.toNat → (sVal t.selChain (wide0 f) f.d.toNat k).testBit j =
        p.2 (tyWidth f.ty.toNat) (sVal c (wide0 f) f.a.toNat s.sel.t0) (sVal c (wide0 f) f.b.toNat s.sel.t0)
          (c.readS f.b.toNat s.sel.t0) j) ∧
  (∀ (h : Hdr) (f : F1) (s : State) (c : Chain), s.chain? s.sel.chain = some c → SFree c false f.d.toNat (s.sel.t0 + 2) →
    ∃ t, exec (.sldi h f) s = .next t ∧ RegFrame s t h 1 (sCells false f.d.toNat) 0 (s.sel.t0 + 2) ∧
      ∀ k, s.sel.t0 + 2 ≤ k → t.selChain.readS f.d.toNat k = f.imm.toNat)

namespace Sys2Proof.Machine

/-- The comparisons of R169. -/
def intRelation (r : Nat) (a b : Int) : Bool :=
  match r with
  | 0 => decide (a = b)
  | 1 => decide (a ≠ b)
  | 2 => decide (a < b)
  | 3 => decide (a ≤ b)
  | 4 => decide (b < a)
  | _ => decide (b ≤ a)

/-- The combinations of R169 with p(C). -/
def combined (comb : Nat) (r p : Bool) : Bool :=
  match comb with
  | 0 => r
  | 1 => r && p
  | 2 => r || p
  | _ => r != p

/-- No write to the predicate of an active lane lands later than its result of class L2. -/
def PFree (s : State) (r : Nat) : Prop := ∀ l ∈ lanesOf s.sel.act, NoLater s.selChain (.p r l) (laneCycle s l + 2)

/-- p(r) in a lane in its group's issue cycle. -/
def predOf (s : State) (r : BitVec 7) (l : Nat) : Bool := s.selChain.readP r.toNat l (laneCycle s l)

/-- What the predicate instructions write in a lane (R169 to R172). -/
def predTable : List ((Hdr → F0 → Instr) × (State → F0 → Nat → Bool)) :=
  [(.pset, fun s f l => combined (bits f.sub.toNat 4 3)
      (intRelation (bits f.sub.toNat 2 0) (intElem f.ty.toNat (srcVal s f.ua (wide0 f) f.a l)) (intElem f.ty.toNat (srcVal s f.ub (wide0 f) f.b l)))
      (predOf s f.c l)),
   (.plogLut, fun s f l => f.sub.getLsbD (2 * (predOf s f.a l).toNat + (predOf s f.b l).toNat)),
   (.plogFroms, fun s f l => (s.selChain.readS f.a.toNat s.sel.t0).testBit l),
   (.voteAny, fun s f _ => (lanesOf s.sel.act).any (predOf s f.a)),
   (.voteAll, fun s f _ => (lanesOf s.sel.act).all (predOf s f.a)),
   (.voteEq, fun s f _ => (lanesOf s.sel.act).all (predOf s f.a) || (lanesOf s.sel.act).all (fun l => !predOf s f.a l))]

end Sys2Proof.Machine

/-- R169, R170, R171, R46: the predicate instructions write p(D) of every active lane (p7 discards it and reads true). -/
def Sys2Proof.Machine.PredicatesWritten : Prop :=
  ∀ p ∈ predTable, ∀ (h : Hdr) (f : F0) (s : State) (c : Chain), s.chain? s.sel.chain = some c → WellFormed (p.1 h f) →
    PFree s f.d.toNat →
    ∃ t, exec (p.1 h f) s = .next t ∧ RegFrame s t h (groupsOf s.sel.pack) (pCells s f.d.toNat) 0 (lastGroup s + 2) ∧
      ∀ l ∈ lanesOf s.sel.act, ∀ k, laneCycle s l + 2 ≤ k → t.selChain.readP f.d.toNat l k = (f.d == 7 || p.2 s f l)

/-- R171, R172: VOTE.ballot writes the mask of active lanes whose p(A) is true to s(D); ELECT sets p(D) in the lowest active
lane alone, and with SUB = 1 writes its index to s(A). -/
def Sys2Proof.Machine.BallotAndElect : Prop :=
  ∀ (h : Hdr) (f : F0) (s : State) (c : Chain), s.chain? s.sel.chain = some c →
    (WellFormed (.voteBallot h f) → NoLater c (.s f.d.toNat) (lastGroup s + 2) →
      ∃ t, exec (.voteBallot h f) s = .next t ∧ RegFrame s t h (groupsOf s.sel.pack) [.s f.d.toNat] 0 (lastGroup s + 2) ∧
        ∀ k, lastGroup s + 2 ≤ k → ∀ l, l < 32 →
          (t.selChain.readS f.d.toNat k).testBit l = (s.sel.act.getLsbD l && predOf s f.a l)) ∧
    (WellFormed (.elect h f) → s.sel.act ≠ 0 → PFree s f.d.toNat →
      ∃ t, exec (.elect h f) s = .next t ∧
        RegFrame s t h (groupsOf s.sel.pack) (pCells s f.d.toNat ++ (if f.sub = 1 then [.s f.a.toNat] else [])) 0 (lastGroup s + 2) ∧
        (∀ l ∈ lanesOf s.sel.act, ∀ k, laneCycle s l + 2 ≤ k → t.selChain.readP f.d.toNat l k =
          (f.d == 7 || (lanesOf s.sel.act).all (fun j => l ≤ j))) ∧
        (f.sub = 1 → NoLater c (.s f.a.toNat) (lastGroup s + 2) → ∀ k, lastGroup s + 2 ≤ k →
          t.selChain.readS f.a.toNat k ∈ lanesOf s.sel.act ∧ (lanesOf s.sel.act).all (fun j => t.selChain.readS f.a.toNat k ≤ j)))

/-- R46, R169, R170, R171, R172: the predicate instructions, VOTE and ELECT. -/
def Obligations.PredicateResults : Prop := PredicatesWritten ∧ BallotAndElect

namespace Sys2Proof.Machine

/-- The value of each special register that SGET writes to an s register (R48). -/
def special (s : State) (c : Chain) : List Nat :=
  [lclkReg (s.coreAt s.selCore), (s.ctxAt c.ctx).lease, c.fpst.toNat, c.cause.toNat, c.tpc.toNat, c.tval.toNat, 0,
   if c.chksb then 1 else 0, (s.ctxAt c.ctx).ylimit, coreReg s c.ctx s.selCore, s.selCore / 8 % 8, vdieOf s c.ctx s.selCore, gradeReg,
   budgetReg (s.coreAt s.selCore) (lowered s s.selCore), c.idx, c.team, c.pid, c.sid]

/-- The topology forms of R180: a value of a virtual die's plat entry, 0xFFFF_FFFF for one that has none. -/
def dieValue (s : State) (c : Chain) (v : Nat) (g : Plat → Nat) : Nat :=
  if 128 ≤ v then 0xFFFFFFFF
  else match (s.ctxAt c.ctx).plat[v]? with
    | some p => g p
    | none => 0xFFFFFFFF

/-- What HOPS and TOPO write (R50, R180). -/
def topoTable : List ((Hdr → F0 → Instr) × (State → Chain → (a b : Nat) → Nat)) :=
  [(.hops, fun s c a b => dieValue s c a (fun x => dieValue s c b (fun y =>
      (max (siteX x.site) (siteX y.site) - min (siteX x.site) (siteX y.site)) +
        (max (siteY x.site) (siteY y.site) - min (siteY x.site) (siteY y.site))))),
   (.topoGrade, fun _ _ _ _ => gradeReg),
   (.topoCores, fun s c _ _ => ((s.ctxAt c.ctx).plat.map (fun p => p.cores.length)).sum),
   (.topoDies, fun s c _ _ => (s.ctxAt c.ctx).plat.length),
   (.topoIsland, fun s c a _ => dieValue s c a (fun p => islandOf p.site)),
   (.topoNcore, fun s c a _ => dieValue s c a (fun p => p.cores.length)),
   (.topoFirst, fun s c a _ => dieValue s c a (fun _ => (((s.ctxAt c.ctx).plat.take a).map (fun p => p.cores.length)).sum))]

end Sys2Proof.Machine

/-- R48, R177, R161, R180, R50: SGET, HOPS and TOPO write a register of their own; LANECAUSE goes to g(D) of each active lane. -/
def Obligations.SpecialReads : Prop :=
  (∀ (h : Hdr) (f : F1) (s : State) (c : Chain) (v : Nat), s.chain? s.sel.chain = some c → f.imm.toNat ≠ 6 →
    (special s c)[f.imm.toNat]? = some v → SFree c (f.imm = 5) f.d.toNat (s.sel.t0 + 4) →
    ∃ t, exec (.sget h f) s = .next t ∧ RegFrame s t h 1 (sCells (f.imm = 5) f.d.toNat) 0 (s.sel.t0 + 4) ∧
      ∀ k, s.sel.t0 + 4 ≤ k → sVal t.selChain (f.imm = 5) f.d.toNat k = v % 2 ^ (if f.imm = 5 then 64 else 32)) ∧
  (∀ (h : Hdr) (f : F1) (s : State) (c : Chain), s.chain? s.sel.chain = some c → f.imm.toNat = 6 →
    (∀ l ∈ lanesOf s.sel.act, NoLater c (.g f.d.toNat l) (s.sel.t0 + 4)) →
    ∃ t, exec (.sget h f) s = .next t ∧ RegFrame s t h 1 (gCells s false f.d.toNat) 0 (s.sel.t0 + 4) ∧
      ∀ l ∈ lanesOf s.sel.act, ∀ k, s.sel.t0 + 4 ≤ k → gAfter t false f.d.toNat l k = Cells.get 0 c.lanecause l % 2 ^ 32) ∧
  (∀ p ∈ topoTable, ∀ (h : Hdr) (f : F0) (s : State) (c : Chain), s.chain? s.sel.chain = some c →
    SFree c false f.d.toNat (s.sel.t0 + 4) →
    ∃ t, exec (p.1 h f) s = .next t ∧ RegFrame s t h 1 (sCells false f.d.toNat) 0 (s.sel.t0 + 4) ∧
      ∀ k, s.sel.t0 + 4 ≤ k → t.selChain.readS f.d.toNat k =
        p.2 s c (c.readS f.a.toNat s.sel.t0) (c.readS f.b.toNat s.sel.t0) % 2 ^ 32)

/-- R48, R105, R177, R184: SSET writes LEASE (0 leaves it, and a monument is taken), FPST by its write rule, or CHKSB, and
ignores a read-only register. -/
def Obligations.SpecialWrites : Prop :=
  ∀ (h : Hdr) (f : F1) (s : State) (c : Chain) (v : Nat), s.chain? s.sel.chain = some c → v = c.readS f.a.toNat s.sel.t0 →
    (f.imm = 1 → ∀ x, Tab.find s.ctxs c.ctx = some x → ∃ t m, exec (.sset h f) s = .next t ∧
      (t.ctxAt c.ctx).lease = (if v % 256 = 0 then x.lease else v % 256) ∧
      t.ctxAt c.ctx = { x with lease := (t.ctxAt c.ctx).lease } ∧ (∀ j, j ≠ c.ctx → t.ctxAt j = s.ctxAt j) ∧
      Tab.find (t.coreAt s.selCore).mons c.ctx = some m ∧ m.seq = s.sel.seq + 1 ∧ m.log = [] ∧
      t = { s with ctxs := t.ctxs, chains := t.chains, cores := t.cores } ∧ (∀ j, j ≠ s.sel.chain → t.chain? j = s.chain? j) ∧
      (∀ a, byteAt t a = byteAt s a) ∧ ∀ cell n, t.selChain.readAt cell n = c.readAt cell n) ∧
    (f.imm = 2 → ∃ t d, exec (.sset h f) s = .next t ∧ OnlyIssueLog s t 1 ∧ t.chain? s.sel.chain = some d ∧
      d = { c with fpst := d.fpst, frontier := d.frontier, elig := d.elig, lastIssue := d.lastIssue, waiting := d.waiting } ∧
      Accounted s d h.stall.toNat 1 ∧
      (∀ j, j < 32 → d.fpst.getLsbD j = if j < 6 then v.testBit j
        else if 9 ≤ j ∧ j < 12 then (if v / 512 % 8 ≤ 4 then v.testBit j else c.fpst.getLsbD j) else false)) ∧
    (f.imm = 7 → ∃ t d, exec (.sset h f) s = .next t ∧ OnlyIssueLog s t 1 ∧ t.chain? s.sel.chain = some d ∧
      d = { c with chksb := decide (v % 2 = 1), frontier := d.frontier, elig := d.elig, lastIssue := d.lastIssue, waiting := d.waiting } ∧
      Accounted s d h.stall.toNat 1) ∧
    (f.imm.toNat ∉ [1, 2, 7] → ∃ t, exec (.sset h f) s = .next t ∧ RegFrame s t h 1 [] 0 0)

/-- R163, R32: BRA sends the active lanes to the target with TP and the other lanes of the entry to the next word with FP; BRU
sends every lane of the entry to the target. -/
def Obligations.Branches : Prop :=
  ∀ (h : Hdr) (f : F3) (s : State) (c : Chain) (tgt : Nat), s.chain? s.sel.chain = some c → s.sel.act &&& ~~~s.sel.entry = 0 →
    s.sel.act ≠ 0 → (tgt : Int) = ((s.sel.pc : Int) + 8 * f.woff.toInt) % 2 ^ 32 →
    (∃ t d, exec (.bra h f) s = .next t ∧ OnlyIssue s t 1 ∧ t.chain? s.sel.chain = some d ∧
      d = { c with frontier := d.frontier, elig := d.elig, lastIssue := d.lastIssue, waiting := d.waiting } ∧
      Accounted s d h.stall.toNat 1 ∧
      ∀ l, l < 32 → (s.sel.act.getLsbD l = true → OnlyAt d l tgt) ∧
        (s.sel.act.getLsbD l = false → s.sel.entry.getLsbD l = true → OnlyAt d l ((s.sel.pc + 8) % 2 ^ 32)) ∧
        (s.sel.entry.getLsbD l = false → ∀ q, Stands d l q ↔ Stands c l q)) ∧
    (∃ t d, exec (.bru h f) s = .next t ∧ OnlyIssue s t 1 ∧ t.chain? s.sel.chain = some d ∧
      d = { c with frontier := d.frontier, elig := d.elig, lastIssue := d.lastIssue, waiting := d.waiting } ∧
      Accounted s d h.stall.toNat 1 ∧
      ∀ l, l < 32 → (s.sel.entry.getLsbD l = true → OnlyAt d l tgt) ∧
        (s.sel.entry.getLsbD l = false → ∀ q, Stands d l q ↔ Stands c l q))

/-- R163: CALL pushes the next word and the entry's priority on each active lane's stack and branches as BRA does. -/
def Obligations.Calls : Prop :=
  ∀ (h : Hdr) (f : F3) (s : State) (c : Chain) (tgt : Nat), s.chain? s.sel.chain = some c → s.sel.act &&& ~~~s.sel.entry = 0 →
    s.sel.act ≠ 0 → (tgt : Int) = ((s.sel.pc : Int) + 8 * f.woff.toInt) % 2 ^ 32 →
    (∀ l ∈ lanesOf s.sel.act, (Cells.get [] c.callStacks l).length < 8) →
    ∃ t d, exec (.call h f) s = .next t ∧ OnlyIssueLog s t 1 ∧ t.chain? s.sel.chain = some d ∧
      d = { c with frontier := d.frontier, callStacks := d.callStacks, elig := d.elig, lastIssue := d.lastIssue, waiting := d.waiting } ∧
      Accounted s d h.stall.toNat 1 ∧
      ∀ l, l < 32 → (s.sel.act.getLsbD l = true → OnlyAt d l tgt ∧
          Cells.get [] d.callStacks l = ((s.sel.pc + 8) % 2 ^ 32, s.sel.prio) :: Cells.get [] c.callStacks l) ∧
        (s.sel.act.getLsbD l = false → Cells.get [] d.callStacks l = Cells.get [] c.callStacks l) ∧
        (s.sel.act.getLsbD l = false → s.sel.entry.getLsbD l = true → OnlyAt d l ((s.sel.pc + 8) % 2 ^ 32)) ∧
        (s.sel.entry.getLsbD l = false → ∀ q, Stands d l q ↔ Stands c l q)

/-- R164, R165, R89: BRX sends each active lane to its own target and RET to the address it pops, when every such address is
the first word of an IT block; the other lanes of the entry go to the next word. -/
def Obligations.IndirectBranches : Prop :=
  ∀ (h : Hdr) (f : F0) (s : State) (c : Chain), s.chain? s.sel.chain = some c → s.sel.act &&& ~~~s.sel.entry = 0 → s.sel.act ≠ 0 →
    ((∀ l ∈ lanesOf s.sel.act, ∃ w ∈ c.kern.it, srcVal s f.ua false f.a l = 8 * w) →
      ∃ t d, exec (.brx h f) s = .next t ∧ OnlyIssue s t (groupsOf s.sel.pack) ∧ t.chain? s.sel.chain = some d ∧
        d = { c with frontier := d.frontier, elig := d.elig, lastIssue := d.lastIssue, waiting := d.waiting } ∧
        Accounted s d h.stall.toNat (groupsOf s.sel.pack) ∧
        ∀ l, l < 32 → (s.sel.act.getLsbD l = true → OnlyAt d l (srcVal s f.ua false f.a l)) ∧
          (s.sel.act.getLsbD l = false → s.sel.entry.getLsbD l = true → OnlyAt d l ((s.sel.pc + 8) % 2 ^ 32)) ∧
          (s.sel.entry.getLsbD l = false → ∀ q, Stands d l q ↔ Stands c l q)) ∧
    (∀ ret : Nat → Nat × Nat, (∀ l ∈ lanesOf s.sel.act, (∃ w ∈ c.kern.it, (ret l).1 = 8 * w) ∧
        (Cells.get [] c.callStacks l).head? = some (ret l)) →
      ∃ t d, exec (.ret h f) s = .next t ∧ OnlyIssueLog s t 1 ∧ t.chain? s.sel.chain = some d ∧
        d = { c with frontier := d.frontier, callStacks := d.callStacks, elig := d.elig, lastIssue := d.lastIssue, waiting := d.waiting } ∧
        Accounted s d h.stall.toNat 1 ∧
        ∀ l, l < 32 → (s.sel.act.getLsbD l = true → OnlyAt d l (ret l).1 ∧
            Cells.get [] d.callStacks l = (Cells.get [] c.callStacks l).tail) ∧
          (s.sel.act.getLsbD l = false → Cells.get [] d.callStacks l = Cells.get [] c.callStacks l) ∧
          (s.sel.act.getLsbD l = false → s.sel.entry.getLsbD l = true → OnlyAt d l ((s.sel.pc + 8) % 2 ^ 32)) ∧
          (s.sel.entry.getLsbD l = false → ∀ q, Stands d l q ↔ Stands c l q))

/-- R168, R166, R184, R36: NOP only moves its lanes on; YIELD does that and takes a monument at the next sequence number; JOIN
moves on at once when every lane of its entry is active and no other live lane stands below it. -/
def Sys2Proof.Machine.MovesPast : Prop :=
  ∀ (h : Hdr) (f : F0) (s : State) (c : Chain), s.chain? s.sel.chain = some c →
    ∀ e, entryAt c.frontier s.sel.pc = some e → s.sel.entry = e.lanes →
    (∃ t d, exec (.nop h f) s = .next t ∧ RegFrame s t h 1 [] 0 0 ∧ t.chain? s.sel.chain = some d ∧
      (∀ l, l < 32 → s.sel.entry.getLsbD l = true → OnlyAt d l (s.sel.pc + 8)) ∧
      (∀ l, l < 32 → s.sel.entry.getLsbD l = false → ∀ q, Stands d l q ↔ Stands c l q)) ∧
    (∃ t d m, exec (.yield h f) s = .next t ∧ OnlyIssueLog s t 1 ∧ t.chain? s.sel.chain = some d ∧
      Tab.find (t.coreAt s.selCore).mons c.ctx = some m ∧ m.seq = s.sel.seq + 1 ∧ m.log = [] ∧
      (∃ x ∈ m.chains, x = snapOf s.sel.chain d) ∧
      (∀ l, l < 32 → s.sel.entry.getLsbD l = true → OnlyAt d l (s.sel.pc + 8))) ∧
    (s.sel.act = s.sel.entry → s.sel.act ≠ 0 →
      (∀ x ∈ c.frontier, x.lanes &&& ~~~s.sel.entry ≠ 0 → s.sel.pc ≤ x.pc) →
      (∀ q ∈ c.parked, q.lanes &&& ~~~s.sel.entry ≠ 0 → s.sel.pc ≤ q.pc) →
      ∃ t d, exec (.join h f) s = .next t ∧ RegFrame s t h 1 [] 0 0 ∧ t.chain? s.sel.chain = some d ∧
        (∀ l, l < 32 → s.sel.entry.getLsbD l = true → OnlyAt d l (s.sel.pc + 8)))

/-- R166, R167, R37: an active lane that may not pass a JOIN parks there; an EXIT that does not wait for a command ends its
active lanes, which are live no more and stand nowhere, and its stall count is ignored. -/
def Sys2Proof.Machine.JoinWaitsExitEnds : Prop :=
  ∀ (h : Hdr) (f : F0) (s : State) (c : Chain), s.chain? s.sel.chain = some c → s.sel.act &&& ~~~s.sel.entry = 0 → s.sel.act ≠ 0 →
    ((∃ x ∈ c.frontier, x.lanes &&& ~~~s.sel.entry ≠ 0 ∧ x.pc < s.sel.pc) →
      ∃ t d, exec (.join h f) s = .next t ∧ OnlyIssue s t 1 ∧ t.chain? s.sel.chain = some d ∧
        d = { c with frontier := d.frontier, parked := d.parked, elig := d.elig, lastIssue := d.lastIssue, waiting := d.waiting } ∧
        d.parked = c.parked ++ [{ lanes := s.sel.act, why := .join, pc := s.sel.pc, prio := s.sel.prio }] ∧
        ∀ l, l < 32 → (s.sel.act.getLsbD l = true → ∀ q, ¬ Stands d l q) ∧
          (s.sel.act.getLsbD l = false → s.sel.entry.getLsbD l = true → OnlyAt d l ((s.sel.pc + 8) % 2 ^ 32)) ∧
          (s.sel.entry.getLsbD l = false → ∀ q, Stands d l q ↔ Stands c l q)) ∧
    (s.sel.act ≠ c.live ∨ chainCmds s s.sel.chain = [] →
      ∃ t d, exec (.exit h f) s = .next t ∧ OnlyIssue s t 1 ∧ t.chain? s.sel.chain = some d ∧
        d.live = c.live &&& ~~~s.sel.act ∧ d.elig = s.sel.t0 + 1 ∧
        (∀ cell n, d.readAt cell n = c.readAt cell n) ∧ (d.fpst, d.cause, d.tpc, d.tval) = (c.fpst, c.cause, c.tpc, c.tval) ∧
        ∀ l, l < 32 → s.sel.act.getLsbD l = true → (∀ q, ¬ Stands d l q) ∧ ∀ q ∈ d.parked, q.lanes.getLsbD l = false)


/-- R36, R37, R166, R167, R168, R184: NOP, YIELD, JOIN and EXIT. -/
def Obligations.JoinAndExit : Prop := MovesPast ∧ JoinWaitsExitEnds

/-! ## Traps -/

namespace Sys2Proof.Machine

/-- The lanes that stood in the issuing entry stand at the next word, the others where they stood. -/
def MovesOn (s : State) (c d : Chain) : Prop :=
  ∀ l, l < 32 → (s.sel.entry.getLsbD l = true → OnlyAt d l (s.sel.pc + 8)) ∧
    (s.sel.entry.getLsbD l = false → ∀ q, Stands d l q ↔ Stands c l q)

/-- Chain c performs: its issuing entry stands in its frontier, no other entry at its word (R32), and the active lanes are of
it. -/
structure Issues (s : State) (c : Chain) : Prop where
  chain : s.chain? s.sel.chain = some c
  entry : ∃ e ∈ c.frontier, e.pc = s.sel.pc ∧ s.sel.entry = e.lanes ∧ ∀ x ∈ c.frontier, x.pc = s.sel.pc → x = e
  active : s.sel.act &&& ~~~s.sel.entry = 0

/-- No fault of the performing instruction has been recorded before. -/
def FirstFault (s : State) : Prop := ∀ e ∈ s.recs, e.2.chain = s.sel.chain → e.2.seq ≠ s.sel.seq

/-- Every active lane has taken a trap with one cause: they stand parked at the word under a new record, CAUSE, TPC and TVAL
hold the record's words (R159, R160), each lane's first cause is kept (R161), the other lanes of the entry go on, and nothing
else of the machine changes but the issue's accounting. -/
structure TrapTaken (s t : State) (h : Hdr) (c : Chain) (cause tval : Nat) : Prop where
  rest : t = { s with nextId := s.nextId + 1, recs := t.recs, chains := t.chains, cores := t.cores }
  chains : ∀ j, j ≠ s.sel.chain → t.chain? j = s.chain? j
  cores : ∀ k, k ≠ s.selCore → t.coreAt k = s.coreAt k
  core : t.coreAt s.selCore = { s.coreAt s.selCore with cc := s.sel.t0 + 1, seq := s.sel.seq + 1 }
  others : ∀ j, j ≠ s.nextId → Tab.find t.recs j = Tab.find s.recs j
  made : ∃ d r, t.chain? s.sel.chain = some d ∧ Tab.find t.recs s.nextId = some r ∧
    d = { c with frontier := d.frontier, parked := d.parked, lanecause := d.lanecause, cause := r.cause, tpc := r.tpc, tval := r.tval,
                 elig := d.elig, lastIssue := d.lastIssue, waiting := d.waiting } ∧
    Accounted s d h.stall.toNat 1 ∧
    r.cause.toNat = 2 ^ 31 + countLanes s.sel.act * 2 ^ 16 + lowestLane s.sel.act * 2 ^ 8 + cause ∧
    r.tpc.toNat = s.sel.pc % 2 ^ 32 ∧ r.tval.toNat = tval % 2 ^ 64 ∧ r.lanes = s.sel.act ∧ r.chain = s.sel.chain ∧ r.ctx = c.ctx ∧
    r.part = c.part ∧ r.loc = .engine ∧ r.token = none ∧ r.detail = 0 ∧ r.log = false ∧
    d.parked = c.parked ++ [{ lanes := s.sel.act, why := .trap s.nextId, pc := s.sel.pc, prio := s.sel.prio }] ∧
    ∀ l, l < 32 → (s.sel.act.getLsbD l = true → (∀ q, ¬ Stands d l q) ∧
        Cells.get 0 d.lanecause l = (if Cells.get 0 c.lanecause l = 0 then cause else Cells.get 0 c.lanecause l)) ∧
      (s.sel.act.getLsbD l = false → Cells.get 0 d.lanecause l = Cells.get 0 c.lanecause l) ∧
      (s.sel.act.getLsbD l = false → s.sel.entry.getLsbD l = true → OnlyAt d l (s.sel.pc + 8)) ∧
      (s.sel.entry.getLsbD l = false → ∀ q, Stands d l q ↔ Stands c l q)

end Sys2Proof.Machine

/-- R32: a frontier with one entry at a program counter keeps one there when lanes move, park or end. -/
def Obligations.FrontierApart : Prop :=
  ∀ (c : Chain) (m : Mask) (pc prio : Nat) (rot : Bool) (why : ParkWhy), c.frontier.Pairwise (fun a b => a.pc ≠ b.pc) →
    (c.move m pc prio rot).frontier.Pairwise (fun a b => a.pc ≠ b.pc) ∧
    (c.park m why pc prio).frontier.Pairwise (fun a b => a.pc ≠ b.pc) ∧
    (c.endLanes m).frontier.Pairwise (fun a b => a.pc ≠ b.pc)

/-- R178, R159, R160, R161, R182: TRAP takes a trap of every active lane with its immediate as the code and s(A) as TVAL. A word
of it has a code of 0x80 to 0xFF, the rest of IMM zero and D zero. -/
def Obligations.TrapInstruction : Prop :=
  (∀ (h : Hdr) (f : F1) (s : State) (c : Chain), Issues s c → FirstFault s → s.sel.act ≠ 0 →
    ∃ t, exec (.trap h f) s = .next t ∧ TrapTaken s t h c (f.imm.toNat % 256) (c.readS f.a.toNat s.sel.t0)) ∧
  ∀ (h : Hdr) (f : F1), WellFormed (.trap h f) ↔ f.d = 0 ∧ f.a.toNat < 64 ∧ 0x80 ≤ f.imm.toNat ∧ f.imm.toNat ≤ 0xFF

/-- R79, R163, R164, R165, R174, R175, R72: where forms of the sequencer trap: CALL with every return stack full (0x30), BRX
with a target that starts no IT block (0x01), RET with an empty stack (0x31), GACQ with more blocks than REGS or with blocks held
(0x01, 0x34), GREL with fewer held (0x01), BARA and BARW with a handle of no barrier (0x21), BARA with an arrival pending
(0x32). -/
def Obligations.SequencerTraps : Prop :=
  ∀ (h : Hdr) (s : State) (c : Chain), Issues s c → FirstFault s → s.sel.act ≠ 0 →
    (∀ f : F3, s.sel.act = s.sel.entry → (∀ l ∈ lanesOf s.sel.act, 8 ≤ (Cells.get [] c.callStacks l).length) →
      ∃ t m, exec (.call h f) s = .next t ∧ m = Tab.find t.recs s.nextId ∧ m.map (fun r => r.cause.toNat % 256) = some 0x30 ∧
        m.map (·.lanes) = some s.sel.act) ∧
    (∀ f : F0, s.sel.act = s.sel.entry → (∀ l ∈ lanesOf s.sel.act, ∀ w ∈ c.kern.it, srcVal s f.ua false f.a l ≠ 8 * w) →
      ∃ t m, exec (.brx h f) s = .next t ∧ m = Tab.find t.recs s.nextId ∧ m.map (fun r => r.cause.toNat % 256) = some 0x01 ∧
        m.map (·.lanes) = some s.sel.act) ∧
    (∀ f : F0, s.sel.act = s.sel.entry → (∀ l ∈ lanesOf s.sel.act, Cells.get [] c.callStacks l = []) →
      ∃ t m, exec (.ret h f) s = .next t ∧ m = Tab.find t.recs s.nextId ∧ m.map (fun r => r.cause.toNat % 256) = some 0x31 ∧
        m.map (·.lanes) = some s.sel.act) ∧
    (∀ f : F1, c.kern.regs < f.imm.toNat → ∃ t, exec (.gacq h f) s = .next t ∧ TrapTaken s t h c 1 s.sel.word.toNat) ∧
    (∀ f : F1, f.imm.toNat ≤ c.kern.regs → c.blocks ≠ 0 → ∃ t, exec (.gacq h f) s = .next t ∧ TrapTaken s t h c 0x34 0) ∧
    (∀ f : F1, c.blocks < f.imm.toNat → ∃ t, exec (.grel h f) s = .next t ∧ TrapTaken s t h c 1 s.sel.word.toNat) ∧
    (∀ f : F5, (∀ b o, handleObj s c.ctx f.hnd.toNat ≠ .barrier b o) →
      (∃ t, exec (.bara h f) s = .next t ∧ TrapTaken s t h c 0x21 f.hnd.toNat) ∧
      (∃ t, exec (.barw h f) s = .next t ∧ TrapTaken s t h c 0x21 f.hnd.toNat)) ∧
    (∀ (f : F5) (b : Bool) (o : Nat), handleObj s c.ctx f.hnd.toNat = .barrier b o →
      (barOf s s.sel.chain (barKey c b o)).c < (arrival c o).1 →
      ∃ t, exec (.bara h f) s = .next t ∧ TrapTaken s t h c 0x32 f.hnd.toNat)

namespace Sys2Proof.Machine

/-- A record that a handler's token names: parked lanes of one chain alone, with nothing to send again and no command to resume
(R179). -/
structure PlainRecord (s : State) (rid : Nat) (r : Rec) (x : Chain) (q : Parked) : Prop where
  found : Tab.find s.recs rid = some r
  chain : s.chain? r.chain = some x
  other : r.chain ≠ s.sel.chain
  inside : (Tab.find s.saved r.ctx).isSome = false
  side : ∀ e ∈ (s.coreAt (coreOf r.chain)).side, e.chain = r.chain → e.rid ≠ rid
  redo : r.redo = [] ∧ r.past = 0 ∧ r.grp = none ∧ r.atExit = false
  code : r.cause.toNat % 256 ≠ 0x53
  alone : x.pair = none ∧ x.latch = []
  park : x.parked.filter (fun y => y.why = .trap rid) = [q]

end Sys2Proof.Machine

/-- R179, R161, R429: TRET resolves the record that its token names. The record's lanes re-enter at the trapping word (.retry),
at the next word (.skip), or end (.kill); a lane that comes back has no LANECAUSE; the record's ring slot is free. -/
def Obligations.TrapReturns : Prop :=
  ∀ (h : Hdr) (f : F0) (s : State) (c : Chain) (rid slot token : Nat) (r : Rec) (x : Chain) (q : Parked), s.chain? s.sel.chain = some c →
    PlainRecord s rid r x q → r.loc = .ring c.ctx slot → r.token = some token →
    findToken s c.part (c.readS f.a.toNat s.sel.t0) (inRing c.ctx) = some (rid, r) →
    (∃ t d, exec (.tretRetry h f) s = .next t ∧ t.chain? r.chain = some d ∧ (Tab.find t.recs rid).map (·.loc) = some (.resolved 0) ∧
      (∀ g, (t.ctxAt c.ctx).ring = some g → (slot, token) ∉ g.busy) ∧
      d = { x with frontier := d.frontier, parked := d.parked, lanecause := d.lanecause, eligSince := d.eligSince } ∧
      ∀ l, l < 32 → q.lanes.getLsbD l = true → OnlyAt d l q.pc ∧ Cells.get 0 d.lanecause l = 0) ∧
    (∃ t d, exec (.tretSkip h f) s = .next t ∧ t.chain? r.chain = some d ∧ (Tab.find t.recs rid).map (·.loc) = some (.resolved 1) ∧
      (∀ g, (t.ctxAt c.ctx).ring = some g → (slot, token) ∉ g.busy) ∧
      d = { x with frontier := d.frontier, parked := d.parked, lanecause := d.lanecause, eligSince := d.eligSince } ∧
      ∀ l, l < 32 → q.lanes.getLsbD l = true →
        OnlyAt d l (if q.pc = r.tpc.toNat then (q.pc + 8) % 2 ^ 32 else q.pc) ∧ Cells.get 0 d.lanecause l = 0) ∧
    (∃ t d, exec (.tretKill h f) s = .next t ∧ t.chain? r.chain = some d ∧ (Tab.find t.recs rid).map (·.loc) = some (.resolved 2) ∧
      (∀ g, (t.ctxAt c.ctx).ring = some g → (slot, token) ∉ g.busy) ∧
      d.live = x.live &&& ~~~q.lanes ∧ (d.killed = true ↔ x.killed = true ∨ q.lanes ≠ 0) ∧
      ∀ l, l < 32 → q.lanes.getLsbD l = true → ∀ p, ¬ Stands d l p)

/-! ## Vector engine -/

namespace Sys2Proof.Machine

/-- The integer instructions of R198 with their exact results on elements of w bits. -/
def intTable : List ((Hdr → F0 → Instr) × (Nat → Int → Int → Int → Int)) :=
  [(.iadd, fun _ a b _ => a + b), (.isub, fun _ a b _ => a - b), (.imul, fun _ a b _ => a * b),
   (.imulh, fun w a b _ => a * b / 2 ^ w), (.imad, fun _ a b c => a * b + c), (.imin, fun _ a b _ => min a b),
   (.imax, fun _ a b _ => max a b), (.iabs, fun _ a _ _ => if a < 0 then -a else a)]

/-- Their opcodes in map 1, with the TYPE and SUB codes they take. -/
def intForms : List ((Hdr → F0 → Instr) × BitVec 10 × List Nat × List Nat) :=
  [(.iadd, 0x100, [1, 2, 3, 4, 5, 6, 7, 8], [0, 1]), (.isub, 0x101, [1, 2, 3, 4, 5, 6, 7, 8], [0, 1]),
   (.imul, 0x102, [1, 2, 3, 4, 5, 6, 7, 8], [0, 1]), (.imulh, 0x103, [1, 2, 3, 4], [0]),
   (.imad, 0x104, [1, 2, 3, 4, 5, 6, 7, 8], [0, 1]), (.imin, 0x105, [1, 2, 3, 4, 5, 6, 7, 8], [0]),
   (.imax, 0x106, [1, 2, 3, 4, 5, 6, 7, 8], [0]), (.iabs, 0x107, [1, 3, 5, 7], [0, 1])]

/-- Each instruction of a table has its opcode, and is well-formed with no other TYPE or SUB than its own. -/
def FormsOf (l : List ((Hdr → F0 → Instr) × BitVec 10 × List Nat × List Nat)) : Prop :=
  ∀ p ∈ l, ∀ (h : Hdr) (f : F0), encode (p.1 h f) = some (encF0 h p.2.1 f) ∧
    (f.ty.toNat ∉ p.2.2.1 ∨ f.sub.toNat ∉ p.2.2.2 → ¬ WellFormed (p.1 h f)) ∧
    (f.ty.toNat ∈ p.2.2.1 → f.sub.toNat ∈ p.2.2.2 → ∃ g : F0, g.ty = f.ty ∧ g.sub = f.sub ∧ WellFormed (p.1 h g))

/-- Element i of an integer operand in a lane, with the type's signedness. -/
def intOperand (s : State) (f : F0) (u : Bool) (r : BitVec 7) (lane i : Nat) : Int :=
  intElem f.ty.toNat (elem f.ty.toNat (srcVal s u (wide0 f) r lane) i)

/-- The exact result of an integer instruction in element i of a lane. -/
def intExact (s : State) (f : F0) (op : Nat → Int → Int → Int → Int) (lane i : Nat) : Int :=
  op (tyWidth f.ty.toNat) (intOperand s f f.ua f.a lane i) (intOperand s f f.ub f.b lane i) (intOperand s f false f.c lane i)

end Sys2Proof.Machine


/-- R198, R106, R67: every lane integer instruction writes, in every element of every active lane, its exact result
wrapped, or saturated with SUB = 1; it raises SAT exactly when a saturated element did not fit, and changes nothing else. -/
def Obligations.LaneIntegerResults : Prop :=
  FormsOf intForms ∧ ∀ p ∈ intTable, ∀ (h : Hdr) (f : F0) (s : State) (c : Chain), s.chain? s.sel.chain = some c → WellFormed (p.1 h f) →
    GFree s (wide0 f) f.d.toNat 2 →
    ∃ t fl, exec (p.1 h f) s = .next t ∧
      RegFrame s t h (groupsOf s.sel.pack) (gCells s (wide0 f) f.d.toNat) fl (lastGroup s + 2) ∧
      (∀ l ∈ lanesOf s.sel.act, ∀ k, laneCycle s l + 2 ≤ k → ∀ i, i < tyCount f.ty.toNat →
        elem f.ty.toNat (gAfter t (wide0 f) f.d.toNat l k) i = narrowed (f.sub = 1) f.ty.toNat (intExact s f p.2 l i)) ∧
      ((fl = Flag.sat ∧ f.sub = 1 ∧ ∃ l ∈ lanesOf s.sel.act, ∃ i, i < tyCount f.ty.toNat ∧ outside f.ty.toNat (intExact s f p.2 l i)) ∨
       (fl = 0 ∧ ¬ (f.sub = 1 ∧ ∃ l ∈ lanesOf s.sel.act, ∃ i, i < tyCount f.ty.toNat ∧ outside f.ty.toNat (intExact s f p.2 l i))))

namespace Sys2Proof.Machine

/-- The forms of R199: opcode, TYPE and SUB codes. -/
def bitForms : List ((Hdr → F0 → Instr) × BitVec 10 × List Nat × List Nat) :=
  [(.and, 0x108, [0, 4], [0, 1]), (.or, 0x109, [0, 4], [0, 1]), (.xor, 0x10A, [0, 4], [0, 1]), (.shl, 0x10B, [0, 4], [0]),
   (.shr, 0x10C, [0, 4], [0]), (.sra, 0x10D, [0, 4], [0]), (.popc, 0x10E, [0, 4], [0]), (.clz, 0x10F, [0, 4], [0]),
   (.bfx, 0x110, [0, 4], [0, 1]), (.bfi, 0x111, [0, 4], [0])]

/-- The shift distance and the field operand of R199, R200: b read as 32 bits. -/
def single (s : State) (f : F0) (lane : Nat) : Nat := srcVal s f.ub false f.b lane

/-- The field of R200: position and cut length. -/
def cutField (w b : Nat) : Nat × Nat :=
  (b % 256, if b % 256 < w then min (b / 256 % 256) (w - b % 256) else 0)

/-- Bit j of a bit instruction's result of w bits, from a, b and c of w bits and n, the 32-bit reading of b (R199, R200). -/
def bitTable : List ((Hdr → F0 → Instr) × (Bool → Nat → (a b c n : Nat) → Nat → Bool)) :=
  [(.and, fun v _ a b _ _ j => a.testBit j && (b.testBit j != v)), (.or, fun v _ a b _ _ j => a.testBit j || (b.testBit j != v)),
   (.xor, fun v _ a b _ _ j => a.testBit j != (b.testBit j != v)),
   (.shl, fun _ _ a _ _ n j => decide (n ≤ j) && a.testBit (j - n)),
   (.shr, fun _ w a _ _ n j => decide (j + n < w) && a.testBit (j + n)),
   (.sra, fun _ w a _ _ n j => a.testBit (min (j + n) (w - 1))),
   (.bfx, fun v w a _ _ n j =>
      let p := cutField w n
      decide (0 < p.2) && (if j < p.2 then a.testBit (p.1 + j) else v && a.testBit (p.1 + p.2 - 1))),
   (.bfi, fun _ w a _ c n j =>
      let p := cutField w n
      if p.1 ≤ j ∧ j < p.1 + p.2 then a.testBit (j - p.1) else c.testBit j)]

end Sys2Proof.Machine

/-- R199, R200: the bit instructions, bit by bit; no flag rises and nothing but D of the active lanes changes. -/
def Sys2Proof.Machine.LaneBits : Prop :=
  FormsOf bitForms ∧ ∀ p ∈ bitTable, ∀ (h : Hdr) (f : F0) (s : State) (c : Chain), s.chain? s.sel.chain = some c → WellFormed (p.1 h f) →
    GFree s (wide0 f) f.d.toNat 2 →
    ∃ t, exec (p.1 h f) s = .next t ∧
      RegFrame s t h (groupsOf s.sel.pack) (gCells s (wide0 f) f.d.toNat) 0 (lastGroup s + 2) ∧
      ∀ l ∈ lanesOf s.sel.act, ∀ k, laneCycle s l + 2 ≤ k → ∀ j, j < tyWidth f.ty.toNat →
        (gAfter t (wide0 f) f.d.toNat l k).testBit j =
          p.2 (f.sub = 1) (tyWidth f.ty.toNat)
            (srcVal s f.ua (wide0 f) f.a l) (srcVal s f.ub (wide0 f) f.b l) (srcVal s false (wide0 f) f.c l) (single s f l) j

/-- R199: POPC and CLZ count the 1 bits and the leading zero bits of a into one 32-bit register, of a pair too. -/
def Sys2Proof.Machine.BitCounts : Prop :=
  ∀ (h : Hdr) (f : F0) (s : State) (c : Chain), s.chain? s.sel.chain = some c → GFree s false f.d.toNat 2 →
    (WellFormed (.popc h f) → ∃ t, exec (.popc h f) s = .next t ∧
      RegFrame s t h (groupsOf s.sel.pack) (gCells s false f.d.toNat) 0 (lastGroup s + 2) ∧
      ∀ l ∈ lanesOf s.sel.act, ∀ k, laneCycle s l + 2 ≤ k → gAfter t false f.d.toNat l k =
        ((List.range (tyWidth f.ty.toNat)).filter (fun j => (srcVal s f.ua (wide0 f) f.a l).testBit j)).length) ∧
    (WellFormed (.clz h f) → ∃ t, exec (.clz h f) s = .next t ∧
      RegFrame s t h (groupsOf s.sel.pack) (gCells s false f.d.toNat) 0 (lastGroup s + 2) ∧
      ∀ l ∈ lanesOf s.sel.act, ∀ k, laneCycle s l + 2 ≤ k → ∃ n, gAfter t false f.d.toNat l k = n ∧ n ≤ tyWidth f.ty.toNat ∧
        (∀ j, tyWidth f.ty.toNat - n ≤ j → j < tyWidth f.ty.toNat → (srcVal s f.ua (wide0 f) f.a l).testBit j = false) ∧
        (n < tyWidth f.ty.toNat → (srcVal s f.ua (wide0 f) f.a l).testBit (tyWidth f.ty.toNat - 1 - n) = true))

/-- R199, R200: the lane bit instructions and counts. -/
def Obligations.LaneBitResults : Prop := LaneBits ∧ BitCounts

/-- R201: SEL, MOV and LDI copy bit patterns and raise no flag. -/
def Obligations.LaneCopies : Prop :=
  FormsOf [(.sel, 0x112, [0, 4], [0]), (.mov, 0x113, [0, 4], [0])] ∧
  (∀ (h : Hdr) (f : F1), encode (.ldi h f) = some (encF1 h 0x114 f) ∧ (WellFormed (.ldi h f) ↔ f.a = 0)) ∧
  ∀ (h : Hdr) (s : State) (c : Chain), s.chain? s.sel.chain = some c →
    (∀ f : F0, WellFormed (.sel h f) → GFree s (wide0 f) f.d.toNat 2 → ∃ t, exec (.sel h f) s = .next t ∧
      RegFrame s t h (groupsOf s.sel.pack) (gCells s (wide0 f) f.d.toNat) 0 (lastGroup s + 2) ∧
      ∀ l ∈ lanesOf s.sel.act, ∀ k, laneCycle s l + 2 ≤ k → gAfter t (wide0 f) f.d.toNat l k =
        if c.readP f.c.toNat l (laneCycle s l) then srcVal s f.ua (wide0 f) f.a l else srcVal s f.ub (wide0 f) f.b l) ∧
    (∀ f : F0, WellFormed (.mov h f) → GFree s (wide0 f) f.d.toNat 2 → ∃ t, exec (.mov h f) s = .next t ∧
      RegFrame s t h (groupsOf s.sel.pack) (gCells s (wide0 f) f.d.toNat) 0 (lastGroup s + 2) ∧
      ∀ l ∈ lanesOf s.sel.act, ∀ k, laneCycle s l + 2 ≤ k → gAfter t (wide0 f) f.d.toNat l k =
        srcVal s f.ua (wide0 f) f.a l) ∧
    (∀ f : F1, WellFormed (.ldi h f) → GFree s false f.d.toNat 2 → ∃ t, exec (.ldi h f) s = .next t ∧
      RegFrame s t h (groupsOf s.sel.pack) (gCells s false f.d.toNat) 0 (lastGroup s + 2) ∧
      ∀ l ∈ lanesOf s.sel.act, ∀ k, laneCycle s l + 2 ≤ k → gAfter t false f.d.toNat l k = f.imm.toNat)

namespace Sys2Proof.Machine

/-- An operand of a floating instruction after the sign change that a SUB bit selects (R202). -/
def fltOperand (f : F0) (u neg : Bool) (s : State) (r : BitVec 7) (lane i : Nat) : FVal :=
  let v := fdecode (tyFmt f.ty.toNat) (elem f.ty.toNat (srcVal s u (wide0 f) r lane) i)
  if neg then v.negate else v

/-- Rounded results of the floating instructions from decoded operands (R202, R205): the class latency is l4, or 10. -/
def fltTable : List ((Hdr → F0 → Instr) × (F0 → Nat) × (FFmt → Nat → FVal → FVal → FVal → Rounded)) :=
  [(.fadd, l4, fun fm m a b _ => fadd fm m a b), (.fsub, l4, fun fm m a b _ => fadd fm m a b.negate),
   (.fmul, l4, fun fm m a b _ => fmul fm m a b), (.ffma, l4, fun fm m a b c => ffma fm m a b c),
   (.frcp, fun _ => 10, fun fm m a _ _ => frcp fm m a), (.frsq, fun _ => 10, fun fm m a _ _ => frsq fm m a),
   (.fsqrt, fun _ => 10, fun fm m a _ _ => fsqrt fm m a), (.fdiv, fun _ => 10, fun fm m a b _ => fdiv fm m a b),
   (.fexp2, fun _ => 10, fun fm m a _ _ => fexp2 fm m a), (.flog2, fun _ => 10, fun fm m a _ _ => flog2 fm m a)]

/-- The rounded result in element i of a lane. -/
def fltExact (s : State) (f : F0) (op : FFmt → Nat → FVal → FVal → FVal → Rounded) (lane i : Nat) : Rounded :=
  op (tyFmt f.ty.toNat) (if f.rnd = 5 then bits s.selChain.fpst.toNat 11 9 else f.rnd.toNat)
    (fltOperand f f.ua (f.sub.getLsbD 0) s f.a lane i) (fltOperand f f.ub false s f.b lane i)
    (fltOperand f false (f.sub.getLsbD 1) s f.c lane i)

/-- The flags that the elements of all active lanes raise. -/
def elemFlags (s : State) (f : F0) (r : Nat → Nat → Rounded) : Flags :=
  orFlags ((lanesOf s.sel.act).map (fun l => orFlags ((List.range (tyCount f.ty.toNat)).map (fun i => (r l i).2))))

end Sys2Proof.Machine

/-- R202, R205, R106: every element of D in every active lane is the operation's once-rounded result in the mode of RND
(5: FPST.RM), and the OR of the flags of all elements reaches FPST when the last lane group lands. -/
def Sys2Proof.Machine.LaneFloats : Prop :=
  ∀ p ∈ fltTable, ∀ (h : Hdr) (f : F0) (s : State) (c : Chain), s.chain? s.sel.chain = some c → WellFormed (p.1 h f) →
    GFree s (wide0 f) f.d.toNat (p.2.1 f) →
    ∃ t, exec (p.1 h f) s = .next t ∧
      RegFrame s t h (groupsOf s.sel.pack) (gCells s (wide0 f) f.d.toNat) (elemFlags s f (fltExact s f p.2.2)) (lastGroup s + p.2.1 f) ∧
      ∀ l ∈ lanesOf s.sel.act, ∀ k, laneCycle s l + p.2.1 f ≤ k → ∀ i, i < tyCount f.ty.toNat →
        elem f.ty.toNat (gAfter t (wide0 f) f.d.toNat l k) i = (fltExact s f p.2.2 l i).1 % 2 ^ tyWidth f.ty.toNat

/-- R203, R206, R204: FMIN and FMAX pick an operand by the number rule or the propagating rule; FCLASS sets one bit of a
ten-bit field per element; FCMP writes its relation, combined with p(C) as PSET does, to a predicate of the lane, with NV
as the relation raises it. -/
def Obligations.FloatSelections : Prop :=
  ∀ (h : Hdr) (f : F0) (s : State) (c : Chain), s.chain? s.sel.chain = some c →
    (∀ (big : Bool) (i0 : Instr), i0 = (if big then .fmax h f else .fmin h f) → WellFormed i0 → GFree s (wide0 f) f.d.toNat (l4 f) →
      ∃ t, exec i0 s = .next t ∧
        RegFrame s t h (groupsOf s.sel.pack) (gCells s (wide0 f) f.d.toNat)
          (elemFlags s f (fun l i => fminmax (tyFmt f.ty.toNat) big (f.sub = 1) (elem f.ty.toNat (srcVal s f.ua (wide0 f) f.a l) i)
            (elem f.ty.toNat (srcVal s f.ub (wide0 f) f.b l) i))) (lastGroup s + l4 f) ∧
        ∀ l ∈ lanesOf s.sel.act, ∀ k, laneCycle s l + l4 f ≤ k → ∀ i, i < tyCount f.ty.toNat →
          elem f.ty.toNat (gAfter t (wide0 f) f.d.toNat l k) i =
            (fminmax (tyFmt f.ty.toNat) big (f.sub = 1) (elem f.ty.toNat (srcVal s f.ua (wide0 f) f.a l) i)
              (elem f.ty.toNat (srcVal s f.ub (wide0 f) f.b l) i)).1 % 2 ^ tyWidth f.ty.toNat) ∧
    (WellFormed (.fclass h f) → GFree s false f.d.toNat (l4 f) → ∃ t, exec (.fclass h f) s = .next t ∧
      RegFrame s t h (groupsOf s.sel.pack) (gCells s false f.d.toNat) 0 (lastGroup s + l4 f) ∧
      ∀ l ∈ lanesOf s.sel.act, ∀ k, laneCycle s l + l4 f ≤ k → ∀ i, i < 2 →
        gAfter t false f.d.toNat l k / 2 ^ (16 * i) % 2 ^ 16 =
          (if i < tyCount f.ty.toNat then fclass (tyFmt f.ty.toNat) (elem f.ty.toNat (srcVal s f.ua (wide0 f) f.a l) i) else 0) ∧
        (i < tyCount f.ty.toNat → ∃ b, b < 10 ∧ gAfter t false f.d.toNat l k / 2 ^ (16 * i) % 2 ^ 16 = 2 ^ b)) ∧
    (WellFormed (.fcmp h f) → (∀ l ∈ lanesOf s.sel.act, NoLater c (.p f.d.toNat l) (laneCycle s l + l4 f)) →
      ∃ t fl, exec (.fcmp h f) s = .next t ∧
        RegFrame s t h (groupsOf s.sel.pack) (pCells s f.d.toNat) fl (lastGroup s + l4 f) ∧
        (∀ l ∈ lanesOf s.sel.act, ∀ k, laneCycle s l + l4 f ≤ k →
          t.selChain.readP f.d.toNat l k = (f.d == 7 ||
            combine (bits f.sub.toNat 4 3)
              (fcmpRel (f.sub.toNat % 8) (fltOperand f f.ua false s f.a l 0) (fltOperand f f.ub false s f.b l 0)).1
              (c.readP f.c.toNat l (laneCycle s l)))) ∧
        fl = orFlags ((lanesOf s.sel.act).map (fun l =>
          (fcmpRel (f.sub.toNat % 8) (fltOperand f f.ua false s f.a l 0) (fltOperand f f.ub false s f.b l 0)).2)))

namespace Sys2Proof.Machine

/-- What CVT and CVTI give for one element (R207, R208); an integer conversion that widens never saturates (R108). -/
def converted (s : State) (f : F0) (toInt : Bool) (e : Nat) : Rounded :=
  let m := if f.rnd = 5 then bits s.selChain.fpst.toNat 11 9 else f.rnd.toNat
  if toInt then toIntTy f.ty.toNat m (f.sub.getLsbD 4 || tyWidth (f.sub.toNat % 16) < tyWidth f.ty.toNat) (tyValue (f.sub.toNat % 16) e)
  else toFltTy f.ty.toNat m (tyValue (f.sub.toNat % 16) e)

/-- The element of a or b that PACK puts in place i, and the element of a that UNPACK puts there (R209). -/
def packSource (s : State) (f : F0) (lane i : Nat) : Nat :=
  let n := tyCount (f.sub.toNat % 16)
  if i < n then elem (f.sub.toNat % 16) (srcVal s f.ua false f.a lane) i
  else elem (f.sub.toNat % 16) (srcVal s f.ub false f.b lane) (i - n)

def unpackSource (s : State) (f : F0) (lane i : Nat) : Nat :=
  elem (f.sub.toNat % 16) (srcVal s f.ua false f.a lane)
    (i + (if f.sub.getLsbD 4 then tyCount (f.sub.toNat % 16) / 2 else 0))

end Sys2Proof.Machine

/-- R207, R208, R209, R108: CVT and CVTI convert each element of a and PACK and UNPACK place converted elements, with the
flags of every conversion. -/
def Obligations.Conversions : Prop :=
  ∀ (h : Hdr) (f : F0) (s : State) (c : Chain), s.chain? s.sel.chain = some c → GFree s (wide0 f) f.d.toNat (l4 f) →
    (∀ (toInt : Bool) (i0 : Instr), i0 = (if toInt then .cvti h f else .cvt h f) → WellFormed i0 →
      ∃ t, exec i0 s = .next t ∧
        RegFrame s t h (groupsOf s.sel.pack) (gCells s (wide0 f) f.d.toNat)
          (elemFlags s f (fun l i => converted s f toInt
            (elem (f.sub.toNat % 16) (srcVal s f.ua (wideTy (f.sub.toNat % 16)) f.a l) i))) (lastGroup s + l4 f) ∧
        ∀ l ∈ lanesOf s.sel.act, ∀ k, laneCycle s l + l4 f ≤ k → ∀ i, i < tyCount f.ty.toNat →
          elem f.ty.toNat (gAfter t (wide0 f) f.d.toNat l k) i =
            (converted s f toInt (elem (f.sub.toNat % 16) (srcVal s f.ua (wideTy (f.sub.toNat % 16)) f.a l) i)).1 %
              2 ^ tyWidth f.ty.toNat) ∧
    (WellFormed (.pack h f) → ∃ t, exec (.pack h f) s = .next t ∧
      RegFrame s t h (groupsOf s.sel.pack) (gCells s false f.d.toNat)
        (elemFlags s f (fun l i => converted s f (f.ty.toNat < 9) (packSource s f l i))) (lastGroup s + l4 f) ∧
      ∀ l ∈ lanesOf s.sel.act, ∀ k, laneCycle s l + l4 f ≤ k → ∀ i, i < tyCount f.ty.toNat →
        elem f.ty.toNat (gAfter t false f.d.toNat l k) i =
          (converted s f (f.ty.toNat < 9) (packSource s f l i)).1 % 2 ^ tyWidth f.ty.toNat) ∧
    (WellFormed (.unpack h f) → ∃ t, exec (.unpack h f) s = .next t ∧
      (∃ fl, RegFrame s t h (groupsOf s.sel.pack) (gCells s false f.d.toNat) fl (lastGroup s + l4 f)) ∧
      ∀ l ∈ lanesOf s.sel.act, ∀ k, laneCycle s l + l4 f ≤ k → ∀ i, i < tyCount f.ty.toNat →
        elem f.ty.toNat (gAfter t false f.d.toNat l k) i =
          (if f.ty.toNat = 11 then (toFltTy 11 0 (tyValue (f.sub.toNat % 16) (unpackSource s f l i))).1
           else wrapN (intElem (f.sub.toNat % 16) (unpackSource s f l i)) (tyWidth f.ty.toNat)) % 2 ^ tyWidth f.ty.toNat)

namespace Sys2Proof.Machine

/-- The source lane of SHFL and SHFLX for lane i (R210). -/
def sourceLane (far : Bool) (mode i n : Nat) : Nat :=
  let lo := if far then 0 else i / 16 * 16
  let m := if far then 32 else 16
  match mode with
  | 0 => lo + n % m
  | 1 => if lo + n ≤ i then i - n else i
  | 2 => if i + n < lo + m then i + n else i
  | _ => i ^^^ (n % m)

end Sys2Proof.Machine

/-- R210, R212, R194: SHFL, SHFLX and BCAST copy a source lane's register, active or not, as it stands at the first issue
cycle; BCAST.tos writes s(D) once. -/
def Obligations.CrossLaneCopies : Prop :=
  ∀ (h : Hdr) (f : F0) (s : State) (c : Chain), s.chain? s.sel.chain = some c →
    (WellFormed (.shfl h f) → GFree s (wide0 f) f.d.toNat 2 → ∃ t, exec (.shfl h f) s = .next t ∧
      RegFrame s t h (groupsOf s.sel.pack) (gCells s (wide0 f) f.d.toNat) 0 (lastGroup s + 2) ∧
      ∀ l ∈ lanesOf s.sel.act, ∀ k, laneCycle s l + 2 ≤ k → gAfter t (wide0 f) f.d.toNat l k =
        gVal c (wide0 f) f.a.toNat (sourceLane false f.sub.toNat l (single s f l)) s.sel.t0) ∧
    (WellFormed (.shflx h f) → GFree s (wide0 f) f.d.toNat 4 → ∃ t, exec (.shflx h f) s = .next t ∧
      RegFrame s t h (groupsOf s.sel.pack) (gCells s (wide0 f) f.d.toNat) 0 (lastGroup s + 4) ∧
      ∀ l ∈ lanesOf s.sel.act, ∀ k, laneCycle s l + 4 ≤ k → gAfter t (wide0 f) f.d.toNat l k =
        gVal c (wide0 f) f.a.toNat (sourceLane true f.sub.toNat l (single s f l)) s.sel.t0) ∧
    (WellFormed (.bcast h f) → s.sel.act ≠ 0 → ∀ src,
      src = (if f.sub.getLsbD 0 then lowestLane s.sel.act else c.readS f.b.toNat s.sel.t0 % 32) →
      (f.sub.getLsbD 1 = false → GFree s (wide0 f) f.d.toNat 4 → ∃ t, exec (.bcast h f) s = .next t ∧
        RegFrame s t h (groupsOf s.sel.pack) (gCells s (wide0 f) f.d.toNat) 0 (lastGroup s + 4) ∧
        ∀ l ∈ lanesOf s.sel.act, ∀ k, laneCycle s l + 4 ≤ k → gAfter t (wide0 f) f.d.toNat l k =
          gVal c (wide0 f) f.a.toNat src s.sel.t0) ∧
      (f.sub.getLsbD 1 = true → NoLater c (.s f.d.toNat) (lastGroup s + 4) →
        (wide0 f = true → NoLater c (.s (f.d.toNat + 1)) (lastGroup s + 4)) → ∃ t, exec (.bcast h f) s = .next t ∧
        RegFrame s t h (groupsOf s.sel.pack) (sCells (wide0 f) f.d.toNat) 0 (lastGroup s + 4) ∧
        ∀ k, lastGroup s + 4 ≤ k → sVal t.selChain (wide0 f) f.d.toNat k =
          gVal c (wide0 f) f.a.toNat src s.sel.t0))

namespace Sys2Proof.Machine

/-- `tree_reduce` of R109 on the lanes lo to lo + 2^n - 1: halves joined where both are present, with the flags of every
joining step. -/
def treeOf (step : Nat → Nat → Rounded) (x : Nat → Nat) (m : Mask) : Nat → Nat → Option Rounded
  | 0, lo => if m.getLsbD lo then some (x lo, 0) else none
  | n + 1, lo =>
    match treeOf step x m n lo, treeOf step x m n (lo + 2 ^ n) with
    | some a, some b => some ((step a.1 b.1).1, (a.2 ||| b.2) ||| (step a.1 b.1).2)
    | some a, none => some a
    | none, r => r

/-- The combining steps of R211. -/
def redRule (ty op mode a b : Nat) : Rounded :=
  if ty = 11 ∨ ty = 12 then
    match op with
    | 0 => fadd (tyFmt ty) mode (fdecode (tyFmt ty) a) (fdecode (tyFmt ty) b)
    | 1 => fminmax (tyFmt ty) false false a b
    | _ => fminmax (tyFmt ty) true false a b
  else
    match op with
    | 0 => ((a + b) % 2 ^ tyWidth ty, 0)
    | 1 => (if intElem ty b < intElem ty a then b else a, 0)
    | 2 => (if intElem ty a < intElem ty b then b else a, 0)
    | 3 => (a &&& b, 0)
    | 4 => (a ||| b, 0)
    | _ => (a ^^^ b, 0)

/-- The identities of R211. -/
def redUnit (ty op : Nat) : Nat :=
  if ty = 11 ∨ ty = 12 then
    match op with
    | 1 => (tyFmt ty).infBits
    | 2 => (tyFmt ty).signBit + (tyFmt ty).infBits
    | _ => 0
  else
    match op with
    | 1 => wrapN (hiOf (tyWidth ty) (tySigned ty)) (tyWidth ty)
    | 2 => wrapN (loOf (tyWidth ty) (tySigned ty)) (tyWidth ty)
    | 3 => 2 ^ tyWidth ty - 1
    | _ => 0

/-- The lanes that LSCAN combines for lane i: the active lanes up to i, or below it. -/
def scanMask (s : State) (excl : Bool) (i : Nat) : Mask :=
  maskWhere (fun l => s.sel.act.getLsbD l && (if excl then decide (l < i) else decide (l ≤ i)))

/-- The reduction of a over a set of lanes, read at the first issue cycle (R194, R211). -/
def laneTree (s : State) (f : F0) (m : Mask) : Option Rounded :=
  treeOf (redRule f.ty.toNat (f.sub.toNat % 8) (if f.rnd = 5 then bits s.selChain.fpst.toNat 11 9 else f.rnd.toNat))
    (fun j => gVal s.selChain (wide0 f) f.a.toNat j s.sel.t0) m 5 0

end Sys2Proof.Machine

/-- R211, R109, R106: LRED gives every active lane (or s(D)) the tree reduction of a over the active lanes, LSCAN gives each
active lane that of the active lanes up to it (or below it), the identity where none is; every combining step's flags rise. -/
def Obligations.LaneReductions : Prop :=
  ∀ (h : Hdr) (f : F0) (s : State) (c : Chain), s.chain? s.sel.chain = some c → s.sel.act ≠ 0 →
    (WellFormed (.lred h f) → f.sub.getLsbD 5 = false → GFree s (wide0 f) f.d.toNat 8 →
      ∃ t r, exec (.lred h f) s = .next t ∧ laneTree s f s.sel.act = some r ∧
        RegFrame s t h (groupsOf s.sel.pack) (gCells s (wide0 f) f.d.toNat) r.2 (lastGroup s + 8) ∧
        ∀ l ∈ lanesOf s.sel.act, ∀ k, laneCycle s l + 8 ≤ k → gAfter t (wide0 f) f.d.toNat l k = r.1 % 2 ^ tyWidth f.ty.toNat) ∧
    (WellFormed (.lred h f) → f.sub.getLsbD 5 = true → NoLater c (.s f.d.toNat) (lastGroup s + 8) →
      (wide0 f = true → NoLater c (.s (f.d.toNat + 1)) (lastGroup s + 8)) →
      ∃ t r, exec (.lred h f) s = .next t ∧ laneTree s f s.sel.act = some r ∧
        RegFrame s t h (groupsOf s.sel.pack) (sCells (wide0 f) f.d.toNat) r.2 (lastGroup s + 8) ∧
        ∀ k, lastGroup s + 8 ≤ k → sVal t.selChain (wide0 f) f.d.toNat k = r.1 % 2 ^ tyWidth f.ty.toNat) ∧
    (WellFormed (.lscan h f) → GFree s (wide0 f) f.d.toNat 8 → ∃ t, exec (.lscan h f) s = .next t ∧
      RegFrame s t h (groupsOf s.sel.pack) (gCells s (wide0 f) f.d.toNat)
        (orFlags ((lanesOf s.sel.act).map (fun l => ((laneTree s f (scanMask s (f.sub.getLsbD 3) l)).getD (0, 0)).2))) (lastGroup s + 8) ∧
      ∀ l ∈ lanesOf s.sel.act, ∀ k, laneCycle s l + 8 ≤ k → gAfter t (wide0 f) f.d.toNat l k =
        ((laneTree s f (scanMask s (f.sub.getLsbD 3) l)).getD (redUnit f.ty.toNat (f.sub.toNat % 8), 0)).1 % 2 ^ tyWidth f.ty.toNat)

/-- R213, R99: CMUL writes both parts of the complex product of a and b (or of b's conjugate), each rounded once. -/
def Sys2Proof.Machine.ComplexMultiply : Prop :=
  ∀ (h : Hdr) (f : F0) (s : State) (c : Chain), s.chain? s.sel.chain = some c → WellFormed (.cmul h f) →
    GFree s (wide0 f) f.d.toNat (l4 f) → ∀ (w : Nat) (prod : Nat → (Nat × Nat) × Flags), w = (if wide0 f then 32 else 16) →
      (∀ l, prod l = cplxMul (tyFmt f.ty.toNat) (if f.rnd = 5 then bits c.fpst.toNat 11 9 else f.rnd.toNat)
        (fdecode (tyFmt f.ty.toNat) (srcVal s f.ua (wide0 f) f.a l % 2 ^ w))
        (fdecode (tyFmt f.ty.toNat) (srcVal s f.ua (wide0 f) f.a l / 2 ^ w % 2 ^ w))
        (fdecode (tyFmt f.ty.toNat) (srcVal s f.ub (wide0 f) f.b l % 2 ^ w))
        (let im := fdecode (tyFmt f.ty.toNat) (srcVal s f.ub (wide0 f) f.b l / 2 ^ w % 2 ^ w)
         if f.sub = 1 then im.negate else im)) →
      ∃ t, exec (.cmul h f) s = .next t ∧
        RegFrame s t h (groupsOf s.sel.pack) (gCells s (wide0 f) f.d.toNat)
          (orFlags ((lanesOf s.sel.act).map (fun l => (prod l).2))) (lastGroup s + l4 f) ∧
        ∀ l ∈ lanesOf s.sel.act, ∀ k, laneCycle s l + l4 f ≤ k → gAfter t (wide0 f) f.d.toNat l k =
          ((prod l).1.1 + 2 ^ w * (prod l).1.2) % 2 ^ (2 * w)


/-- R99, R106, R202, R205, R213: the arithmetic of the floating instructions. -/
def Obligations.LaneFloatResults : Prop := LaneFloats ∧ ComplexMultiply

/-! ## Register blocks, barriers, queues, ISYNC -/

namespace Sys2Proof.Machine

/-- A monument of the performing chain's context has just been taken on its core: it opens at the next sequence number with
nothing logged (R184). -/
def NewMonument (s t : State) (ctx : Nat) : Prop :=
  ∃ m, Tab.find (t.coreAt s.selCore).mons ctx = some m ∧ m.seq = s.sel.seq + 1 ∧ m.log = [] ∧ m.slots = 0

end Sys2Proof.Machine

/-- R174, R45, R152: GACQ gives a chain that holds none the blocks 0 to n - 1, reading zero, from its team's pool, and writes n
to s(D); GREL returns its highest blocks, all of them for n = 0. A monument follows. The pool here has nobody waiting. -/
def Sys2Proof.Machine.BlocksGiven : Prop :=
  ∀ (h : Hdr) (f : F1) (s : State) (c : Chain) (p : Pool) (n : Nat), Issues s c → c.pair = none → n = f.imm.toNat →
    Tab.find (s.coreAt s.selCore).pools (poolKey c) = some p → p.wait = [] →
    (n ≤ c.kern.regs → c.blocks = 0 → p.used + n ≤ p.quota → NoLater c (.s f.d.toNat) (s.sel.t0 + 1) →
      ∃ t d, exec (.gacq h f) s = .next t ∧ t.chain? s.sel.chain = some d ∧
        d = { c with blocks := n, g := d.g, pend := d.pend, frontier := d.frontier, elig := d.elig, lastIssue := d.lastIssue, waiting := d.waiting } ∧
        Accounted s d h.stall.toNat 1 ∧ MovesOn s c d ∧ NewMonument s t c.ctx ∧ (∀ j, j ≠ s.sel.chain → t.chain? j = s.chain? j) ∧
        Tab.find (t.coreAt s.selCore).pools (poolKey c) = some { p with used := p.used + n } ∧
        (∀ k, s.sel.t0 + 1 ≤ k → t.selChain.readS f.d.toNat k = n) ∧
        (∀ r l, l < 32 → Cells.get 0 d.g (32 * r + l) = if 32 ≤ r ∧ r < 32 + 16 * n then 0 else Cells.get 0 c.g (32 * r + l)) ∧
        ∀ a, byteAt t a = byteAt s a) ∧
    (n ≤ c.blocks →
      ∃ t d, exec (.grel h f) s = .next t ∧ t.chain? s.sel.chain = some d ∧
        d = { c with blocks := c.blocks - (if n = 0 then c.blocks else n), frontier := d.frontier, elig := d.elig, lastIssue := d.lastIssue, waiting := d.waiting } ∧
        Accounted s d h.stall.toNat 1 ∧ MovesOn s c d ∧ NewMonument s t c.ctx ∧ (∀ j, j ≠ s.sel.chain → t.chain? j = s.chain? j) ∧
        Tab.find (t.coreAt s.selCore).pools (poolKey c) = some { p with used := p.used - (if n = 0 then c.blocks else n) } ∧
        ∀ a, byteAt t a = byteAt s a)

/-- R174: GACQ that does not fit waits: its lanes park in the pool's queue and hold nothing. -/
def Sys2Proof.Machine.BlocksAwaited : Prop :=
  ∀ (h : Hdr) (f : F1) (s : State) (c : Chain) (p : Pool), Issues s c → c.pair = none → s.sel.act ≠ 0 → f.imm.toNat ≤ c.kern.regs → c.blocks = 0 →
    Tab.find (s.coreAt s.selCore).pools (poolKey c) = some p → (p.wait ≠ [] ∨ p.quota < p.used + f.imm.toNat) →
    ∃ t d, exec (.gacq h f) s = .next t ∧ t.chain? s.sel.chain = some d ∧
      Tab.find (t.coreAt s.selCore).pools (poolKey c) = some { p with wait := p.wait ++ [s.sel.chain] } ∧
      d = { c with frontier := d.frontier, parked := d.parked, elig := d.elig, lastIssue := d.lastIssue, waiting := d.waiting } ∧
      d.parked = c.parked ++ [{ lanes := s.sel.act, why := .gacq f.imm.toNat f.d.toNat, pc := s.sel.pc, prio := s.sel.prio }] ∧
      ∀ l, l < 32 → (s.sel.act.getLsbD l = true → ∀ q, ¬ Stands d l q) ∧
        (s.sel.act.getLsbD l = false → s.sel.entry.getLsbD l = true → OnlyAt d l (s.sel.pc + 8)) ∧
        (s.sel.entry.getLsbD l = false → ∀ q, Stands d l q ↔ Stands c l q)

/-- R45, R152, R174: GACQ and GREL, given or awaited. -/
def Obligations.RegisterBlocks : Prop := BlocksGiven ∧ BlocksAwaited

namespace Sys2Proof.Machine

/-- Every other participant of a barrier has arrived at the phase after `done`. -/
def AllArrived (s : State) (b : Bool) (o done : Nat) : Bool :=
  (participants s s.sel.chain b).all (fun e => decide (e.1 = s.sel.chain) || decide (done < (arrival e.2 o).1))

/-- The chain is no shadow, and no other chain's. -/
def NoShadow (s : State) (c : Chain) : Prop := c.shadow = false ∧ ∀ e ∈ s.chains, e.2.shadow = false → e.2.pair ≠ some s.sel.chain

end Sys2Proof.Machine

/-- R175, R72, R152: BARA arrives and goes on with its arrival pending; BARW.nb answers in PW whether the phase arrived at is
complete and, when it is, takes the arrival back; BARW with an arrival pending goes on when its phase is complete and else
parks the lanes of its entry. A barrier's phase completes exactly when every participant has arrived. -/
def Obligations.Barriers : Prop :=
  ∀ (h : Hdr) (f : F5) (s : State) (c : Chain) (b : Bool) (o done a : Nat) (w : Bool), Issues s c → s.sel.act ≠ 0 →
    handleObj s c.ctx f.hnd.toNat = .barrier b o → done = (barOf s s.sel.chain (barKey c b o)).c → arrival c o = (a, w) →
    (a = done → NoShadow s c → c.parked = [] → ∃ t d, exec (.bara h f) s = .next t ∧ t.chain? s.sel.chain = some d ∧ MovesOn s c d ∧ NewMonument s t c.ctx ∧
      d = { c with bars := d.bars, frontier := d.frontier, elig := d.elig, lastIssue := d.lastIssue, waiting := d.waiting } ∧
      arrival d o = (a + 1, true) ∧ (∀ x, x ≠ o → arrival d x = arrival c x) ∧ (∀ n, byteAt t n = byteAt s n) ∧
      (barOf t s.sel.chain (barKey c b o)).c =
        (if AllArrived s b o done then done + 1 else done)) ∧
    (f.nb = true → (∀ l ∈ lanesOf s.sel.act, NoLater c (.p f.pw.toNat l) (s.sel.t0 + 1)) → ∃ t d, exec (.barw h f) s = .next t ∧ OnlyIssue s t 1 ∧ t.chain? s.sel.chain = some d ∧ MovesOn s c d ∧
      d = { c with bars := d.bars, pend := d.pend, frontier := d.frontier, elig := d.elig, lastIssue := d.lastIssue, waiting := d.waiting } ∧
      arrival d o = (a, w && decide (done < a)) ∧ (∀ x, x ≠ o → arrival d x = arrival c x) ∧
      (∀ cell, cell ∉ pCells s f.pw.toNat → ∀ n, d.readAt cell n = c.readAt cell n) ∧
      ∀ l ∈ lanesOf s.sel.act, ∀ n, s.sel.t0 + 1 ≤ n → t.selChain.readP f.pw.toNat l n = (f.pw == 7 || decide (a ≤ done))) ∧
    (f.nb = false → w = true → ∃ t d, exec (.barw h f) s = .next t ∧ OnlyIssue s t 1 ∧ t.chain? s.sel.chain = some d ∧
      d = { c with bars := d.bars, frontier := d.frontier, parked := d.parked, elig := d.elig, lastIssue := d.lastIssue, waiting := d.waiting } ∧
      arrival d o = (a, false) ∧ (∀ x, x ≠ o → arrival d x = arrival c x) ∧
      (a ≤ done → d.parked = c.parked ∧ MovesOn s c d) ∧
      (done < a → d.parked = c.parked ++ [{ lanes := s.sel.entry, why := .barrier o a, pc := s.sel.pc, prio := s.sel.prio }] ∧
        ∀ l, l < 32 → s.sel.entry.getLsbD l = true → ∀ q, ¬ Stands d l q)) ∧
    (f.nb = false → w = false → a = done → NoShadow s c → c.pair = none → c.parked = [] → c.latch = [] →
      ∃ t d, exec (.barw h f) s = .next t ∧ t.chain? s.sel.chain = some d ∧ NewMonument s t c.ctx ∧
      arrival d o = (a + 1, false) ∧ (∀ x, x ≠ o → arrival d x = arrival c x) ∧ (∀ n, byteAt t n = byteAt s n) ∧
      if AllArrived s b o done then
        (barOf t s.sel.chain (barKey c b o)).c = done + 1 ∧ d.parked = [] ∧
          ∀ l, l < 32 → s.sel.entry.getLsbD l = true → OnlyAt d l ((s.sel.pc + 8) % 2 ^ 32)
      else (barOf t s.sel.chain (barKey c b o)).c = done ∧
        d.parked = [{ lanes := s.sel.entry, why := .barrier o (a + 1), pc := s.sel.pc, prio := s.sel.prio }])

namespace Sys2Proof.Machine

/-- The queue instructions with the number their operation has at the home. -/
def queueTable : List ((Hdr → F5 → Instr) × Nat) := [(.qsend, 0), (.qrecv, 1), (.qpeek, 2)]

end Sys2Proof.Machine

/-- R176, R393, R72, R136: QSEND, QRECV and QPEEK on a data queue within reach send their operation to the queue's home, with
what the active lanes supply in ascending lane order, or one s register; a blocking form parks its lanes until the result, the
others go on. Nothing is sent or received yet. -/
def Obligations.QueueOperations : Prop :=
  ∀ p ∈ queueTable, ∀ (h : Hdr) (f : F5) (s : State) (c : Chain) (o : Nat) (q : Queue), Issues s c → s.sel.act ≠ 0 →
    handleObj s c.ctx f.hnd.toNat = .queue o → q = queueAt s o → q.reaches s s.selCore = true → q.launch = false →
    (queueCells s f).length ≤ q.cap → acquireOpen c = false →
    ∃ t d m, exec (p.1 h f) s = .next t ∧ t.chain? s.sel.chain = some d ∧ t.msgs = s.msgs ++ [m] ∧
      t = { s with nextId := s.nextId + 1, msgs := t.msgs, chains := t.chains, cores := t.cores } ∧
      (∀ j, j ≠ s.sel.chain → t.chain? j = s.chain? j) ∧ t.queues = s.queues ∧
      d = { c with outs := d.outs, frontier := d.frontier, parked := d.parked, elig := d.elig, lastIssue := d.lastIssue, waiting := d.waiting } ∧
      Accounted s d h.stall.toNat 1 ∧
      m.cls = 4 ∧ m.src = siteOf s.selCore ∧ m.dst = queueSite s q ∧
      (∃ op after, QOp.of m = some op ∧ m.body = .queueOp op.chain op.core op.seq op.pc op.prio o op.kind op.n op.vals op.cells op.lanes op.nb op.hnd after ∧
        op.chain = s.sel.chain ∧ op.kind = p.2 ∧ op.lanes = s.sel.act ∧ op.n = (if f.ds then 1 else countLanes s.sel.act) ∧
        op.vals = (if p.2 = 0 then (if f.ds then [BitVec.ofNat 32 (c.readS f.data.toNat s.sel.t0)]
          else (lanesOf s.sel.act).map (fun l => BitVec.ofNat 32 (c.readG f.data.toNat l s.sel.t0))) else []) ∧
        op.cells = (if p.2 = 0 then [] else if f.ds then [.s f.data.toNat] else (lanesOf s.sel.act).map (fun l => .g f.data.toNat l)) ∧
        op.nb = (if f.nb then some f.pw.toNat else none)) ∧
      (f.nb = true → d.parked = c.parked ∧ MovesOn s c d) ∧
      (f.nb = false → d.parked = c.parked ++ [{ lanes := s.sel.act, why := .queue s.sel.seq, pc := s.sel.pc, prio := s.sel.prio }] ∧
        ∀ l, l < 32 → s.sel.act.getLsbD l = true → ∀ x, ¬ Stands d l x)

/-- R181, R155, R246: ISYNC on a global range drops every sector of it from the core's L1 but those that hold bytes of an open
publication, and from what the core has fetched, and the chain issues again no sooner than 2 cycles later. -/
def Obligations.Isync : Prop :=
  ∀ (h : Hdr) (f : F2) (s : State) (c : Chain) (p : Ptr), Issues s c → p = Ptr.ofBits (c.readK f.ptr.toNat s.sel.t0) →
    globalCheck s f.ptr.toNat p false = none →
    ∃ t d, exec (.isync h f) s = .next t ∧ t.chain? s.sel.chain = some d ∧
      d = { c with frontier := d.frontier, elig := d.elig, lastIssue := d.lastIssue, waiting := d.waiting } ∧ MovesOn s c d ∧
      s.sel.t0 + max 2 h.stall.toNat ≤ d.elig ∧
      (∀ key, keyIn (tagFor s c.ctx p.base) p.base p.len key = true →
        (∀ cp, Tab.find (t.coreAt s.selCore).l1 key = some cp → cp.umask ≠ 0) ∧ Tab.find (t.coreAt s.selCore).fbuf key = none)


/-! ## Pointers -/

namespace Sys2Proof.Machine

/-- The pointer that an instruction makes, before its validity is judged; none where its operands fit no pointer. -/
def pointerTable : List ((Hdr → F0 → Instr) × (State → Chain → F0 → Option Ptr)) :=
  [(.pmake, fun s c f =>
      let base := sVal c true f.a.toNat s.sel.t0
      let len := sVal c true f.b.toNat s.sel.t0
      let ty := c.readS f.c.toNat s.sel.t0
      let at_ (own given : Nat) : Nat := if f.sub.getLsbD 0 then own else given
      if base < 2 ^ 57 ∧ len < 2 ^ 40 ∧ ty / 2 ^ 5 % 2 ^ 5 = 0 then
        some { ver := 1, res := 0, base, len, cv := ty.testBit 18, space := ty / 2 ^ 15 % 8, scope := ty / 2 ^ 12 % 8,
               share := ty / 2 ^ 10 % 4, fmt := ty % 32, hdie := at_ (vdieOf s c.ctx s.selCore) (ty / 2 ^ 25),
               hclu := at_ (s.selCore / 8 % 8) (ty / 2 ^ 22 % 8), hcore := at_ (s.selCore % 8) (ty / 2 ^ 19 % 8) }
      else none),
   (.pnarrow, fun s c f =>
      let p := Ptr.ofBits (c.readK f.a.toNat s.sel.t0)
      let sc := f.sub.toNat % 8
      if sc ≤ p.scope ∧ sc ≤ 4 then
        some { p with scope := sc, hdie := vdieOf s c.ctx s.selCore, hclu := s.selCore / 8 % 8, hcore := s.selCore % 8 }
      else none),
   (.pslice, fun s c f =>
      let p := Ptr.ofBits (c.readK f.a.toNat s.sel.t0)
      let o := sVal c true f.b.toNat s.sel.t0
      let l := sVal c true f.c.toNat s.sel.t0
      if p.valid ∧ o + l ≤ p.len then some { p with base := (p.base + o) % 2 ^ 57, len := l } else none),
   (.ptype, fun s c f =>
      let p := Ptr.ofBits (c.readK f.a.toNat s.sel.t0)
      if f.sub.toNat % 32 < 16 then some { p with fmt := f.sub.toNat % 32, share := if f.sub.getLsbD 5 then 1 else p.share } else none)]

end Sys2Proof.Machine

/-- R216, R217, R219, R222, R223: PMAKE, PNARROW, PSLICE and PTYPE write to k(D) the pointer of their operands if it is valid,
else 0. -/
def Obligations.PointerResults : Prop :=
  ∀ p ∈ pointerTable, ∀ (h : Hdr) (f : F0) (s : State) (c : Chain), s.chain? s.sel.chain = some c →
    NoLater c (.k f.d.toNat) (s.sel.t0 + 2) →
    ∃ t, exec (p.1 h f) s = .next t ∧ RegFrame s t h 1 [.k f.d.toNat] 0 0 ∧
      ∀ n, s.sel.t0 + 2 ≤ n → t.selChain.readK f.d.toNat n = (match p.2 s c f with
        | some q => if q.valid then q.toBits else 0
        | none => 0)

/-- R224, R225: PGET writes BASE or LEN to a pair of s registers, or the type word to one; PCHK writes to p(D) of every active
lane whether an access through the pointer at element s(B) would pass checks 1 to 5. -/
def Sys2Proof.Machine.PointerQueries : Prop :=
  ∀ (h : Hdr) (f : F0) (s : State) (c : Chain) (p : Ptr), s.chain? s.sel.chain = some c → p = Ptr.ofBits (c.readK f.a.toNat s.sel.t0) →
    (WellFormed (.pget h f) → SFree c (decide (f.sub.toNat ≤ 1)) f.d.toNat (s.sel.t0 + 2) →
      ∃ t, exec (.pget h f) s = .next t ∧ RegFrame s t h 1 (sCells (decide (f.sub.toNat ≤ 1)) f.d.toNat) 0 0 ∧
        ∀ n, s.sel.t0 + 2 ≤ n → sVal t.selChain (decide (f.sub.toNat ≤ 1)) f.d.toNat n =
          if f.sub = 0 then p.base else if f.sub = 1 then p.len
          else p.hdie * 2 ^ 25 + p.hclu * 2 ^ 22 + p.hcore * 2 ^ 19 + p.cv.toNat * 2 ^ 18 + p.space * 2 ^ 15 + p.scope * 2 ^ 12 +
            p.share * 2 ^ 10 + p.fmt) ∧
    ((∀ l ∈ lanesOf s.sel.act, NoLater c (.p f.d.toNat l) (s.sel.t0 + 2)) →
      ∃ t, exec (.pchk h f) s = .next t ∧ RegFrame s t h 1 (pCells s f.d.toNat) 0 0 ∧
        ∀ l ∈ lanesOf s.sel.act, ∀ n, s.sel.t0 + 2 ≤ n → t.selChain.readP f.d.toNat l n = (f.d == 7 ||
          pchkAns s p (f.sub.toNat % 4) (f.sub.getLsbD 2) ((BitVec.ofNat 32 (c.readS f.b.toNat s.sel.t0)).toInt)))

/-- R220, R221, R142: PWIDEN to a narrower scope, or to a pointer that is not valid, writes 0; else, once the chain's earlier
accesses of the range allow it and nothing of the range is dirty below the new scope, it writes the pointer with the new scope
and share, after its sweep of the range, and a monument follows. -/
def Sys2Proof.Machine.PointerWiden : Prop :=
  ∀ (h : Hdr) (f : F0) (s : State) (c : Chain) (p q : Ptr), Issues s c → p = Ptr.ofBits (c.readK f.a.toNat s.sel.t0) →
    q = { p with scope := f.sub.toNat % 8, share := f.sub.toNat / 8 % 4 } → NoLater c (.k f.d.toNat) (s.sel.t0 + 2) →
    (f.sub.toNat % 8 < p.scope ∨ q.valid = false →
      ∃ t, exec (.pwiden h f) s = .next t ∧ RegFrame s t h 1 [.k f.d.toNat] 0 0 ∧
        ∀ n, s.sel.t0 + 2 ≤ n → t.selChain.readK f.d.toNat n = 0) ∧
    (p.scope ≤ f.sub.toNat % 8 → q.valid = true → c.outs = [] → c.writes = [] →
      (isGlobal p.space = true → widenKeys s s.selCore (tagFor s c.ctx p.base) p.base p.len (f.sub.toNat % 8) = []) →
      ∃ t d lat, exec (.pwiden h f) s = .next t ∧ t.chain? s.sel.chain = some d ∧ MovesOn s c d ∧ NewMonument s t c.ctx ∧
        d = { c with pend := d.pend, frontier := d.frontier, elig := d.elig, lastIssue := d.lastIssue, waiting := d.waiting } ∧
        Accounted s d h.stall.toNat 1 ∧
        lat = (if isGlobal p.space then
          max (min (linesOf p.base p.len).length 256) (if f.sub.toNat % 8 < 2 then 0 else ceilDiv (min (linesOf p.base p.len).length 8192) 8) + 2 else 2) ∧
        (∀ n, s.sel.t0 + lat ≤ n → t.selChain.readK f.d.toNat n = q.toBits) ∧
        (∀ cell, cell ≠ .k f.d.toNat → ∀ n, d.readAt cell n = c.readAt cell n) ∧ (∀ a, byteAt t a = byteAt s a) ∧
        ∀ j, j ≠ s.sel.chain → t.chain? j = s.chain? j)


/-- R142, R220, R221, R224, R225: PGET, PCHK and PWIDEN. -/
def Obligations.PointerInstructions : Prop := PointerQueries ∧ PointerWiden

/-! ## Loads, stores and atomics -/

namespace Sys2Proof.Machine

/-- The two load and store forms: load, store, the units of a lane, what R227, R228, R233 or R268 make illegal, and what R233
asks of the layout word. -/
def accessTable : List ((Hdr → F2 → Instr) × (Hdr → F2 → Instr) × (State → F2 → Ptr → Nat → List RawUnit) × (State → F2 → Ptr → Bool) ×
    (State → F2 → Ptr → Bool)) :=
  [(.ld, .st, lsUnits, fun _ f p => noForm p f, fun _ _ _ => true),
   (.ldx, .stx, lxUnits, lxIll, fun s f p => (layoutOf s f.lane.toNat).res = 0 && (layoutOf s f.lane.toNat).space = p.space)]

/-- An element that does not stand where a load, or a store, of a BS block must. -/
def misplaced (p : Ptr) (write : Bool) (sub : Nat) : Option Bool :=
  if Fmt.isBS p.fmt then some (if write then decide (sub ≠ 0) else decide (sub % 8 ≠ 0)) else none

/-- Every lane of an access passes the checks of R116. -/
def Passes (s : State) (f : F2) (p : Ptr) (ill write : Bool) (units : Nat → List RawUnit) : Prop :=
  ∀ l ∈ accLanes s f, laneCause s f.ptr.toNat p ill write (decide (p.share = 2)) (misplaced p write) (units l) = none

/-- The issue cycles of an access (R226). -/
def accCycles (s : State) (f : F2) : Nat := if f.udata then 1 else groupsOf s.sel.pack

/-- An address of a space as the core's memory is numbered: accumulator memory by its physical slot (R319). -/
def physOf (c : Chain) (p : Ptr) (a : Nat) : Nat := if p.space = 3 then (accAddr c a).getD 0 else a

/-- A unit of a load with the bytes it has read. -/
def readUnit (f : F2) (p : Ptr) (lane : Nat) (u : RawUnit) (data : Nat) : LUnit :=
  { lane, cells := u.cells, fmt := p.fmt, dw := f.dw, va := u.a.toNat, size := u.size, sub := u.sub, data, keys := [] }

/-- Nothing of the chain, or of the primary that holds its writes (R188), is on its way. -/
def Settled (s : State) (c : Chain) : Prop :=
  c.outs = [] ∧ c.writes = [] ∧ ∀ x, s.chain? (primaryOf s s.sel.chain) = some x → x.writes = []

/-- The sectors that an access touches, each once, in the order its lanes reach them. -/
def sectorsOf (s : State) (f : F2) (p : Ptr) (units : Nat → List RawUnit) : List Nat :=
  ((accLanes s f).flatMap (fun l => (units l).flatMap (fun u => (unitKeys s s.selChain.ctx p u.a.toNat u.size).map (·.1)))).eraseDups

/-- Neither the core's L1 nor its cluster cache holds a sector, and both are of one epoch; the side log holds no store of the
chain to it. -/
def Uncached (s : State) (key : Nat) : Prop :=
  l1Find s s.selCore key = none ∧ l2Find s (clusterOf s.selCore) key = none ∧ cluOk s s.selCore = true ∧
    loggedStores s s.sel.chain s.sel.seq key = []

end Sys2Proof.Machine

/-- R226, R227, R228, R231, R233, R115, R319: LD and LDX of a typed buffer, accumulator memory or cluster-shared space, when
every lane passes its checks and no line is absent, write what the bytes at each unit's address convert to to the unit's
registers, 6 cycles (24 for cluster-shared space) after the last issue cycle. -/
def Sys2Proof.Machine.LocalLoads : Prop :=
  ∀ x ∈ accessTable, ∀ (h : Hdr) (f : F2) (s : State) (c : Chain) (p : Ptr) (land : Nat), Issues s c → s.sel.act ≠ 0 →
    p = Ptr.ofBits (c.readK f.ptr.toNat s.sel.t0) → 1 ≤ p.space → p.space ≤ 4 → x.2.2.2.2 s f p = true →
    Passes s f p (x.2.2.2.1 s f p) false (x.2.2.1 s f p) → acquireOpen c = false →
    (∀ l ∈ accLanes s f, ∀ u ∈ x.2.2.1 s f p l, localOpen s s.sel.chain p.space u.a.toNat u.size = false) →
    (∀ l ∈ accLanes s f, anyAbsent s p (x.2.2.1 s f p l) = false) → land = lastIssue s f + (if p.space = 4 then 24 else 6) →
    (∀ l ∈ accLanes s f, ∀ u ∈ x.2.2.1 s f p l, ∀ cell ∈ u.cells, NoLater c cell land) →
    ∃ t fl, exec (x.1 h f) s = .next t ∧
      RegFrame s t h (accCycles s f) ((accLanes s f).flatMap (fun l => (x.2.2.1 s f p l).flatMap (·.cells))) fl land ∧
      fl = orFlags ((accLanes s f).flatMap (fun l => (x.2.2.1 s f p l).map (fun u =>
        (unitRegs (readUnit f p l u (partsRead s c s.selCore p.space u.a.toNat u.size))).2))) ∧
      ∀ l ∈ accLanes s f, ∀ u ∈ x.2.2.1 s f p l,
        ∀ w ∈ (unitRegs (readUnit f p l u (partsRead s c s.selCore p.space u.a.toNat u.size))).1,
          ∀ n, land ≤ n → t.selChain.readAt w.1 n = w.2

/-- R125, R231, R68: LD and LDX of global, tensor-view or peer memory, and XHDR.rd through the compressed view, send one read of
every sector that no cache below the home holds; the registers await the answers, as later accesses of an acquire do, and the
chain goes on. -/
def Obligations.HomeLoads : Prop :=
  (∀ x ∈ accessTable, ∀ (h : Hdr) (f : F2) (s : State) (c : Chain) (p : Ptr), Issues s c → s.sel.act ≠ 0 →
    p = Ptr.ofBits (c.readK f.ptr.toNat s.sel.t0) → (p.space = 0 ∨ p.space = 5 ∨ p.space = 6) → x.2.2.2.2 s f p = true →
    Passes s f p (x.2.2.2.1 s f p) false (x.2.2.1 s f p) → acquireOpen c = false → (p.share = 2 → 2 ≤ p.scope) →
    (∀ key ∈ sectorsOf s f p (x.2.2.1 s f p), Uncached s key ∧ sectorOpen s s.sel.chain key = false) →
    ∃ t d o, exec (x.1 h f) s = .next t ∧ t.chain? s.sel.chain = some d ∧ MovesOn s c d ∧
      t = { s with nextId := t.nextId, msgs := t.msgs, chains := t.chains, cores := t.cores } ∧
      (∀ j, j ≠ s.sel.chain → t.chain? j = s.chain? j) ∧
      Accounted s d h.stall.toNat (accCycles s f) ∧ (∀ cell n, d.readAt cell n = c.readAt cell n) ∧
      d.outs = c.outs ++ [o] ∧ o.load = true ∧ o.acq = decide (p.share = 2) ∧ o.seq = s.sel.seq ∧
      o.cells = (accLanes s f).flatMap (fun l => (x.2.2.1 s f p l).flatMap (·.cells)) ∧
      t.msgs.map (fun m => (m.cls, m.src, m.dst, m.body)) = s.msgs.map (fun m => (m.cls, m.src, m.dst, m.body)) ++
        (sectorsOf s f p (x.2.2.1 s f p)).map (fun key => (if p.share = 2 then 4 else 0, siteOf s.selCore, homeOfKey s key,
          Body.read (accOf s p f.nt) s.sel.chain s.sel.seq s.sel.pc key (s.coreAt s.selCore).lclk (s.ctxAt c.ctx).lease))) ∧
  (∀ (h : Hdr) (f : F4) (s : State) (c : Chain) (p : Ptr), Issues s c → s.sel.act ≠ 0 → p = Ptr.ofBits (c.readK f.pb.toNat s.sel.t0) →
    compCheck s f.pb.toNat p 32 = none → easeBusy (s.coreAt s.selCore) (rngOf s c.ctx p p.base 32) [] = false →
    acquireOpen c = false → (p.share = 2 → 2 ≤ p.scope) → Uncached s (keyFor s c.ctx p.base) →
    sectorOpen s s.sel.chain (keyFor s c.ctx p.base) = false →
    ∃ t d o, exec (.xhdrRd h f) s = .next t ∧ t.chain? s.sel.chain = some d ∧ MovesOn s c d ∧ Accounted s d h.stall.toNat 1 ∧
      (∀ cell n, d.readAt cell n = c.readAt cell n) ∧ d.outs = c.outs ++ [o] ∧ o.load = true ∧
      o.cells = (List.range 8).map (fun i => .s (f.sop.toNat + i)) ∧
      t.msgs.map (·.body) = s.msgs.map (·.body) ++ [.read (accOf s p false) s.sel.chain s.sel.seq s.sel.pc (keyFor s c.ctx p.base)
        (s.coreAt s.selCore).lclk (s.ctxAt c.ctx).lease])

/-- R234, R235, R231: LDPRS writes to four g registers of every active lane the status, wts and rts of the nearest copy of the
sector its element lies in, and LCLK; outside cached memory all but LCLK are 0. It moves no clock and takes no lease. -/
def Obligations.PresenceLoads : Prop :=
  ∀ (h : Hdr) (f : F2) (s : State) (c : Chain) (p : Ptr), Issues s c → p = Ptr.ofBits (c.readK f.ptr.toNat s.sel.t0) →
    p.valid = true → acquireOpen c = false →
    (∀ l ∈ lanesOf s.sel.act, unitCheck s c s.selCore p false (decide (p.share = 2)) (misplaced p false (unitAt p false (elemIndex s f f.off.toNat 20 l) 0).2.2)
      (unitAt p false (elemIndex s f f.off.toNat 20 l) 0).1 (unitAt p false (elemIndex s f f.off.toNat 20 l) 0).2.1 = none) →
    (∀ l ∈ lanesOf s.sel.act, ∀ i, i < 4 → NoLater c (.g (f.data.toNat + i) l) (lastGroup s + 6)) →
    ∃ t, exec (.ldprs h f) s = .next t ∧
      RegFrame s t h (groupsOf s.sel.pack) ((lanesOf s.sel.act).flatMap (fun l => (List.range 4).map (fun i => .g (f.data.toNat + i) l))) 0 0 ∧
      ∀ l ∈ lanesOf s.sel.act, ∀ st w r lat, (st, w, r, lat) = (if p.space = 0 ∨ p.space = 5 ∨ p.space = 6
          then probe s c.ctx s.selCore p (accKey s c.ctx p (unitAt p false (elemIndex s f f.off.toNat 20 l) 0).1.toNat)
          else (0, 0, 0, if p.space = 4 then 24 else 6)) → ∀ n, lastGroup s + lat ≤ n →
        t.selChain.readAt (.g f.data.toNat l) n = st ∧ t.selChain.readAt (.g (f.data.toNat + 1) l) n = w ∧
        t.selChain.readAt (.g (f.data.toNat + 2) l) n = r ∧ t.selChain.readAt (.g (f.data.toNat + 3) l) n = lclkReg (s.coreAt s.selCore)

namespace Sys2Proof.Machine

/-- The units that a store's active lanes write, in lane order: of a BS format those of the even lanes (R228). -/
def storeUnits (s : State) (f : F2) (p : Ptr) (units : Nat → List RawUnit) : List (Nat × RawUnit) :=
  ((accLanes s f).filter (fun l => !(Fmt.isBS p.fmt && l % 2 = 1))).flatMap (fun l => (units l).map (fun u => (l, u)))

/-- Every lane that stores passes the checks of R116. -/
def StorePasses (s : State) (f : F2) (p : Ptr) (ill : Bool) (units : Nat → List RawUnit) : Prop :=
  p.valid = true ∧ ill = false ∧ storeUnits s f p units ≠ [] ∧ ∀ x ∈ storeUnits s f p units,
    laneCause s f.ptr.toNat p ill true (decide (p.share = 2)) (misplaced p true) (units x.1) = none

/-- A unit's bytes go where they stand: a block in accumulator memory may lie in two slots (R319). -/
def putUnit (s : State) (c : Chain) (core : Nat) (p : Ptr) (u : RawUnit) (v : Nat) : State :=
  (localParts c p.space u.a.toNat u.size).foldl (fun s x => localWrite s core p.space x.1 x.2.1 (v / 2 ^ (8 * x.2.2))) s

/-- The registers of a chain are as they were, FPST gaining flags at a cycle; its lanes move on. -/
def OnlyFlags (s : State) (c d : Chain) (h : Hdr) (n : Nat) (fl : Flags) (land : Nat) : Prop :=
  Accounted s d h.stall.toNat n ∧ MovesOn s c d ∧ d.parked = c.parked ∧ d.live = c.live ∧
    (∀ cell, cell ≠ .fpst → ∀ k, d.readAt cell k = c.readAt cell k) ∧
    ∀ k, fpstAt d k = fpstAt c k ||| (if land < k then fl.setWidth 32 else 0)

end Sys2Proof.Machine

/-- R226, R227, R228, R229, R233: ST and STX to a typed buffer, accumulator memory or cluster-shared space write each lane's
value at the unit's address in lane order, so that a later lane's bytes remain; no other byte of any space changes. -/
def Sys2Proof.Machine.LocalStores : Prop :=
  ∀ x ∈ accessTable, ∀ (h : Hdr) (f : F2) (s : State) (c : Chain) (p : Ptr), Issues s c → s.sel.act ≠ 0 →
    p = Ptr.ofBits (c.readK f.ptr.toNat s.sel.t0) → 1 ≤ p.space → p.space ≤ 4 → x.2.2.2.2 s f p = true →
    StorePasses s f p (x.2.2.2.1 s f p) (x.2.2.1 s f p) → Settled s c →
    anyAbsent s p ((storeUnits s f p (x.2.2.1 s f p)).map (·.2)) = false →
    ∃ t d u fl, exec (x.2.1 h f) s = .next t ∧ t.chain? s.sel.chain = some d ∧
      OnlyFlags s c d h (accCycles s f) fl (lastIssue s f + 4) ∧ (p.share = 2 → NewMonument s t c.ctx) ∧
      fl = orFlags ((storeUnits s f p (x.2.2.1 s f p)).map (fun y => (storeVal s f p y.1 y.2).2)) ∧
      t = { s with chains := t.chains, cores := t.cores, clusters := t.clusters } ∧
      (∀ j, j ≠ s.sel.chain → t.chain? j = s.chain? j) ∧ (∀ a, byteAt t a = byteAt s a) ∧
      u = (storeUnits s f p (x.2.2.1 s f p)).foldl (fun s1 y =>
        putUnit s1 c s.selCore p y.2 (storeVal s f p y.1 y.2).1) s ∧
      (∀ space a, localRead t s.selCore space a 1 = localRead u s.selCore space a 1) ∧
      ∀ a, (∀ y ∈ storeUnits s f p (x.2.2.1 s f p), ∀ i, i < y.2.size → a ≠ physOf c p (y.2.a.toNat + i)) →
        localRead t s.selCore p.space a 1 = localRead s s.selCore p.space a 1

/-- R126, R133, R230, R135: ST and STX of global, tensor-view or peer memory whose bytes no cache below the home, publication or
side log takes send one store per sector to its home, with the bytes of every lane in it, a later lane's remaining; the writes
are outstanding and the chain goes on. -/
def Obligations.HomeStores : Prop :=
  ∀ x ∈ accessTable, ∀ (h : Hdr) (f : F2) (s : State) (c : Chain) (p : Ptr) (bs : List SecBytes), Issues s c → s.sel.act ≠ 0 →
    p = Ptr.ofBits (c.readK f.ptr.toNat s.sel.t0) → (p.space = 0 ∨ p.space = 5 ∨ p.space = 6) → x.2.2.2.2 s f p = true →
    StorePasses s f p (x.2.2.2.1 s f p) (x.2.2.1 s f p) → acquireOpen c = false → (f.nt = false → p.space = 0 → 2 ≤ p.scope) →
    (s.coreAt s.selCore).regions = [] → (s.coreAt s.selCore).side = [] →
    bs = gatherBytes s c.ctx p ((storeUnits s f p (x.2.2.1 s f p)).map (fun y => (y.1, y.2.a.toNat, y.2.size, (storeVal s f p y.1 y.2).1))) →
    (∀ b ∈ bs, Uncached s b.key ∧ b.mask ≠ 0) →
    ∃ t d fl, exec (x.2.1 h f) s = .next t ∧ t.chain? s.sel.chain = some d ∧
      OnlyFlags s c d h (accCycles s f) fl (lastIssue s f + 4) ∧ (p.share = 2 → NewMonument s t c.ctx) ∧
      fl = orFlags ((storeUnits s f p (x.2.2.1 s f p)).map (fun y => (storeVal s f p y.1 y.2).2)) ∧
      t = { s with nextId := t.nextId, msgs := t.msgs, chains := t.chains, cores := t.cores } ∧
      (∀ j, j ≠ s.sel.chain → t.chain? j = s.chain? j) ∧
      (d.writes.drop c.writes.length).map (fun w => (w.seq, w.scope, w.key)) = bs.map (fun b => (s.sel.seq, p.scope, b.key)) ∧
      (t.msgs.drop s.msgs.length).map (fun m => (m.dst, match m.body with
          | .store acc ch seq pc key _ data mask vas clk _ => some (acc, ch, seq, pc, key, data, mask, vas, clk)
          | _ => none)) =
        bs.map (fun b => (homeOfKey s b.key,
          some (accOf s p f.nt, s.sel.chain, s.sel.seq, s.sel.pc, b.key, b.data, b.mask, b.vas, (s.coreAt s.selCore).lclk)))

namespace Sys2Proof.Machine

/-- The atomic instructions: whether it returns nothing, its operation, and what each lane brings to it (R236 to R240). -/
def atomTable : List ((Hdr → F2 → Instr) × Bool × (F2 → Nat) × (State → F2 → Ptr → Nat → AtomOp)) :=
  [(.atom, false, aopOf, fun s f p l => { op := aopOf f, fmt := p.fmt, dw := f.dw, x := cellsVal s (dataCells f l 0), cmp := 0 }),
   (.acas, false, fun _ => 7, fun s f p l =>
     { op := 7, fmt := p.fmt, dw := f.dw, x := cellsVal s (dataCells f l 1), cmp := cellsVal s (dataCells f l 0) }),
   (.amred, true, aopOf, fun s f p l => { op := aopOf f, fmt := p.fmt, dw := f.dw, x := cellsVal s (dataCells f l 0), cmp := 0 })]

/-- The unit of an atomic's lane. -/
def atomUnit (s : State) (f : F2) (p : Ptr) (l : Nat) : RawUnit :=
  let x := unitAt p f.dw (elemIndex s f f.off.toNat 12 l) 0
  { a := x.1, size := x.2.1, sub := 0, cells := dataCells f l 0 }

/-- What the lanes of an atomic ask for, in lane order. -/
def atomJobs (s : State) (f : F2) (p : Ptr) (red : Bool) (op : Nat → AtomOp) : List Job :=
  (accLanes s f).map (fun l =>
    { lane := l, va := (atomUnit s f p l).a.toNat, op := op l, cells := if red then [] else (atomUnit s f p l).cells,
      vas := if l = 32 then (lanesOf s.sel.act).map (fun i => (i, (atomUnit s f p l).a.toNat)) else [(l, (atomUnit s f p l).a.toNat)] })

/-- Those of AMRED without .sc combined by unit first (R240). -/
def atomParts (f : F2) (red : Bool) (js : List Job) : List Job := if red ∧ ordOf f ≠ 1 then aggregate js else js

/-- Every lane passes the checks of R116 as an atomic. -/
def AtomPasses (s : State) (f : F2) (p : Ptr) (op : Nat) : Prop :=
  ∀ l ∈ accLanes s f, laneCause s f.ptr.toNat p (atomIll s f op) true true (fun _ => none) [atomUnit s f p l] = none

/-- Jobs performed one after another on a core's own memory: the memory after them, and each one's old value and flags. -/
def inTurn (core : Nat) (c : Chain) (p : Ptr) : List Job → State → State × List (Nat × Flags)
  | [], s => (s, [])
  | j :: r, s =>
    let a := physOf c p j.va
    let old := localRead s core p.space a (Fmt.size j.op.fmt j.op.dw)
    let x := inTurn core c p r (localWrite s core p.space a (Fmt.size j.op.fmt j.op.dw) (applyAtom j.op old).1)
    (x.1, (old, (applyAtom j.op old).2) :: x.2)

end Sys2Proof.Machine

/-- R236, R237, R238, R239, R240, R242: ATOM, ACAS and AMRED on a typed buffer, accumulator memory or cluster-shared space
perform lane after lane in one turn; ATOM and ACAS write each lane's old value to its data registers, 10 cycles (28 for
cluster-shared space) after the last issue cycle and one more for each earlier lane. A monument follows. -/
def Sys2Proof.Machine.LocalAtomics : Prop :=
  ∀ x ∈ atomTable, ∀ (h : Hdr) (f : F2) (s : State) (c : Chain) (p : Ptr) (js : List Job), Issues s c → s.sel.act ≠ 0 →
    p = Ptr.ofBits (c.readK f.ptr.toNat s.sel.t0) → 1 ≤ p.space → p.space ≤ 4 → AtomPasses s f p (x.2.2.1 f) →
    Settled s c → (∀ l ∈ accLanes s f, anyAbsent s p [atomUnit s f p l] = false) →
    js = atomParts f x.2.1 (atomJobs s f p x.2.1 (x.2.2.2 s f p)) →
    (∀ j ∈ js, ∀ cell ∈ j.cells, NoLater c cell (lastIssue s f + 10)) →
    ∃ t d, exec (x.1 h f) s = .next t ∧ t.chain? s.sel.chain = some d ∧ Accounted s d h.stall.toNat (accCycles s f) ∧ MovesOn s c d ∧
      NewMonument s t c.ctx ∧ (∀ j, j ≠ s.sel.chain → t.chain? j = s.chain? j) ∧
      (∀ space a, localRead t s.selCore space a 1 = localRead (inTurn s.selCore c p js s).1 s.selCore space a 1) ∧
      (∀ i j old, js[i]? = some j → (inTurn s.selCore c p js s).2[i]? = some old → ∀ w ∈ (oldRegs j old.1).1,
        ∀ n, lastIssue s f + (if p.space = 4 then 28 else 10) + i ≤ n → d.readAt w.1 n = w.2) ∧
      (∀ cell, cell ∉ js.flatMap (·.cells) → cell ≠ .fpst → ∀ n, d.readAt cell n = c.readAt cell n)

/-- R115, R226 to R233, R236 to R242, R319: loads, stores and atomics of memory near the core. -/
def Obligations.LocalAccesses : Prop := LocalLoads ∧ LocalStores ∧ LocalAtomics

/-- R139, R140, R133, R241: ATOM, ACAS and AMRED at die scope or wider, on a tensor view or a peer window send each lane's (or each
combined) operation to the home of its sector, .sc ones by the meridian for their tickets; the writes are outstanding, results
await the old values, and the chain goes on. -/
def Obligations.HomeAtomics : Prop :=
  ∀ x ∈ atomTable, ∀ (h : Hdr) (f : F2) (s : State) (c : Chain) (p : Ptr) (js : List Job), Issues s c → s.sel.act ≠ 0 →
    p = Ptr.ofBits (c.readK f.ptr.toNat s.sel.t0) → (p.space = 5 ∨ p.space = 6 ∨ (p.space = 0 ∧ 2 ≤ p.scope)) →
    AtomPasses s f p (x.2.2.1 f) → c.outs = [] → c.writes = [] → (s.coreAt s.selCore).side = [] →
    js = atomParts f x.2.1 (atomJobs s f p x.2.1 (x.2.2.2 s f p)) → (∀ j ∈ js, Uncached s (accKey s c.ctx p j.va)) →
    ∃ t d, exec (x.1 h f) s = .next t ∧ t.chain? s.sel.chain = some d ∧ OnlyFlags s c d h (accCycles s f) 0 0 ∧
      t = { s with nextId := t.nextId, msgs := t.msgs, chains := t.chains, cores := t.cores } ∧
      (∀ j, j ≠ s.sel.chain → t.chain? j = s.chain? j) ∧
      d.writes.map (fun w => (w.seq, w.scope, w.key)) = js.map (fun j => (s.sel.seq, p.scope, accKey s c.ctx p j.va)) ∧
      d.outs.map (fun o => (o.seq, o.cells, o.acq)) =
        (if x.2.1 then (if ordOf f = 1 then [(s.sel.seq, [], true)] else []) else [(s.sel.seq, js.flatMap (·.cells), decide (ordOf f = 1) || decide (p.share = 2))]) ∧
      (t.msgs.drop s.msgs.length).map (fun m => (m.dst, match m.body with
          | .ticket site (.atom acc ch _ _ va _ lane _ op cells red clk _ _) => some (some site, acc, ch, va, lane, op, cells, red, clk)
          | .atom acc ch _ _ va _ lane _ op cells red clk _ _ => some (none, acc, ch, va, lane, op, cells, red, clk)
          | _ => none)) =
        js.map (fun j => (if ordOf f = 1 then 135 else homeOfKey s (accKey s c.ctx p j.va),
          some (if ordOf f = 1 then some (homeOfKey s (accKey s c.ctx p j.va)) else none, accOf s p false, s.sel.chain, j.va, j.lane, j.op,
            j.cells, x.2.1, (s.coreAt s.selCore).lclk)))

/-- R248, R244, R245, R144: LCADV moves LCLK to the larger of itself and its s operand, plus its step; PUBOPEN opens a region
over its range; PUBLISH of a region with nothing stored in it closes it and moves LCLK on by one, and of one with stored
sectors asks each sector's home for a freeze and holds the chain's later accesses. -/
def Obligations.ClocksAndPublication : Prop :=
  (∀ (h : Hdr) (f : F1) (s : State) (c : Chain) (v : Nat), Issues s c →
    v = max (s.coreAt s.selCore).lclk (if f.imm.getLsbD 8 then c.readS f.a.toNat s.sel.t0 % 2 ^ 24 else 0) + f.imm.toNat % 256 →
    v ≤ 0xFFFFFF → ∃ t d, exec (.lcadv h f) s = .next t ∧ t.chain? s.sel.chain = some d ∧ MovesOn s c d ∧
      (t.coreAt s.selCore) = { s.coreAt s.selCore with cc := s.sel.t0 + 1, seq := s.sel.seq + 1, lclk := v } ∧
      d = { c with frontier := d.frontier, elig := d.elig, lastIssue := d.lastIssue, waiting := d.waiting } ∧
      t = { s with chains := t.chains, cores := t.cores }) ∧
  (∀ (h : Hdr) (f : F2) (s : State) (c : Chain) (p : Ptr), Issues s c → p = Ptr.ofBits (c.readK f.ptr.toNat s.sel.t0) →
    pubCheck s f.ptr.toNat p = none → acquireOpen c = false →
    (p.space = 0 → (p.scope = 2 ∨ p.scope = 3) → 1 ≤ p.len → p.len ≤ 8192 → (s.coreAt s.selCore).regions.length ≤ 1 →
      (∀ g ∈ (s.coreAt s.selCore).regions, overlaps (tagFor s c.ctx p.base) p.base p.len g.tag g.lo g.len = false) →
      ∃ t d, exec (.pubopen h f) s = .next t ∧ t.chain? s.sel.chain = some d ∧ MovesOn s c d ∧
        d = { c with frontier := d.frontier, elig := d.elig, lastIssue := d.lastIssue, waiting := d.waiting } ∧
        (t.coreAt s.selCore).regions = (s.coreAt s.selCore).regions ++
          [{ id := s.nextId, ctx := c.ctx, tag := tagFor s c.ctx p.base, lo := p.base, len := p.len, chain := s.sel.chain }]) ∧
    (∀ g, loadsOpen c s.sel.seq = false →
      (s.coreAt s.selCore).regions.find? (fun g => decide (p.space = 0 ∧ g.tag = tagFor s c.ctx p.base ∧ g.lo = p.base ∧ g.len = p.len ∧ g.ctx = c.ctx) && g.pub.isNone) = some g →
      (regionKeys (s.coreAt s.selCore) g = [] → (s.coreAt s.selCore).lclk + 1 ≤ 0xFFFFFF →
        ∃ t d, exec (.publish h f) s = .next t ∧ t.chain? s.sel.chain = some d ∧ MovesOn s c d ∧ NewMonument s t c.ctx ∧
          (t.coreAt s.selCore).lclk = (s.coreAt s.selCore).lclk + 1 ∧
          (t.coreAt s.selCore).regions = (s.coreAt s.selCore).regions.filter (fun y => y.id ≠ g.id)) ∧
      (regionKeys (s.coreAt s.selCore) g ≠ [] →
        ∃ t d, exec (.publish h f) s = .next t ∧ t.chain? s.sel.chain = some d ∧ MovesOn s c d ∧ NewMonument s t c.ctx ∧
          (t.coreAt s.selCore).lclk = (s.coreAt s.selCore).lclk ∧ d.outs.any (·.acq) = true ∧
          (t.msgs.drop s.msgs.length).map (fun m => (m.dst, m.body)) = (regionKeys (s.coreAt s.selCore) g).map (fun key =>
            (homeOfKey s key, .freeze s.selCore g.id key)))))


/-! ## Engines -/

namespace Sys2Proof.Machine

/-- The engine instructions that become commands, but the matrix engine's, with what each asks for. -/
def offerTable : List ((Hdr → F4 → Instr) × (Hdr → F4 → State → Offer)) :=
  [(.cpy, cpyOffer), (.cpyx, cpyxOffer), (.cpyw, cpywOffer), (.cpyg, cpygOffer),
   (.xhdrXp, xhdrXpOffer), (.xhdrChk, xhdrChkOffer), (.xhdrAdopt, xhdrAdoptOffer), (.xexp, xexpOffer), (.xcmp, xcmpOffer), (.xdec, xdecOffer),
   (.hclr, hclrOffer), (.hacc, haccOffer), (.hpct, hpctOffer), (.sfold, sfoldOffer), (.qnt, qntOffer), (.dqnt, dqntOffer),
   (.tbind, tbindOffer), (.tfree, tfreeOffer), (.tnear, tnearOffer), (.thalo, thaloOffer),
   (.tdropWb, fun h f s => dropOffer f s (.tdropWb h f)), (.tdropDiscard, fun h f s => dropOffer f s (.tdropDiscard h f)),
   (.twrb, fun h f s => dropOffer f s (.twrb h f))]

/-- The easements of an offer (R149): its destinations, then its sources. -/
def offerEases (o : Offer) : List Ease :=
  o.dsts.map (fun r => { id := o.cmd.id, tag := r.tag, space := r.space, lo := r.lo, hi := r.hi, dst := true }) ++
    o.srcs.map (fun r => { id := o.cmd.id, tag := r.tag, space := r.space, lo := r.lo, hi := r.hi, dst := false })

/-- A command has been accepted: it is last in its engine's queue with the operands it held at issue and the core's clock as its
read time (R148); its easements are registered (R149); the typed-buffer lines it writes are absent (R257); a monument is open
(R152); the issuing lanes have moved on, and no register, other chain, other core, byte of HBM or queue has changed. -/
structure Accepted (s t : State) (h : Hdr) (c d : Chain) (i : Instr) (o : Offer) : Prop where
  rest : t = { s with nextId := s.nextId + 1, chains := t.chains, cores := t.cores, clusters := t.clusters, tensors := t.tensors }
  issuing : t.chain? s.sel.chain = some d
  issue : Accounted s d h.stall.toNat 1 ∧ MovesOn s c d ∧ NewMonument s t c.ctx ∧ d.parked = c.parked ∧ d.live = c.live
  regs : ∀ cell n, d.readAt cell n = c.readAt cell n
  chains : ∀ j, j ≠ s.sel.chain → t.chain? j = s.chain? j
  cores : ∀ k, k ≠ s.selCore → t.coreAt k = s.coreAt k
  queue : engQueue t o.cmd.eng s.selCore = engQueue s o.cmd.eng s.selCore ++ [o.cmd]
  queues : ∀ e, e ≠ o.cmd.eng → ∀ k, engQueue t e k = engQueue s e k
  cmd : o.cmd.ins = i ∧ o.cmd.chain = s.sel.chain ∧ o.cmd.seq = s.sel.seq ∧ o.cmd.readTime = (s.coreAt s.selCore).lclk ∧
    o.cmd.id = s.nextId ∧ o.cmd.stopped = none ∧ o.cmd.next = 0
  eases : (t.coreAt s.selCore).ease = (s.coreAt s.selCore).ease ++ offerEases o
  gone : o.clear = true → ∀ r ∈ o.dsts, (r.space = 1 ∨ r.space = 2) → ∀ a, r.lo ≤ a → a ≤ r.hi → (∀ ls, o.touch = some ls → a / 256 ∈ ls) → absent (t.coreAt s.selCore) r.space a = true
  bytes : (∀ a, byteAt t a = byteAt s a) ∧ ∀ space a, localRead t s.selCore space a 1 = localRead s s.selCore space a 1

end Sys2Proof.Machine

/-- R148, R149, R255, R283, R343, R374, R257, R152: an engine instruction whose checks pass, with its ordering met, room in its
queue and no easement against it, is accepted as a command; one whose checks fail takes the first failing check's trap; else it
waits. A copy of nothing completes at once (R264). -/
def Sys2Proof.Machine.CommandsAccepted : Prop :=
  ∀ p ∈ offerTable, ∀ (h : Hdr) (f : F4) (s : State) (c : Chain) (o : Offer), Issues s c → o = p.2 h f s →
    (o.fault = none → offerReady s o = true → (o.cmd.eng = .copy → o.cmd.len ≠ 0) →
      ∃ t d, exec (p.1 h f) s = .next t ∧ Accepted s t h c d (p.1 h f) o) ∧
    (∀ cause tval, o.fault = some (cause, tval) → exec (p.1 h f) s = .next (trapIssue s h cause tval)) ∧
    (o.fault = none → offerReady s o = false → (o.cmd.eng = .copy → o.cmd.len ≠ 0) → exec (p.1 h f) s = .next (offerWait s o)) ∧
    (o.fault = none → o.cmd.eng = .copy → o.cmd.len = 0 → o.held = false → ordered c o.scope = true →
      (s.coreAt s.selCore).copyq.length < 8 →
      ∃ t d, exec (p.1 h f) s = .next t ∧ t.chain? s.sel.chain = some d ∧ MovesOn s c d ∧ NewMonument s t c.ctx ∧
        d.grp .copy o.cmd.grp = { c.grp .copy o.cmd.grp with ncmd := (c.grp .copy o.cmd.grp).ncmd + 1 } ∧
        (t.coreAt s.selCore).copyq = (s.coreAt s.selCore).copyq ∧ ∀ a, byteAt t a = byteAt s a)

/-- R372, R375, R376, R346: an accepted TBIND leaves its handle binding with its descriptor, TFREE leaves it freeing, the other
tensor commands leave it as it was; an accepted HPCT leaves its two s registers awaiting its result. -/
def Sys2Proof.Machine.CommandEffectsAtIssue : Prop :=
  ∀ (h : Hdr) (f : F4) (s : State) (c : Chain), Issues s c →
    ((tbindOffer h f s).fault = none → offerReady s (tbindOffer h f s) = true → ∃ t, exec (.tbind h f) s = .next t ∧
      ∀ o, tensorAt t o = if o = tensorObj s f then { tensorAt s o with st := 1, desc := (bindWords f s).1, tid := 0 } else tensorAt s o) ∧
    ((tfreeOffer h f s).fault = none → offerReady s (tfreeOffer h f s) = true → ∃ t, exec (.tfree h f) s = .next t ∧
      ∀ o, tensorAt t o = if o = tensorObj s f then { tensorAt s o with st := 3 } else tensorAt s o) ∧
    (∀ p ∈ offerTable.drop 18, (p.2 h f s).fault = none → offerReady s (p.2 h f s) = true → ∃ t, exec (p.1 h f) s = .next t ∧
      ∀ o, tensorAt t o = tensorAt s o) ∧
    ((hpctOffer h f s).fault = none → offerReady s (hpctOffer h f s) = true → ∃ t d x, exec (.hpct h f) s = .next t ∧
      t.chain? s.sel.chain = some d ∧ d.outs = c.outs ++ [x] ∧ x.seq = s.sel.seq ∧ x.cells = [.s f.sop.toNat, .s (f.sop.toNat + 1)])

/-- R148, R149, R152, R255, R257, R283, R343, R346, R372, R374, R375, R376: engine instructions become commands, with the effects at issue of those that have some. -/
def Obligations.EngineCommands : Prop := CommandsAccepted ∧ CommandEffectsAtIssue

namespace Sys2Proof.Machine

/-- The matrix instructions but AREL: the accumulators each names, and what it asks for. -/
def matrixTable : List ((Hdr → F4 → Instr) × (Hdr → F4 → State → List Nat × Offer)) :=
  [(.mma, fun h f s => ([matAcc f], mmaOffer f s (.mma h f) false)), (.mmac, fun h f s => ([matAcc f], mmaOffer f s (.mmac h f) true)),
   (.aread, fun h f s => ([matAcc f], moveOffer f s (.aread h f) true)), (.awrite, fun h f s => ([matAcc f], moveOffer f s (.awrite h f) false)),
   (.azero, fun h f s => (azeroAccs f, azeroOffer h f s))]

end Sys2Proof.Machine

/-- R317, R318, R325, R332, R333, R334: a matrix instruction whose checks pass is accepted as the other engines' are, and the
chain then holds every accumulator it names, in the slot it held or in a free cleared one. -/
def Sys2Proof.Machine.MatrixAccepted : Prop :=
  ∀ p ∈ matrixTable, ∀ (h : Hdr) (f : F4) (s : State) (c : Chain) (first : List Nat) (o : Offer), Issues s c → (first, o) = p.2 h f s →
    (o.fault = none → offerReady s o = true →
      ∃ t d, exec (p.1 h f) s = .next t ∧ Accepted s t h c d (p.1 h f) o ∧
        (∀ a, (Tab.find c.accs a).isSome = true → Tab.find d.accs a = Tab.find c.accs a) ∧
        (∀ a ∈ first, (Tab.find c.accs a).isSome = false → ∃ x ∈ freeSlots s s.selCore, Tab.find d.accs a = some x) ∧
        o.cmd.keep = first.map (fun a => (Tab.find d.accs a).getD 0)) ∧
    (∀ cause tval, o.fault = some (cause, tval) → exec (p.1 h f) s = .next (trapIssue s h cause tval)) ∧
    (o.fault = none → offerReady s o = false → exec (p.1 h f) s = .next (offerWait s o))

/-- R331: AREL with an empty matrix queue performs at once: the accumulators it names are held no more, and their slots are to
be cleared before they are free. -/
def Sys2Proof.Machine.AccumulatorRelease : Prop :=
  ∀ (h : Hdr) (f : F4) (s : State) (c : Chain), Issues s c → (s.coreAt s.selCore).matq = [] → offerReady s (arelOffer h f s) = true →
    c.pair = none → (∀ q ∈ c.parked, q.why ≠ .exitWait) → (s.coreAt s.selCore).ease.all (fun e => e.id ≠ s.nextId) = true →
    ∃ t d, exec (.arel h f) s = .next t ∧ t.chain? s.sel.chain = some d ∧ MovesOn s c d ∧ Accounted s d h.stall.toNat 1 ∧
      NewMonument s t c.ctx ∧ (∀ cell n, d.readAt cell n = c.readAt cell n) ∧
      (∀ a, a < 8 → Tab.find d.accs a = if f.imm.getLsbD a then none else Tab.find c.accs a) ∧
      (t.coreAt s.selCore).clearing = (s.coreAt s.selCore).clearing ++ (arelAccs f s).filterMap (Tab.find c.accs) ∧
      (t.coreAt s.selCore).matq = [] ∧ (t.coreAt s.selCore).ease = (s.coreAt s.selCore).ease

/-- R317, R318, R325, R331 to R334: the matrix instructions. -/
def Obligations.MatrixCommands : Prop := MatrixAccepted ∧ AccumulatorRelease

namespace Sys2Proof.Machine

/-- The waits that read and clear the status of groups: engine, groups, and the words they write from s(SOP) on. -/
def waitTable : List ((Hdr → F4 → Instr) × Eng × (F4 → List Nat) × (Grp → List Nat)) :=
  [(.cpwait, .copy, fun f => if f.sub.getLsbD 0 then List.range 8 else [copyGrp f], fun g => [copyStatus g]),
   (.qstatGrp, .quant, fun f => [quantGrp f], quantStatus), (.qstatAll, .quant, fun _ => List.range 8, quantStatus),
   (.tqryGrp, .tensor, fun f => [tensorGrp f], tensorStatus), (.tqryAll, .tensor, fun _ => List.range 8, tensorStatus)]

/-- The s registers from s(SOP + k) on. -/
def sFrom (f : F4) (k n : Nat) : List CellId := (List.range n).map (fun i => .s (f.sop.toNat + k + i))

/-- What a wait leaves: results land in 2 cycles, LCLK is at least the stamp, and of the chain only these cells read
differently. -/
structure Waited (s t : State) (h : Hdr) (c d : Chain) (dst : List CellId) (stamp : Nat) : Prop where
  rest : t = { s with chains := t.chains, cores := t.cores }
  issuing : t.chain? s.sel.chain = some d
  issue : Accounted s d h.stall.toNat 1 ∧ MovesOn s c d ∧ d.parked = c.parked ∧ d.live = c.live
  regs : ∀ cell, cell ∉ dst → ∀ n, d.readAt cell n = c.readAt cell n
  chains : ∀ j, j ≠ s.sel.chain → t.chain? j = s.chain? j
  cores : ∀ k, k ≠ s.selCore → t.coreAt k = s.coreAt k
  core : t.coreAt s.selCore = { s.coreAt s.selCore with cc := s.sel.t0 + 1, seq := s.sel.seq + 1, lclk := max (s.coreAt s.selCore).lclk stamp }
  bytes : ∀ a, byteAt t a = byteAt s a

/-- PW of a non-blocking form in the active lanes. -/
def Answers (s : State) (d : Chain) (f : F4) (b : Bool) (land : Nat) : Prop :=
  ∀ l ∈ lanesOf s.sel.act, ∀ n, land ≤ n → d.readP f.pw.toNat l n = (f.pw == 7 || b)

end Sys2Proof.Machine

/-- R270, R337, R359, R381, R307, R336, R72, R148: a wait whose commands have all completed raises LCLK to their largest stamp,
writes its status words, clears that status, and with NB sets PW; XWAIT and MWAIT write and clear no status. A non-blocking wait
on commands that still run writes false to PW and nothing else. -/
def Obligations.EngineWaits : Prop :=
  (∀ p ∈ waitTable, ∀ (h : Hdr) (f : F4) (s : State) (c : Chain) (g : Grp) (ws : List Nat), Issues s c →
    g = sumGrps c p.2.1 (p.2.2.1 f) → ws = p.2.2.2 g → (∀ i, i < ws.length → NoLater c (.s (f.sop.toNat + i)) (s.sel.t0 + 2)) →
    (∀ l ∈ lanesOf s.sel.act, NoLater c (.p f.pw.toNat l) (s.sel.t0 + 2)) →
    (waitsFor s p.2.1 (fun g => (p.2.2.1 f).contains g) = [] →
      ∃ t d, exec (p.1 h f) s = .next t ∧ Waited s t h c d (sFrom f 0 ws.length ++ (if f.nb then pCells s f.pw.toNat else [])) g.stamp ∧
        (∀ i w, ws[i]? = some w → ∀ n, s.sel.t0 + 2 ≤ n → d.readS (f.sop.toNat + i) n = w % 2 ^ 32) ∧
        (f.nb = true → Answers s d f true (s.sel.t0 + 2)) ∧ (∀ x ∈ p.2.2.1 f, d.grp p.2.1 x = {}) ∧
        (∀ x, x ∉ p.2.2.1 f → d.grp p.2.1 x = c.grp p.2.1 x) ∧ ∀ e, e ≠ p.2.1 → d.grps e = c.grps e) ∧
    (waitsFor s p.2.1 (fun g => (p.2.2.1 f).contains g) ≠ [] → stoppedBefore s p.2.1 (fun g => (p.2.2.1 f).contains g) = none → f.nb = true →
      ∃ t d, exec (p.1 h f) s = .next t ∧ Waited s t h c d (pCells s f.pw.toNat) 0 ∧ Answers s d f false (s.sel.t0 + 2))) ∧
  (∀ (h : Hdr) (f : F4) (s : State) (c : Chain), Issues s c → (∀ l ∈ lanesOf s.sel.act, NoLater c (.p f.pw.toNat l) (s.sel.t0 + 2)) →
    (∀ o, handleObj s c.ctx f.hnd.toNat = .queue o →
      waitsFor s .xform (fun x => x = f.hnd.toNat) = [] →
      ∃ t d, exec (.xwait h f) s = .next t ∧ (f.nb = true → Answers s d f true (s.sel.t0 + 2)) ∧
        Waited s t h c d (if f.nb then pCells s f.pw.toNat else []) (c.grp .xform f.hnd.toNat).stamp) ∧
    (∀ gs, gs = (if f.sub.getLsbD 0 then List.range 8 else [matGrp f]) →
      waitsFor s .matrix (fun g => gs.contains g) = [] →
      ∃ t d, exec (.mwait h f) s = .next t ∧ (f.nb = true → Answers s d f true (s.sel.t0 + 2)) ∧
        Waited s t h c d (if f.nb then pCells s f.pw.toNat else []) (sumGrps c .matrix gs).stamp))

namespace Sys2Proof.Machine

/-- The query instructions that only read: what they ask of the state, their latency, the first of their s registers after
s(SOP), and the words they write. -/
def queryTable : List ((Hdr → F4 → Instr) × (State → F4 → Bool) × (State → F4 → Nat) × Nat × (State → F4 → List Nat)) :=
  [(.xstat, fun s f => match handleObj s s.selChain.ctx f.hnd.toNat with
      | .queue _ => true
      | _ => false, fun _ _ => 4, 0, fun s f =>
      [(if streamBusy s f.hnd.toNat then 2 ^ 31 else 0) + (s.selChain.grp .xform f.hnd.toNat).aux % 2 ^ 31, (s.selChain.grp .xform f.hnd.toNat).aux2]),
   (.mstatAcc, fun _ _ => true, fun _ _ => 4, 0, fun s _ =>
      [(freeSlots s s.selCore).length * 2 ^ 12 + s.selChain.kern.acc % 16 * 2 ^ 8 + holdMask s.selChain []]),
   (.easeqCount, fun _ _ => true, fun _ _ => 4, 0, fun s _ => [32 - (s.coreAt s.selCore).ease.length]),
   (.qstatBin, fun s f => sOp s f 0 % 512 ≤ 256 && !((waitsFor s .quant (fun _ => true)).any (fun c => c.hist? = some (quantHist f))), fun _ _ => 4, 0,
      fun s f => [histGet s s.selCore (quantHist f) (sOp s f 0 % 512)]),
   (.tlook, fun s f => (match handleObj s s.selChain.ctx f.hnd.toNat with
        | .tensor _ => true
        | _ => false) && decide ((tensorAt s (tensorObj s f)).st = 2) &&
        (coordCheck (tensorAt s (tensorObj s f)).desc (sOp s f 0) (sOp s f 1)).isNone,
      fun s f =>
        let t := tensorAt s (tensorObj s f)
        let site := homeSite s (tensorTag s t) (t.desc.first (t.desc.index (pairOf (sOp s f 0) (sOp s f 1))))
        40 + 3 * hops (siteOf s.selCore) site + stitches (siteOf s.selCore) site, 2,
      fun s f => lookWords s (tensorObj s f) (tensorAt s (tensorObj s f)) ((tensorAt s (tensorObj s f)).desc.index (pairOf (sOp s f 0) (sOp s f 1)))),
   (.budgqIsland, fun _ _ => true, fun s f => (match platAt s s.selChain.ctx (sOp s f 0) with
        | none => 40
        | some p => islandLat (siteOf s.selCore) (islandOf p.site)), 0, fun s f =>
      match platAt s s.selChain.ctx (sOp s f 0) with
      | none => [2 ^ 32 - 1, 2 ^ 32 - 1]
      | some p => [placeSum s (islandOf p.site), 2000000]),
   (.budgqCtx, fun _ _ => true, fun _ _ => 4, 0, fun s _ =>
      let c := s.ctxAt s.selChain.ctx
      [min 65535 c.nsurv + min 65535 c.surv * 2 ^ 16, min 65535 c.nparc + min 65535 c.parc * 2 ^ 16]),
   (.pairq, fun _ _ => true, fun _ _ => 4, 0, fun s _ =>
      [(match s.selChain.pair with
        | none => 0
        | some q => 2 ^ 31 + s.selChain.shadow.toNat * 2 ^ 30 + q % 16 * 2 ^ 16) + min 65535 s.selChain.ncmp])]

end Sys2Proof.Machine

/-- R308, R337, R276, R359, R377, R409, R410: XSTAT, MSTAT.acc, EASEQ.count, QSTAT.bin, TLOOK, BUDGQ and PAIRQ write the words
of what they ask about and change nothing else. -/
def Sys2Proof.Machine.QueryWords : Prop :=
  ∀ p ∈ queryTable, ∀ (h : Hdr) (f : F4) (s : State) (c : Chain), s.chain? s.sel.chain = some c → p.2.1 s f = true →
    (∀ i, i < (p.2.2.2.2 s f).length → NoLater c (.s (f.sop.toNat + p.2.2.2.1 + i)) (s.sel.t0 + p.2.2.1 s f)) →
    ∃ t, exec (p.1 h f) s = .next t ∧ RegFrame s t h 1 (sFrom f p.2.2.2.1 (p.2.2.2.2 s f).length) 0 0 ∧
      ∀ i w, (p.2.2.2.2 s f)[i]? = some w → ∀ n, s.sel.t0 + p.2.2.1 s f ≤ n →
        t.selChain.readS (f.sop.toNat + p.2.2.2.1 + i) n = w % 2 ^ 32

/-- R337, R276, R381: MSTAT.grp writes its group's status and clears it but for the stamp; EASEQ.probe says whether
destination and source entries overlap the pointer's range (bits 7:0 and 31:16; which entry is lowest is the table's own), and
EASEQ.wait goes on when none does; TQRY.bind writes a handle's state, TID and tile counts. -/
def Sys2Proof.Machine.EngineStatus : Prop :=
  ∀ (h : Hdr) (f : F4) (s : State) (c : Chain), Issues s c → (∀ i, i < 4 → NoLater c (.s (f.sop.toNat + i)) (s.sel.t0 + 4)) →
    (∀ l ∈ lanesOf s.sel.act, NoLater c (.p f.pw.toNat l) (s.sel.t0 + 4)) →
    (∃ t d, exec (.mstatGrp h f) s = .next t ∧ Waited s t h c d (sFrom f 0 1) 0 ∧
      (∀ n, s.sel.t0 + 4 ≤ n → d.readS f.sop.toNat n = matStatus (c.grp .matrix (matGrp f)) % 2 ^ 32) ∧
      d.grp .matrix (matGrp f) = { stamp := (c.grp .matrix (matGrp f)).stamp, top := (c.grp .matrix (matGrp f)).top } ∧
      ∀ x, x ≠ matGrp f → d.grp .matrix x = c.grp .matrix x) ∧
    (∀ p, p = Ptr.ofBits (c.readK f.pb.toNat s.sel.t0) → p.valid = true →
      (∃ t d w, exec (.easeqProbe h f) s = .next t ∧ t.chain? s.sel.chain = some d ∧ MovesOn s c d ∧
        (∀ cell, cell ≠ .s f.sop.toNat → ∀ n, d.readAt cell n = c.readAt cell n) ∧
        (∀ n, s.sel.t0 + 4 ≤ n → d.readS f.sop.toNat n = w) ∧
        (w.testBit 0 = (ptrEases s p).any (·.dst)) ∧ (w.testBit 1 = (ptrEases s p).any (fun e => !e.dst)) ∧
        (w.testBit 31 = !(ptrEases s p).isEmpty) ∧ ((ptrEases s p) = [] → w = 0)) ∧
      (ptrEases s p = [] → ∃ t d, exec (.easeqWait h f) s = .next t ∧ Waited s t h c d (if f.nb then pCells s f.pw.toNat else []) 0 ∧
        (f.nb = true → Answers s d f true (s.sel.t0 + 4))) ∧
      (ptrEases s p ≠ [] → f.nb = true → ∃ t d, exec (.easeqWait h f) s = .next t ∧ Waited s t h c d (pCells s f.pw.toNat) 0 ∧
        Answers s d f false (s.sel.t0 + 4))) ∧
    (∀ o, handleObj s c.ctx f.hnd.toNat = .tensor o → ∃ t d, exec (.tqryBind h f) s = .next t ∧ t.chain? s.sel.chain = some d ∧ MovesOn s c d ∧
      (∀ cell, cell ∉ sFrom f 0 4 → ∀ n, d.readAt cell n = c.readAt cell n) ∧
      ∀ n, s.sel.t0 + 4 ≤ n →
        d.readS f.sop.toNat n = ((tensorAt s o).st * 2 ^ 30 + (if (tensorAt s o).st = 0 then 0 else (tensorAt s o).tid)) % 2 ^ 32 ∧
        d.readS (f.sop.toNat + 1) n = (tensorAt s o).desc.n1 % 2 ^ 16 + (tensorAt s o).desc.n2 % 2 ^ 16 * 2 ^ 16 ∧
        d.readS (f.sop.toNat + 2) n = (tensorAt s o).desc.n3 % 2 ^ 16)

/-- R276, R308, R337, R359, R377, R381, R409, R410: queries of engines and their status. -/
def Obligations.Queries : Prop := QueryWords ∧ EngineStatus

namespace Sys2Proof.Machine

/-- The home of a ring as a pointer names it: the die, cluster and core of its descriptor, and its scope. -/
def StageRing.homePtr (r : StageRing) : Ptr :=
  { (Ptr.ofBits 0) with
    hdie := bits r.desc.toNat 63 57, hclu := bits r.desc.toNat 56 54, hcore := bits r.desc.toNat 53 51, scope := r.scope }

/-- The ring that a handle names, usable from the issuing core (R273, R117). -/
structure RingFor (s : State) (c : Chain) (f : F4) (o : Nat) (r : StageRing) : Prop where
  named : handleObj s c.ctx f.hnd.toNat = .ring o
  ring : r = Tab.get { desc := 0, ctx := 0 } s.rings o
  good : r.ok = true
  home : homeOk s c.ctx s.selCore (r.homePtr) = true

/-- The acquiring and waiting ring instructions: the kind of each, and the sequence it is for. -/
def ringTable : List ((Hdr → F4 → Instr) × Nat × (State → F4 → StageRing → Nat)) :=
  [(.ringacqProd, 0, fun _ _ r => r.acqp), (.ringacqCons, 1, fun _ _ r => r.acqc), (.ringwtFull, 2, fun s f _ => sOp s f 0),
   (.ringwtEmpty, 3, fun s f _ => sOp s f 0)]

end Sys2Proof.Machine

/-- R275, R274, R72: RINGACQ takes the next sequence of its side when that sequence's slot is ready and writes the slot's
address and the sequence; RINGWT goes on when the slot is. A consumer's clock takes the slot's time. With the slot not ready a
non-blocking form writes false to PW and takes nothing; RINGWT of a sequence never acquired traps (0x4A). -/
def Obligations.RingAcquires : Prop :=
  ∀ p ∈ ringTable, ∀ (h : Hdr) (f : F4) (s : State) (c : Chain) (o : Nat) (r : StageRing) (k : Nat), Issues s c → RingFor s c f o r →
    k = p.2.2 s f r → (2 ≤ p.2.1 → StageRing.issued r.acqp k = true) →
    (∀ i, i < 2 → NoLater c (.s (f.sop.toNat + i)) (s.sel.t0 + ringLat r)) →
    (∀ l ∈ lanesOf s.sel.act, NoLater c (.p f.pw.toNat l) (s.sel.t0 + ringLat r)) →
    (ringReady s s.selCore p.2.1 r k = true → ∃ t d, exec (p.1 h f) s = .next t ∧ t.chain? s.sel.chain = some d ∧ MovesOn s c d ∧
      Tab.get { desc := 0, ctx := 0 } t.rings o = bumpRing r p.2.1 ∧ (∀ x, x ≠ o → Tab.find t.rings x = Tab.find s.rings x) ∧
      (t.coreAt s.selCore).lclk = (if wantsFull p.2.1 then max (s.coreAt s.selCore).lclk (r.time (r.slotOf k)) else (s.coreAt s.selCore).lclk) ∧
      (p.2.1 ≤ 1 → NewMonument s t c.ctx ∧ ∀ n, s.sel.t0 + ringLat r ≤ n →
        d.readS f.sop.toNat n = r.addr k % 2 ^ 32 ∧ d.readS (f.sop.toNat + 1) n = k % 2 ^ 32) ∧
      (f.nb = true → Answers s d f true (s.sel.t0 + ringLat r)) ∧
      ∀ cell, cell ∉ (if p.2.1 ≤ 1 then sFrom f 0 2 else []) ++ (if f.nb then pCells s f.pw.toNat else []) → ∀ n, d.readAt cell n = c.readAt cell n) ∧
    (ringReady s s.selCore p.2.1 r k = false → f.nb = true → ∃ t d, exec (p.1 h f) s = .next t ∧ t.rings = s.rings ∧
      Waited s t h c d (pCells s f.pw.toNat) 0 ∧ Answers s d f false (s.sel.t0 + ringLat r)) ∧
    (ringReady s s.selCore p.2.1 r k = false → f.nb = false → ∃ t d, exec (p.1 h f) s = .next t ∧ t.chain? s.sel.chain = some d ∧
      Tab.get { desc := 0, ctx := 0 } t.rings o =
        { bumpRing r p.2.1 with wait := r.wait ++ [(s.nextId, s.sel.chain, p.2.1, k, f.sop.toNat)] } ∧
      (s.sel.entry ≠ 0 → d.parked = c.parked ++ [{ lanes := s.sel.entry, why := .ring s.nextId, pc := s.sel.pc, prio := s.sel.prio }]) ∧
      ∀ cell n, d.readAt cell n = c.readAt cell n)

/-- R274, R275, R135: RINGREL.prod makes its slot full with the time LCLK, RINGREL.prod.after does so once the copies of its
group issued before it have completed (at once when there are none), and RINGREL.cons makes its slot empty and turns its phase.
A release of a slot that is not the releaser's traps (0x4A). -/
def Obligations.RingReleases : Prop :=
  ∀ (h : Hdr) (f : F4) (s : State) (c : Chain) (o : Nat) (r : StageRing) (k j : Nat), Issues s c → RingFor s c f o r → k = sOp s f 0 →
    j = r.slotOf k →
    (prodOk r k = true → earlierWrites c r.scope = [] →
      (∃ t d, exec (.ringrelProd h f) s = .next t ∧ t.chain? s.sel.chain = some d ∧ MovesOn s c d ∧ NewMonument s t c.ctx ∧
        (∀ cell n, d.readAt cell n = c.readAt cell n) ∧
        Tab.get { desc := 0, ctx := 0 } t.rings o = r.setFull j (ringTime s s.selCore (s.coreAt s.selCore).lclk) ∧ ∀ x, x ≠ o → Tab.find t.rings x = Tab.find s.rings x) ∧
      (s.sel.chain < 2 ^ 40 → stoppedOf s .copy (fun x => x = copyGrp f) = none → r.after = [] →
        (engQueue s .copy s.selCore).all (fun y => decide (y.chain ≠ s.sel.chain)) = true →
        ∃ t d, exec (.ringrelProdAfter h f) s = .next t ∧ t.chain? s.sel.chain = some d ∧ MovesOn s c d ∧ NewMonument s t c.ctx ∧
          (Tab.get { desc := 0, ctx := 0 } t.rings o).full j = true ∧ (Tab.get { desc := 0, ctx := 0 } t.rings o).after = [] ∧
          (Tab.get { desc := 0, ctx := 0 } t.rings o).time j =
            ringTime s s.selCore (max (s.coreAt s.selCore).lclk (c.grp .copy (copyGrp f)).stamp))) ∧
    (prodOk r k = false → exec (.ringrelProd h f) s = .next (trapIssue s h 0x4A r.base)) ∧
    (StageRing.issued r.acqc k = true → r.ready k true = true → c.outs = [] → (∀ q ∈ c.parked, q.why ≠ .line) → (s.coreAt s.selCore).ease = [] →
      ∃ t d, exec (.ringrelCons h f) s = .next t ∧ t.chain? s.sel.chain = some d ∧ MovesOn s c d ∧ NewMonument s t c.ctx ∧
        (∀ cell n, d.readAt cell n = c.readAt cell n) ∧
        (Tab.get { desc := 0, ctx := 0 } t.rings o).full j = false ∧
        (Tab.get { desc := 0, ctx := 0 } t.rings o).phaseBit j = !(r.phaseBit j)) ∧
    ((StageRing.issued r.acqc k && r.ready k true) = false → exec (.ringrelCons h f) s = .next (trapIssue s h 0x4A r.base))


/-! ## Dispatch -/

namespace Sys2Proof.Machine

/-- The issuing instruction has performed, u being the state that its own effect leaves: t differs from u in the issuing chain
and its core alone, the issuing lanes have moved on, a monument is open (with `mon`), the words ws are in s(SOP), s(SOP + 1), … from n cycles
after issue on (and PW is true, with NB), every other register reads as in u, and the chain issues again no sooner than `hold`
cycles after issue. -/
def Effected (s u t : State) (f : F4) (nb mon : Bool) (n hold : Nat) (ws : List Nat) : Prop :=
  u.sel = s.sel → t = { u with chains := t.chains, cores := t.cores } ∧
    (∀ j, j ≠ s.sel.chain → t.chain? j = u.chain? j) ∧ (∀ k, k ≠ s.selCore → t.coreAt k = u.coreAt k) ∧
    ∀ c, Issues u c → ∃ d, t.chain? s.sel.chain = some d ∧ MovesOn s c d ∧ (mon = true → NewMonument s t c.ctx) ∧ d.parked = c.parked ∧
      s.sel.t0 + hold ≤ d.elig ∧
      (∀ cell, cell ∉ sFrom f 0 ws.length ++ (if nb then pCells s f.pw.toNat else []) → ∀ k, d.readAt cell k = c.readAt cell k) ∧
      (∀ i w, ws[i]? = some w → NoLater c (.s (f.sop.toNat + i)) (s.sel.t0 + n) → ∀ k, s.sel.t0 + n ≤ k →
        d.readS (f.sop.toNat + i) k = w % 2 ^ 32) ∧
      (nb = true → (∀ l ∈ lanesOf s.sel.act, NoLater c (.p f.pw.toNat l) (s.sel.t0 + n)) → Answers s d f true (s.sel.t0 + n))

/-- The pointer in k(PB). -/
def ptrPB (s : State) (c : Chain) (f : F4) : Ptr := Ptr.ofBits (c.readK f.pb.toNat s.sel.t0)

/-- s(SOP + i). -/
def sWord (s : State) (c : Chain) (f : F4) (i : Nat) : Nat := c.readS (f.sop.toNat + i) s.sel.t0

/-- What LAUNCH submits: the record at k(PB), at the clock of the issuing core, with the largest stamp of what the chain released. -/
def launchSub (s : State) (c : Chain) (f : F4) (o : Nat) : Sub :=
  { kctx := c.ctx, ctx := c.ctx, obj := o, lim := some (ptrPB s c f).len,
    clk := stampTo (s.coreAt s.selCore).epoch s.rebase.epoch (s.coreAt s.selCore).lclk, rel := c.top, cx := false }

/-- What the dispatch engine answers to LAUNCH's record. -/
def launchAnswer (s : State) (c : Chain) (f : F4) (o : Nat) : EngRes (Nat ⊕ Nat) :=
  submit s (launchSub s c f o) (fun v x n => rdBytes v c.ctx s.selCore (s.coreAt s.selCore).lclk (ptrPB s c f) ((ptrPB s c f).base + x) n)

end Sys2Proof.Machine

/-- R402, R389, R386, R400, R415, R152: LAUNCH through a launch queue that is not full submits its record: an accepted one gives
its SURVEYID and 0, and a survey with no parcel placed yet stands last in the queue; a rejected one gives 0 and its REASON and
queues nothing. A full queue makes LAUNCH wait, and LAUNCH.nb answer false. LAUNCH through another queue traps (0x70), as does one
through no queue (0x21), one whose record is not a 64-byte aligned global address (0x72) and one that would pass a live-survey
budget (0x20). -/
def Obligations.Launches : Prop :=
  ∀ (h : Hdr) (f : F4) (s : State) (c : Chain), Issues s c →
    ((∀ o, handleObj s c.ctx f.hnd.toNat ≠ .queue o) → exec (.launch h f) s = .next (trapIssue s h 0x21 f.hnd.toNat)) ∧
    (∀ o q, handleObj s c.ctx f.hnd.toNat = .queue o → q = queueAt s o →
      (∀ cause tval, operandCheck s f.pb.toNat (ptrPB s c f) (if (ptrPB s c f).space ≠ 0 ∨ (ptrPB s c f).base % 64 ≠ 0 then some (0x72, f.pb.toNat) else none)
          false (ptrPB s c f).base 0 true = some (cause, tval) → exec (.launch h f) s = .next (trapIssue s h cause tval)) ∧
      (operandCheck s f.pb.toNat (ptrPB s c f) (if (ptrPB s c f).space ≠ 0 ∨ (ptrPB s c f).base % 64 ≠ 0 then some (0x72, f.pb.toNat) else none)
          false (ptrPB s c f).base 0 true = none →
        (q.launch = false → exec (.launch h f) s = .next (trapIssue s h 0x70 f.hnd.toNat)) ∧
        (∀ x, q.launch = true → survStop s c.ctx = some x → exec (.launch h f) s = .next (trapIssue s h 0x20 (x % 2 ^ 14 * 2 ^ 16))) ∧
        (q.launch = true → survStop s c.ctx = none → ordered c (min 2 (ptrPB s c f).scope) = true →
          (q.cap ≤ q.surveys.length → f.nb = false → exec (.launch h f) s = .next (waitLong s)) ∧
          (q.cap ≤ q.surveys.length → f.nb = true → (∀ l ∈ lanesOf s.sel.act, NoLater c (.p f.pw.toNat l) (s.sel.t0 + 2)) →
            ∃ t d, exec (.launch h f) s = .next t ∧ Waited s t h c d (pCells s f.pw.toNat) 0 ∧ Answers s d f false (s.sel.t0 + 2)) ∧
          (q.surveys.length < q.cap → ∀ u sid, launchAnswer s c f o = .ok u (.inr sid) →
            ∃ t n, exec (.launch h f) s = .next t ∧ Effected s u t f f.nb true n 0 [sid, 0] ∧
              ∃ key v, Tab.find t.surveys key = some v ∧ key % 2 ^ 32 = sid % 2 ^ 32 ∧ v.ctx = c.ctx ∧ v.queue = o ∧ v.next = 0 ∧ v.ended = 0 ∧
                (queueAt t o).surveys.getLast? = some key) ∧
          (q.surveys.length < q.cap → ∀ u r, launchAnswer s c f o = .ok u (.inl r) →
            ∃ t n, exec (.launch h f) s = .next t ∧ Effected s u t f f.nb true n 0 [0, r]))))

namespace Sys2Proof.Machine

/-- Nothing of a registry changes but what is given for one slot. -/
def OnlySlot (s u : State) (ctx slot : Nat) (e : RegEnt) : Prop :=
  u = s.modCtx ctx (fun c => { c with reg := Tab.put c.reg slot e })

end Sys2Proof.Machine

/-- R403, R87, R405: KREG of a pointer that is not global or is shorter than the image gives 0 and REASON 11; an image that fails
its checks gives 0 and their REASON; one that passes gives its KID, which names the kernel in the context from then on. KDEREG
of a KID that is not registered gives 1; of a kernel with no survey gives 0 and frees the slot for the next generation. -/
def Obligations.KernelRegistry : Prop :=
  ∀ (h : Hdr) (f : F4) (s : State) (c : Chain), Issues s c →
    (operandCheck s f.pb.toNat (ptrPB s c f) none false (ptrPB s c f).base 0 (decide ((ptrPB s c f).base % 8 = 0)) = none →
      ordered c (ptrPB s c f).scope = true →
      ((ptrPB s c f).space ≠ 0 ∨ (ptrPB s c f).len < 64 → ∃ t n, exec (.kreg h f) s = .next t ∧ Effected s s t f false true n 0 [0, 11]) ∧
      ((ptrPB s c f).space = 0 → 64 ≤ (ptrPB s c f).len → ∀ u x, rdBytes s c.ctx s.selCore (s.coreAt s.selCore).lclk (ptrPB s c f) (ptrPB s c f).base 64 = .ok u x →
        ((ptrPB s c f).len < x / 2 ^ 384 % 2 ^ 32 → ∃ t n, exec (.kreg h f) s = .next t ∧ Effected s u t f false true n 0 [0, 11]) ∧
        (∀ v y a, x / 2 ^ 384 % 2 ^ 32 ≤ (ptrPB s c f).len → rdBytes u c.ctx s.selCore (s.coreAt s.selCore).lclk (ptrPB s c f) (ptrPB s c f).base (x / 2 ^ 384 % 2 ^ 32) = .ok v y →
          a = checkImage (s.ctxAt c.ctx).dtab (s.ctxAt c.ctx).ylimit (ptrPB s c f).base
            (toBytes (max (x / 2 ^ 384 % 2 ^ 32) 64) (if x / 2 ^ 384 % 2 ^ 32 < 64 then x else y)) →
          (∀ r, a = .inl r → ∃ t n, exec (.kreg h f) s = .next t ∧ Effected s v t f false true n 0 [0, r]) ∧
          (∀ k, a = .inr k → freeReg (v.ctxAt c.ctx) = none → ∃ t n, exec (.kreg h f) s = .next t ∧ Effected s v t f false true n 0 [0, 10]) ∧
          (∀ k slot gen, a = .inr k → freeReg (v.ctxAt c.ctx) = some (slot, gen) →
            ∃ t n w, exec (.kreg h f) s = .next t ∧ OnlySlot v w c.ctx slot { gen, kern := some k, gone := false } ∧
              Effected s w t f false true n 0 [gen * 1024 + slot, 0])))) ∧
    (ordered c 0 = true →
      (kernOf s c.ctx (sWord s c f 0) = none → ∃ t d, exec (.kdereg h f) s = .next t ∧ t.ctxs = s.ctxs ∧ t.surveys = s.surveys ∧
        t.chain? s.sel.chain = some d ∧ MovesOn s c d ∧
        (NoLater c (.s (f.sop.toNat + 1)) (s.sel.t0 + 4) → ∀ k, s.sel.t0 + 4 ≤ k → d.readS (f.sop.toNat + 1) k = 1)) ∧
      (∀ slot k, kernOf s c.ctx (sWord s c f 0) = some (slot, k) → s.surveys.all (fun e => decide (e.2.ctx ≠ c.ctx ∨ e.2.slot ≠ slot)) = true →
        ∃ t d x, exec (.kdereg h f) s = .next t ∧ t.surveys = s.surveys ∧ Tab.find (t.ctxAt c.ctx).reg slot = some x ∧
          x.kern = none ∧ x.gen = (sWord s c f 0 / 1024 + 1) % 2 ^ 22 ∧ (∀ j, j ≠ slot → Tab.find (t.ctxAt c.ctx).reg j = Tab.find (s.ctxAt c.ctx).reg j) ∧
          t.chain? s.sel.chain = some d ∧ MovesOn s c d ∧
          (NoLater c (.s (f.sop.toNat + 1)) (s.sel.t0 + 4) → ∀ k, s.sel.t0 + 4 ≤ k → d.readS (f.sop.toNat + 1) k = 0)))

namespace Sys2Proof.Machine

/-- The checks of SWAIT on its pointer (R406). -/
def swaitFault (s : State) (c : Chain) (f : F4) : Option (Nat × Nat) :=
  let p := ptrPB s c f
  operandCheck s f.pb.toNat p (if p.space = 0 ∧ p.share = 2 ∧ p.scope = 3 ∧ (p.fmt = 0 ∨ p.fmt = 6) ∧ 8 ≤ p.len then none else some (0x72, f.pb.toNat))
    false p.base 8 (decide (p.base % 8 = 0))

/-- What SWAIT reads. -/
def swaitRead (s : State) (c : Chain) (f : F4) : Res Read :=
  cohRead s { ctx := c.ctx, core := s.selCore, share := 2, scope := 3 } (accKey s c.ctx (ptrPB s c f) (ptrPB s c f).base) (s.coreAt s.selCore).lclk true

end Sys2Proof.Machine

/-- R406, R407, R392, R408, R395, R72: SWAIT that reads its survey's completion word writes its upper half and raises LCLK to the
word's time; one that reads another word waits, and SWAIT.nb answers false. QCFG of a bad word traps (0x71); of a good one it
leaves an empty queue with that configuration. DEPADD attaches a live prerequisite, and counts one that is not live as met. -/
def Obligations.DispatchCommands : Prop :=
  ∀ (h : Hdr) (f : F4) (s : State) (c : Chain), Issues s c →
    (∀ cause tval, swaitFault s c f = some (cause, tval) → exec (.swait h f) s = .next (trapIssue s h cause tval)) ∧
    (swaitFault s c f = none → acquireOpen c = false → ∀ u r w, swaitRead s c f = .ok u r →
      w = sectorBytes r.data ((ptrPB s c f).base % 64) 8 →
      (w.testBit 63 = true → w % 2 ^ 32 = sWord s c f 0 → u.sel = s.sel → Issues u c →
        ∃ t d n, exec (.swait h f) s = .next t ∧ t.chain? s.sel.chain = some d ∧ MovesOn s c d ∧ t.hbm = u.hbm ∧
          (t.coreAt s.selCore).lclk = max (u.coreAt s.selCore).lclk r.wts ∧
          (∀ cell, cell ∉ sFrom f 1 1 ++ (if f.nb then pCells s f.pw.toNat else []) → ∀ k, d.readAt cell k = c.readAt cell k) ∧
          (NoLater c (.s (f.sop.toNat + 1)) (s.sel.t0 + n) → ∀ k, s.sel.t0 + n ≤ k → d.readS (f.sop.toNat + 1) k = w / 2 ^ 32 % 2 ^ 32) ∧
          (f.nb = true → (∀ l ∈ lanesOf s.sel.act, NoLater c (.p f.pw.toNat l) (s.sel.t0 + n)) → Answers s d f true (s.sel.t0 + n))) ∧
      ((w.testBit 63 = false ∨ w % 2 ^ 32 ≠ sWord s c f 0) →
        (f.nb = false → exec (.swait h f) s = .next (waitLong s)) ∧
        (f.nb = true → ∃ t d n, exec (.swait h f) s = .next t ∧ Waited s t h c d (pCells s f.pw.toNat) 0 ∧
          ((∀ l ∈ lanesOf s.sel.act, NoLater c (.p f.pw.toNat l) (s.sel.t0 + n)) → Answers s d f false (s.sel.t0 + n))))) ∧
    (∀ o q, handleObj s c.ctx f.hnd.toNat = .queue o → q = queueAt s o →
      (cfgOk (sWord s c f 0) = false → exec (.qcfg h f) s = .next (trapIssue s h 0x71 (sWord s c f 0))) ∧
      (cfgOk (sWord s c f 0) = true → ordered c 0 = true → q.surveys = [] → q.parked = [] →
        ∃ t d, exec (.qcfg h f) s = .next t ∧ t.chain? s.sel.chain = some d ∧ MovesOn s c d ∧ NewMonument s t c.ctx ∧
          (∀ cell k, d.readAt cell k = c.readAt cell k) ∧
          queueAt t o = { q with cfg := BitVec.ofNat 32 (sWord s c f 0), data := [] } ∧ ∀ x, x ≠ o → queueAt t x = queueAt s x)) ∧
    (ordered c 0 = true → ∀ key pre, key = surveyKey (s.ctxAt c.ctx).part (sWord s c f 0) → pre = surveyKey (s.ctxAt c.ctx).part (sWord s c f 1) →
      (Tab.find s.surveys key = none → exec (.depadd h f) s = .next (trapIssue s h 0x73 (sWord s c f 0))) ∧
      (∀ v, Tab.find s.surveys key = some v →
        (v.ctx ≠ c.ctx ∨ v.dep ≤ v.deps.length + v.metDeps ∨ sWord s c f 1 = sWord s c f 0 → exec (.depadd h f) s = .next (trapIssue s h 0x73 (sWord s c f 0))) ∧
        (v.ctx = c.ctx → v.deps.length + v.metDeps < v.dep → sWord s c f 1 ≠ sWord s c f 0 →
          ∃ t u, exec (.depadd h f) s = .next t ∧ Effected s u t f false true 0 0 [] ∧
            u = { s with surveys := Tab.put s.surveys key (if (Tab.find s.surveys pre).isSome then { v with deps := v.deps ++ [pre] }
              else { v with metDeps := v.metDeps + 1 }) })))


/-! ## Contexts -/

namespace Sys2Proof.Machine

/-- A context command (R435): whether it acts on the child that HND names, its checks in their order, the scope its ordering asks
for (R148), and, of the state at issue, the state its effect leaves, its latency and the words it writes. -/
structure CxRow where
  make : Hdr → F4 → Instr
  child : F4 → Bool
  checks : State → Chain → F4 → Nat → List (Option (Nat × Nat))
  scope : State → Chain → F4 → Nat
  act : State → Chain → F4 → Nat → Option (State × Nat × List Nat)

/-- The child that HND names is in none of the wanted states (R452). -/
def notIn (s : State) (f : F4) (x : Nat) (l : List CSt) : Option (Nat × Nat) :=
  faultIf (!(l.contains (s.ctxAt x).st)) 0x78 (f.hnd.toNat + ctxCode (s.ctxAt x).st * 2 ^ 8)

/-- A word with a bit outside its fields. -/
def extra (v fields : Nat) : Option (Nat × Nat) := faultIf (decide (v &&& fields ≠ v)) 0x7D v

/-- A pair of s registers. -/
def sWide (s : State) (c : Chain) (f : F4) (i : Nat) : Nat := sWord s c f i + sWord s c f (i + 1) * 2 ^ 32

/-- A completion pointer, a pointer to n bytes of a table, and a pointer to a log's buffer (R435, R448). -/
def donePtr (s : State) (c : Chain) (f : F4) : Option (Nat × Nat) :=
  let p := ptrPB s c f
  operandCheck s f.pb.toNat p (if p.space = 0 ∧ p.share = 2 ∧ p.scope = 3 ∧ (p.fmt = 0 ∨ p.fmt = 6) ∧ 8 ≤ p.len then none else some (0x7E, f.pb.toNat))
    true p.base 8 (decide (p.base % 8 = 0))
def tablePtr (s : State) (c : Chain) (f : F4) (bad : Bool) (n : Nat) (aligned : Bool) : Option (Nat × Nat) :=
  operandCheck s f.pb.toNat (ptrPB s c f) (faultIf (decide ((ptrPB s c f).space ≠ 0) || bad) 0x7E f.pb.toNat) false (ptrPB s c f).base n aligned
def logPtr (s : State) (c : Chain) (f : F4) : Option (Nat × Nat) :=
  let p := ptrPB s c f
  operandCheck s f.pb.toNat p (faultIf (!(decide (p.space = 0 ∧ p.share = 0 ∧ p.fmt = 0 ∧ (p.scope = 2 ∨ p.scope = 3) ∧ 128 ≤ p.len ∧ p.len % 8 = 0)))
    0x7E f.pb.toNat) true p.base p.len true

/-- The context commands that sweep nothing and read no memory. -/
def cxTable : List CxRow :=
  [ { make := .cxrun, child := fun _ => true, checks := fun s _ f x => [notIn s f x [.stopped]], scope := fun _ _ _ => 0,
      act := fun s _ _ x => some (resumeCtx s x, ctxLat s x, []) },
    { make := .cxstop, child := fun _ => true, checks := fun s _ f x => [notIn s f x [.running]], scope := fun _ _ _ => 0,
      act := fun s _ _ x => some (stopTree s x, ctxLat s x, []) },
    { make := .cxgrantBudget, child := fun _ => true,
      checks := fun s c f _ => [extra (sWord s c f 1) 0xFFFF,
        faultIf (decide ((s.ctxAt c.ctx).surv < sWord s c f 0 % 2 ^ 16)) 0x7A (sWord s c f 0 % 2 ^ 16),
        faultIf (decide ((s.ctxAt c.ctx).parc < sWord s c f 0 / 2 ^ 16 % 2 ^ 16)) 0x7A (sWord s c f 0 / 2 ^ 16 % 2 ^ 16),
        faultIf (decide ((s.ctxAt c.ctx).nchild < sWord s c f 1 % 2 ^ 16)) 0x7A (sWord s c f 1 % 2 ^ 16)], scope := fun _ _ _ => 0,
      act := fun s c f x => some (s.modCtx x (fun y =>
        { y with surv := sWord s c f 0 % 2 ^ 16, parc := sWord s c f 0 / 2 ^ 16 % 2 ^ 16, nchild := sWord s c f 1 % 2 ^ 16 }), ctxLat s x, []) },
    { make := .cxgrantPort, child := fun _ => true,
      checks := fun s c f _ => [extra (sWord s c f 0) 0xCFFF01FF, extra (sWord s c f 1) 0,
        faultIf (decide (portRate (s.ctxAt c.ctx).port.toNat < portRate (sWord s c f 0))) 0x7A (sWord s c f 0),
        faultIf (decide (portDepth (sWord s c f 0) = 0)) 0x7D (sWord s c f 0)], scope := fun _ _ _ => 0,
      act := fun s c f x => some (s.modCtx x (fun y => { y with port := BitVec.ofNat 32 (sWord s c f 0) }), ctxLat s x, []) },
    { make := .cxgrantHandle, child := fun _ => true,
      checks := fun s c f x =>
        let a := sWord s c f 0 % 2 ^ 8
        [extra (sWord s c f 0) 0xFFFF, extra (sWord s c f 1) 0, faultIf (decide (handleObj s c.ctx a = .empty)) 0x7A a,
          faultIf (match handleObj s c.ctx a with
            | .child _ => true
            | _ => false) 0x7B a,
          faultIf (decide (handleObj s x (sWord s c f 0 / 2 ^ 8 % 2 ^ 8) ≠ .empty)) 0x7C (sWord s c f 0 / 2 ^ 8 % 2 ^ 8)], scope := fun _ _ _ => 0,
      act := fun s c f x => some (setHandle s x (sWord s c f 0 / 2 ^ 8 % 2 ^ 8)
        { obj := handleObj s c.ctx (sWord s c f 0 % 2 ^ 8), src := some (c.ctx, sWord s c f 0 % 2 ^ 8) }, ctxLat s x, []) },
    { make := .cxgrantCommon, child := fun _ => true, checks := fun s c f _ => [extra (sWord s c f 0) 1, extra (sWord s c f 1) 0],
      scope := fun _ _ _ => 0, act := fun s c f x => some (s.modCtx x (fun y => { y with common := (sWord s c f 0).testBit 0 }), ctxLat s x, []) },
    { make := .platset, child := fun _ => true,
      checks := fun s c f x =>
        let w := sWord s c f 2
        let v := w % 2 ^ 7
        let pv := w / 2 ^ 8 % 2 ^ 7
        let src := (s.ctxAt c.ctx).plat.getD pv default
        let lent := lentCores s src (s.ctxAt x).plat (sWide s c f 0)
        let new := platWith (s.ctxAt x).plat v src.site lent
        [notIn s f x [.stopped], extra w 0x7F7F, faultIf (decide ((s.ctxAt c.ctx).plat.length ≤ pv)) 0x7A pv,
          faultIf (decide (2 ^ src.cores.length ≤ sWide s c f 0)) 0x7A (sWide s c f 0 % 2 ^ 32),
          faultIf (decide ((s.ctxAt x).plat.length < v ∨ (lent = [] ∧ v + 1 ≠ (s.ctxAt x).plat.length))) 0x7D v,
          faultIf ((platCores (s.ctxAt x).plat).any (fun k => !((platCores new).contains k) &&
            ((subtree s x).drop 1).any (fun d => (platCores (s.ctxAt d).plat).contains k))) 0x7C f.hnd.toNat,
          faultIf (rateOver s c.ctx x new) 0x7A (portRate (s.ctxAt x).port.toNat)], scope := fun _ _ _ => 0,
      act := fun s c f x =>
        let src := (s.ctxAt c.ctx).plat.getD (sWord s c f 2 / 2 ^ 8 % 2 ^ 7) default
        some (s.modCtx x (fun y => { y with
          plat := platWith y.plat (sWord s c f 2 % 2 ^ 7) src.site (lentCores s src (s.ctxAt x).plat (sWide s c f 0)) }), ctxLat s x, []) },
    { make := .htset, child := fun _ => false,
      checks := fun s c f _ =>
        [faultIf (decide (f.sub.toNat % 8 = 5) || (match handleObj s c.ctx f.hnd.toNat with
            | .child _ => true
            | _ => false)) 0x7B f.hnd.toNat,
          faultIf (decide (sWide s c f 0 &&& dataMask (f.sub.toNat % 8) ≠ sWide s c f 0)) 0x7D (sWide s c f 0 % 2 ^ 32),
          faultIf (handleBusy s (handleObj s c.ctx f.hnd.toNat)) 0x7C f.hnd.toNat], scope := fun _ _ _ => 0,
      act := fun s c f _ =>
        let x := newHandle s c.ctx (f.sub.toNat % 8) (sWide s c f 0)
        some (setHandle x.2 c.ctx f.hnd.toNat { obj := x.1 }, ctxLat s c.ctx, []) },
    { make := .trdlgMask, child := fun _ => false, checks := fun s c f _ => [extra (sWord s c f 0) 7], scope := fun _ _ _ => 0,
      act := fun s c f _ => some (s.modCtx c.ctx (fun y =>
        if y.depth = 0 then y else { y with mask := maskWord y.mask (sWord s c f 0) (sWord s c f 1) }), ctxLat s c.ctx, []) },
    { make := .trdlgMaskChild, child := fun _ => true, checks := fun s c f _ => [extra (sWord s c f 0) 7], scope := fun _ _ _ => 0,
      act := fun s c f x => some (s.modCtx x (fun y =>
        if y.depth = 0 then y else { y with mask := maskWord y.mask (sWord s c f 0) (sWord s c f 1) }), ctxLat s x, []) },
    { make := .trdlgOff, child := fun _ => false, checks := fun _ _ _ _ => [], scope := fun _ _ _ => 0,
      act := fun s c _ _ => some (s.modCtx c.ctx (fun y => { y with ring := none }), ctxLat s c.ctx, []) },
    { make := .pgret, child := fun _ => false,
      checks := fun s c f _ => [faultIf (decide (sWide s c f 0 % 4096 ≠ 0)) 0x0B (sWide s c f 0 % 2 ^ 57)], scope := fun _ _ _ => 0,
      act := fun s c f _ => some (match stackAddr s c.ctx (sWide s c f 0) with
        | none => (s, ctxLat s c.ctx + 8192, [2])
        | some pa => match retirePage s pa [] with
          | none => (s, ctxLat s c.ctx + 8192, [1])
          | some u => (u, ctxLat s c.ctx + 8192, [0])) },
    { make := .invpgTlb, child := fun _ => false,
      checks := fun s c f _ =>
        let p := ptrPB s c f
        [tablePtr s c f false p.len (decide (p.base % 4096 = 0 ∧ p.len % 4096 = 0)),
          faultIf (decide (2 ^ 56 ≤ p.base ∧ (s.ctxAt c.ctx).depth ≠ 0)) 0x7A (p.base % 2 ^ 32)], scope := fun s c f => (ptrPB s c f).scope,
      act := fun s c f _ => some (dropTlb s (tlbIn s (ptrPB s c f)),
        ctxLat s c.ctx + 16 * ((ptrPB s c f).len / 4096), [0]) },
    { make := .invcxTlb, child := fun f => f.sub.getLsbD 3, checks := fun _ _ _ _ => [], scope := fun _ _ _ => 0,
      act := fun s _ _ x => some (dropTlb s (fun e => decide (e.page / 2 ^ 45 = 2 * x)), ctxLat s x, [0]) },
    { make := .invcxRoot, child := fun f => f.sub.getLsbD 3,
      checks := fun s c f _ => [faultIf (decide (sWide s c f 0 % 4096 ≠ 0 ∨ 2 ^ 43 ≤ sWide s c f 0)) 0x7D (sWide s c f 0 % 2 ^ 32)],
      scope := fun _ _ _ => 0,
      act := fun s c f x => some (dropTlb (s.modCtx x (fun y => { y with s1root := sWide s c f 0 })) (fun e => decide (e.page / 2 ^ 45 = 2 * x)),
        ctxLat s x, [0]) } ]

/-- What a row claims: HND must name a child (0x21), the first failing check traps, a command whose ordering is not met waits,
and one that performs leaves its effect. -/
def CxClaim (p : CxRow) : Prop :=
  ∀ (h : Hdr) (f : F4) (s : State) (c : Chain) (x : Nat), Issues s c →
    (p.child f = true → (∀ y, handleObj s c.ctx f.hnd.toNat ≠ .child y) → exec (p.make h f) s = .next (trapIssue s h 0x21 f.hnd.toNat)) ∧
    ((if p.child f then handleObj s c.ctx f.hnd.toNat = .child x else x = c.ctx) →
      (∀ cause tval, firstFault (p.checks s c f x) = some (cause, tval) → exec (p.make h f) s = .next (trapIssue s h cause tval)) ∧
      (firstFault (p.checks s c f x) = none → ordered c (p.scope s c f) = false → exec (p.make h f) s = .next (waitIssue s)) ∧
      (firstFault (p.checks s c f x) = none → ordered c (p.scope s c f) = true → ∀ u n ws, p.act s c f x = some (u, n, ws) →
        ∃ t, exec (p.make h f) s = .next t ∧ Effected s u t f false true n n ws))

end Sys2Proof.Machine

/-- R435, R437, R439, R442, R444, R445, R447, R450, R452: CXRUN, CXSTOP, the CXGRANTs, PLATSET, HTSET, TRDLG of masks and .off,
PGRET, INVPG.tlb, INVCX.tlb and INVCX.root check, wait, and act as their rows say. CXRUN leaves a stopped child running; CXSTOP
leaves a running one stopping and holds the chain until it has stopped. TRDLG.ring needs a data queue of die or package scope
(0x70), a ring pointer (0x7E) and no unresolved record (0x7C). TRFLT sends a record of the issuer's ring on, at its context,
under a new token, and traps (0x33) on a token that names none. -/
def Obligations.ContextCommands : Prop :=
  (∀ p ∈ cxTable, CxClaim p) ∧
  (∀ (h : Hdr) (f : F4) (s : State) (c : Chain) (x : Nat), Issues s c → ordered c 0 = true → handleObj s c.ctx f.hnd.toNat = .child x →
    (Tab.find s.ctxs x).isSome = true →
    ((s.ctxAt x).st = .stopped → ∃ t, exec (.cxrun h f) s = .next t ∧ (t.ctxAt x).st = .running) ∧
    ((s.ctxAt x).st = .running → ∃ t d, exec (.cxstop h f) s = .next t ∧ (t.ctxAt x).st = .stopping ∧ (t.ctxAt x).out = true ∧
      t.chain? s.sel.chain = some d ∧ d.hold = some x)) ∧
  (∀ (h : Hdr) (f : F4) (s : State) (c : Chain) (o : Nat) (q : Queue) (p : Ptr), Issues s c → handleObj s c.ctx f.hnd.toNat = .queue o →
    q = queueAt s o → p = ptrPB s c f →
    (q.launch = true ∨ (q.scope ≠ 2 ∧ q.scope ≠ 3) → exec (.trdlgRing h f) s = .next (trapIssue s h 0x70 f.hnd.toNat)) ∧
    (q.launch = false → q.scope = 2 ∨ q.scope = 3 →
      (p.valid = true → p.space ≠ 0 ∨ p.fmt ≠ 0 ∨ p.base % 32 ≠ 0 → exec (.trdlgRing h f) s = .next (trapIssue s h 0x7E f.pb.toNat)) ∧
      (operandCheck s f.pb.toNat p (faultIf (!(ringOk p)) 0x7E f.pb.toNat) true p.base p.len true = none →
        ((s.ctxAt c.ctx).ring.any (fun g => !g.busy.isEmpty) = true → exec (.trdlgRing h f) s = .next (trapIssue s h 0x7C f.hnd.toNat)) ∧
        ((s.ctxAt c.ctx).ring.all (fun g => g.busy.isEmpty) = true → ordered c p.scope = true →
          ∃ t, exec (.trdlgRing h f) s = .next t ∧ Effected s (s.modCtx c.ctx (fun y => { y with
            ring := some { ptr := c.readK f.pb.toNat s.sel.t0, n := p.len / 32, next := 0, busy := [], queue := o } })) t f false true
              (ctxLat s c.ctx) (ctxLat s c.ctx) [])))) ∧
  (∀ (h : Hdr) (f : F4) (s : State) (c : Chain), Issues s c →
    ((∀ rid r, findToken s c.part (sWord s c f 0) (inRing c.ctx) = some (rid, r) → r.routed ≠ some c.ctx) →
      ∃ v, exec (.trflt h f) s = .next (trapIssue { s with tick := s.tick + 1 } h 0x33 v)) ∧
    (∀ rid r, findToken s c.part (sWord s c f 0) (inRing c.ctx) = some (rid, r) → r.routed = some c.ctx → ordered c 0 = true →
      ∃ t, exec (.trflt h f) s = .next t ∧ Effected s (decline s rid r) t f false true (ctxLat s c.ctx) (ctxLat s c.ctx) [] ∧
        ∃ r', Tab.find t.recs rid = some r' ∧ r'.token = none ∧ r'.loc = .engine ∧ r'.startFrom = r.ctx ∧
          r'.cause.toNat % 256 = (if r.code = 0x15 then 0x15 else 0x12)))

namespace Sys2Proof.Machine

/-- A command's sweep in state u: its number goes to s(SOP + 2), and its completion word waits for the sweep's end, or is written
at once where there is nothing to sweep (R425, R426). -/
def sweeping (s u : State) (c : Chain) (f : F4) (n frames : Nat) (now : Bool) : Option (State × Nat × List Nat) :=
  (sweepWord u (c.readK f.pb.toNat s.sel.t0) frames now).map (fun x => (x.2, n, [0, 0, x.1]))

/-- The context commands that sweep: as cxTable, but the third word they write is the sweep's number alone. -/
def sweepTable : List CxRow :=
  [ { make := .cxrevokeHandle, child := fun _ => true, checks := fun s c f _ => [donePtr s c f, extra (sWord s c f 0) 0xFF00, extra (sWord s c f 1) 0],
      scope := fun s c f => (ptrPB s c f).scope,
      act := fun s c f x => sweeping s (revoke 9 s x (sWord s c f 0 / 2 ^ 8 % 2 ^ 8)) c f (ctxLat s x) 0 true },
    { make := .cxrevokeCommon, child := fun _ => true, checks := fun s c f _ => [donePtr s c f, extra (sWord s c f 0) 0, extra (sWord s c f 1) 0],
      scope := fun s c f => (ptrPB s c f).scope,
      act := fun s c f x => (sweepKeys (commonKeys s x) s).bind (fun u =>
        sweeping s (u.modCtx x (fun y => { y with common := false })) c f (ctxLat s x) 0 false) },
    { make := .cxrevokeAll, child := fun _ => true,
      checks := fun s c f x => [donePtr s c f, notIn s f x [.stopped], extra (sWord s c f 0) 0, extra (sWord s c f 1) 0],
      scope := fun s c f => (ptrPB s c f).scope,
      act := fun s c f x => (unmapAll s x).bind (fun u =>
        sweeping s ((((u.ctxAt x).handles.map (·.1)).foldl (fun v b => revoke 9 v x b) u).modCtx x (fun y =>
          { y with surv := 0, parc := 0, nchild := 0 })) c f (ctxLat s x) (mappedOf s x (fun _ => true)).length false) },
    { make := .frmap, child := fun _ => true,
      checks := fun s c f x => [donePtr s c f, faultIf (decide ((s.ctxAt x).frlim ≤ sWord s c f 0)) 0x7D (sWord s c f 0),
        faultIf (!(frameV (Cells.get 0 (s.ctxAt c.ctx).frames (sWord s c f 1)))) 0x7A (sWord s c f 1)],
      scope := fun s c f => (ptrPB s c f).scope,
      act := fun s c f x =>
        let a := sWord s c f 0
        let old := Cells.get 0 (s.ctxAt x).frames a
        let new := frameWord (f.sub.getLsbD 0) (sWord s c f 1)
        if frameV old = false then sweeping s (setFrame s x a new) c f (ctxLat s x) 1 true
        else if frameNum old = frameNum new then sweeping s (sweepOne (setFrame s x a new) x [a]) c f (ctxLat s x) 1 false
        else (changeFrames s x [a] new).bind (fun u => sweeping s u c f (ctxLat s x) 1 false) },
    { make := .frunmap, child := fun _ => true,
      checks := fun s c f x => [donePtr s c f, faultIf (decide (sWord s c f 1 = 0 ∨ 65536 < sWord s c f 1)) 0x7D (sWord s c f 1),
        faultIf (decide ((s.ctxAt x).frlim < sWord s c f 0 + sWord s c f 1)) 0x7D ((sWord s c f 0 + sWord s c f 1 - 1) % 2 ^ 32)],
      scope := fun s c f => (ptrPB s c f).scope,
      act := fun s c f x =>
        let fs := mappedOf s x (fun i => decide (sWord s c f 0 ≤ i) && decide (i < sWord s c f 0 + sWord s c f 1))
        (changeFrames s x fs 0).bind (fun u => sweeping s u c f (ctxLat s x) (sWord s c f 1) fs.isEmpty) },
    { make := .migmov, child := fun _ => true,
      checks := fun s c f x => [donePtr s c f,
        faultIf (decide ((s.ctxAt x).frlim ≤ sWord s c f 0) || (frameBase s x (sWord s c f 0)).isNone) 0x7D (sWord s c f 0),
        faultIf (frameBase s c.ctx (sWord s c f 1)).isNone 0x7A (sWord s c f 1)], scope := fun s c f => (ptrPB s c f).scope,
      act := fun s c f x =>
        let a := sWord s c f 0
        (sweepTwo s x [a]).bind (fun u => sweeping s
          (sweepOne (setFrame (moveFrame u ((frameBase s x a).getD 0) ((frameBase s c.ctx (sWord s c f 1)).getD 0)) x a
            (frameWord (frameRA (Cells.get 0 (s.ctxAt x).frames a)) (sWord s c f 1))) x [a]) c f (ctxLat s x) 1 false) } ]

/-- The context commands that read or write memory, but for their completion words. -/
def cxMemTable : List CxRow :=
  [ { make := .cxdel, child := fun _ => true, checks := fun s _ f x => [notIn s f x [.stopped]], scope := fun _ _ _ => 0,
      act := fun s c f x => (deleteAll (s.coreAt s.selCore).lclk (deepestFirst s x) s).map (fun u =>
        (setHandle (startSweep u { part := (s.ctxAt c.ctx).part, num := 0, ctx := c.ctx, done := none, frames := 0, core := s.selCore })
          c.ctx f.hnd.toNat {}, ctxLat s x, [])) },
    { make := .miglogOn, child := fun _ => true,
      checks := fun s c f x => [logPtr s c f, faultIf (s.ctxAt x).mig.isSome 0x78 (f.hnd.toNat + ctxCode (s.ctxAt x).st * 2 ^ 8)],
      scope := fun s c f => (ptrPB s c f).scope,
      act := fun s c f x => (clearLog s c.ctx (c.readK f.pb.toNat s.sel.t0)).map (fun e =>
        (e.1.modCtx x (fun y => { y with mig := some e.2 }), ctxLat s x, [])) },
    { make := .miglogTake, child := fun _ => true,
      checks := fun s c f x => [logPtr s c f, faultIf (s.ctxAt x).mig.isNone 0x78 (f.hnd.toNat + ctxCode (s.ctxAt x).st * 2 ^ 8)],
      scope := fun s c f => (ptrPB s c f).scope,
      act := fun s c f x => (s.ctxAt x).mig.bind (fun g => (flushLog s c.ctx g).bind (fun e =>
        (clearLog e.1 c.ctx (c.readK f.pb.toNat s.sel.t0)).map (fun z =>
          (z.1.modCtx x (fun y => { y with mig := some z.2 }), ctxLat s x, [e.2.mode % 4 * 2 ^ 30 + e.2.count % 2 ^ 30])))) },
    { make := .miglogOff, child := fun _ => true,
      checks := fun s _ f x => [notIn s f x [.stopped], faultIf (s.ctxAt x).mig.isNone 0x78 (f.hnd.toNat + ctxCode (s.ctxAt x).st * 2 ^ 8)],
      scope := fun _ _ _ => 0,
      act := fun s c _ x => (sweepKeys (dirtyOf s x) ((dirtyOf s x).foldl logWrite s)).bind (fun u =>
        (u.ctxAt x).mig.bind (fun g => (flushLog u c.ctx g).map (fun e =>
          (e.1.modCtx x (fun y => { y with mig := none }), ctxLat s x, [e.2.mode % 4 * 2 ^ 30 + e.2.count % 2 ^ 30])))) },
    { make := .invpg, child := fun _ => false,
      checks := fun s c f _ =>
        let p := ptrPB s c f
        [tablePtr s c f false p.len (decide (p.base % 4096 = 0 ∧ p.len % 4096 = 0)),
          faultIf (decide (2 ^ 56 ≤ p.base ∧ (s.ctxAt c.ctx).depth ≠ 0)) 0x7A (p.base % 2 ^ 32)], scope := fun s c f => (ptrPB s c f).scope,
      act := fun s c f _ =>
        let p := ptrPB s c f
        let keys := (cachedKeys s).filter (fun k => !(isPeerKey k) && pageIn s p (pageOfKey k))
        (sweepKeys keys s).map (fun u => (dropTlb u (tlbIn s p), ctxLat s c.ctx + 16 * (p.len / 4096),
          [min (2 ^ 32 - 1) (keys.filter (dirtySector s)).length])) },
    { make := .invcxAll, child := fun f => f.sub.getLsbD 3, checks := fun _ _ _ _ => [], scope := fun _ _ _ => 0,
      act := fun s _ _ x =>
        let keys := (cachedKeys s).filter (fun k => decide (tagOfKey k = 2 * x))
        (sweepKeys keys s).map (fun u =>
          (dropTlb u (fun e => decide (e.page / 2 ^ 45 = 2 * x)), ctxLat s x + 12800 + min (2 ^ 32 - 1) (keys.filter (dirtySector s)).length,
            [min (2 ^ 32 - 1) (keys.filter (dirtySector s)).length])) },
    { make := .cxnew, child := fun _ => false,
      checks := fun s c f _ => [faultIf (decide (handleObj s c.ctx f.hnd.toNat ≠ .empty)) 0x7C f.hnd.toNat, tablePtr s c f false 192 true],
      scope := fun s c f => (ptrPB s c f).scope,
      act := fun s c f _ => match rdBytes s c.ctx s.selCore (s.coreAt s.selCore).lclk (ptrPB s c f) (ptrPB s c f).base 192 with
        | .ok u x => (match newChild u c.ctx (CDesc.of x) with
          | .inl r => some (u, ctxLat s c.ctx, [0, r])
          | .inr id => some (makeChild u c.ctx f.hnd.toNat id (CDesc.of x), ctxLat s c.ctx, [id, 0]))
        | _ => none },
    { make := .dtld, child := fun f => f.sub.getLsbD 0, checks := fun s c f _ => [tablePtr s c f (decide ((ptrPB s c f).len < 4096)) 4096 true],
      scope := fun s c f => (ptrPB s c f).scope,
      act := fun s c f x => match rdBytes s c.ctx s.selCore (s.coreAt s.selCore).lclk (ptrPB s c f) (ptrPB s c f).base 4096 with
        | .ok u y => some (if tableFault (parentTable s x) (tableOf y) = 0 then loadTable u x (tableOf y) else u, ctxLat s x + 4096,
            [tableFault (parentTable s x) (tableOf y)])
        | _ => none } ]

/-- The instructions that read what a context is: what they write of it, and the state they leave. -/
def cxReadTable : List CxRow :=
  let own : F4 → Bool := fun f => !(f.sub.getLsbD 4)
  let pair (v : Nat) : List Nat := [v, v / 2 ^ 32]
  let rd (make : Hdr → F4 → Instr) (child : F4 → Bool) (w : State → Chain → F4 → Nat → State × List Nat) : CxRow :=
    { make, child, checks := fun _ _ _ _ => [], scope := fun _ _ _ => 0, act := fun s c f x => some ((w s c f x).1, ctxLat s x, (w s c f x).2) }
  [ rd .frqryChild (fun _ => true) (fun s c f x =>
      (s, pair (if (s.ctxAt x).frlim ≤ sWord s c f 0 then 0 else (Cells.get 0 (s.ctxAt x).frames (sWord s c f 0)).toNat))),
    rd .frqryComp (fun _ => true) (fun s c f x =>
      (s, pair (if (s.ctxAt x).frlim ≤ sWord s c f 0 then 0 else (compWord (compose s x (sWord s c f 0))).toNat))),
    rd .frqrySelf (fun _ => false) (fun s c f x =>
      (s, pair (if (s.ctxAt x).frlim ≤ sWord s c f 0 then 0 else (compWord (compose s x (sWord s c f 0))).toNat))),
    rd .cxstatState own (fun s _ _ x => (s, [ctxCode (s.ctxAt x).st * 2 ^ 30 + (s.ctxAt x).depth % 16 * 2 ^ 26 + (s.ctxAt x).common.toNat * 2 ^ 25 +
      (if s.recs.any (fun e => decide (e.2.ctx = x) && e.2.open_) then 2 ^ 24 else 0) + x % 2 ^ 14])),
    rd .cxstatFlags own (fun s c f x =>
      if sWord s c f 0 = 255 then (s.modCtx x (fun y => { y with lflags := 0 }), [(s.ctxAt x).lflags.toNat])
      else match (s.ctxAt x).home[sWord s c f 0]? with
        | some site => (s.modSlice site (fun sl => { sl with flags := Cells.set 0 sl.flags x 0 }), [Cells.get 0 (s.sliceAt site).flags x])
        | none => (s, [2 ^ 32 - 1])),
    rd .cxstatCont own (fun s c f x => (s, if sWord s c f 0 ≤ 6 then pair (Cells.get 0 (s.ctxAt x).lost (sWord s c f 0)) else [2 ^ 32 - 1, 2 ^ 32 - 1])),
    rd .cxstatPort own (fun s c f x =>
      (s, if sWord s c f 0 ≤ 5 then
        pair (s.clusters.foldl (fun a e => a + (Tab.get {} e.2.ports (2 * x + sWord s c f 0 % 2)).item (sWord s c f 0 / 2)) 0)
      else [2 ^ 32 - 1, 2 ^ 32 - 1])),
    rd .cxstatPword own (fun s _ _ x => (s, [(s.ctxAt x).port.toNat])) ]

end Sys2Proof.Machine

/-- R425, R426, R435, R439, R440, R449, R452: CXREVOKE, FRMAP, FRUNMAP and MIGMOV check, wait, and act as their rows say: the
sweep's number goes to s(SOP + 2), no other register changes, and the completion word is written at the sweep's end, or at once
where nothing needs a sweep. -/
def Obligations.SweepingCommands : Prop :=
  ∀ p ∈ sweepTable, ∀ (h : Hdr) (f : F4) (s : State) (c : Chain), Issues s c →
    ((∀ y, handleObj s c.ctx f.hnd.toNat ≠ .child y) → exec (p.make h f) s = .next (trapIssue s h 0x21 f.hnd.toNat)) ∧
    (∀ x, handleObj s c.ctx f.hnd.toNat = .child x →
      (∀ cause tval, firstFault (p.checks s c f x) = some (cause, tval) → exec (p.make h f) s = .next (trapIssue s h cause tval)) ∧
      (firstFault (p.checks s c f x) = none → ordered c (p.scope s c f) = false → exec (p.make h f) s = .next (waitIssue s)) ∧
      (firstFault (p.checks s c f x) = none → ordered c (p.scope s c f) = true → ∀ u n ws, p.act s c f x = some (u, n, ws) → u.sel = s.sel → Issues u c →
        ∃ t d, exec (p.make h f) s = .next t ∧ t = { u with chains := t.chains, cores := t.cores } ∧ t.chain? s.sel.chain = some d ∧ MovesOn s c d ∧
          NewMonument s t c.ctx ∧ s.sel.t0 + n ≤ d.elig ∧
          (∀ cell, cell ≠ .s (f.sop.toNat + 2) → ∀ k, d.readAt cell k = c.readAt cell k) ∧
          (NoLater c (.s (f.sop.toNat + 2)) (s.sel.t0 + n) → ∀ k, s.sel.t0 + n ≤ k → d.readS (f.sop.toNat + 2) k = ws.getD 2 0 % 2 ^ 32)))

/-- R436, R438, R443, R448, R450, R451, R441, R437: CXNEW, CXDEL, DTLD, the MIGLOGs, INVPG and INVCX.all check, wait, and act as
their rows say; CXSTAT and FRQRY write what they read, with no monument; CXRUN.launch of a record that is accepted writes its
SURVEYID, and the survey stands in the child's start queue. -/
def Obligations.ContextMemoryCommands : Prop :=
  (∀ p ∈ cxMemTable, CxClaim p) ∧
  (∀ p ∈ cxReadTable, ∀ (h : Hdr) (f : F4) (s : State) (c : Chain) (x : Nat), Issues s c →
    (p.child f = true → (∀ y, handleObj s c.ctx f.hnd.toNat ≠ .child y) → exec (p.make h f) s = .next (trapIssue s h 0x21 f.hnd.toNat)) ∧
    ((if p.child f then handleObj s c.ctx f.hnd.toNat = .child x else x = c.ctx) → ∀ u n ws, p.act s c f x = some (u, n, ws) →
      ∃ t, exec (p.make h f) s = .next t ∧ Effected s u t f false false n n ws)) ∧
  (∀ (h : Hdr) (f : F4) (s : State) (c : Chain) (x o : Nat) (s1 : State) (p : Ptr), Issues s c → handleObj s c.ctx f.hnd.toNat = .child x →
    (o, s1) = startQueue s x → p = ptrPB s c f →
    operandCheck s f.pb.toNat p (if p.space ≠ 0 ∨ p.base % 64 ≠ 0 then some (0x72, f.pb.toNat) else none) false p.base 0 true = none →
    (s.ctxAt x).st ≠ .stopping → survStop s x = none → ordered c (min 2 p.scope) = true → (queueAt s1 o).surveys.length < (queueAt s1 o).cap →
    ∀ u sid, submit s1 { kctx := c.ctx, ctx := x, obj := o, lim := some p.len, clk := stampTo (s.coreAt s.selCore).epoch s.rebase.epoch (s.coreAt s.selCore).lclk, rel := c.top, cx := true }
        (fun v a n => rdBytes v c.ctx s.selCore (s.coreAt s.selCore).lclk p (p.base + a) n) = .ok u (.inr sid) →
      ∃ t, exec (.cxrunLaunch h f) s = .next t ∧ ∃ key v, Tab.find t.surveys key = some v ∧ key % 2 ^ 32 = sid % 2 ^ 32 ∧ v.ctx = x ∧
        v.queue = o ∧ v.next = 0 ∧ (queueAt t o).surveys.getLast? = some key) ∧
  (∀ (h : Hdr) (f : F4) (s u : State) (c : Chain) (x : Nat), Issues s c → handleObj s c.ctx f.hnd.toNat = .child x → (s.ctxAt x).st = .stopped →
    ordered c 0 = true → deleteAll (s.coreAt s.selCore).lclk (deepestFirst s x) s = some u → u.sel = s.sel → Issues u c →
      ∃ t d, exec (.cxdel h f) s = .next t ∧ t.chain? s.sel.chain = some d ∧ d.hold = some (sweepHold u.nextId))


/-! ## Events: chains, parcels and contexts -/

namespace Sys2Proof.Machine

/-- Event id takes message m (R17, R19, R279): the only one of its number on its way, it has passed its ports, its dies are not
fenced from each other, and none of its class about its line was sent before it between them. It leaves state u. -/
structure MsgDue (s u : State) (id : Nat) (m : Msg) : Prop where
  sent : m ∈ s.msgs ∧ m.id = id ∧ ∀ y ∈ s.msgs, y.id = id → y = m
  first : ∀ y ∈ s.msgs, y.id < id → y.cls = m.cls → y.line = m.line → y.src = m.src → y.dst ≠ m.dst
  ports : m.ports = []
  joined : (m.cls, m.src, m.dst) ∉ s.fencedPairs
  rest : u = received s m

/-- The event that takes a message. -/
def MessageEvent (id : Nat) (i : Instr) : Prop :=
  i = .homeRead id ∨ i = .homeWriteLease id ∨ i = .atomicAtHome id ∨ i = .meridianTicket id ∨ i = .publicationFreeze id ∨
    i = .publicationWrite id ∨ i = .ownerWriteBack id ∨ i = .ownershipCleanReturn id ∨ i = .forwardedRead id ∨ i = .ownerDataAnswer id ∨
    i = .goneAnswer id ∨ i = .pageFlush id ∨ i = .backInvalidateResponse id ∨ i = .loadResponse id ∨ i = .storeWriteGrant id ∨
    i = .atomicReturn id ∨ i = .memorySideFaultReturn id ∨ i = .spinParkRegistration id ∨ i = .spinParkWake id ∨ i = .queueOpAtHome id

/-- The rest of the machine's answer to a message is on its way. -/
def Sent (t : State) (b : Body) : Prop := ∃ m ∈ t.msgs, m.body = b

/-- The active chains of a core that met a swap condition (R37), of contexts that have been sent no stop. -/
def leaving (s : State) (core : Nat) : List (Nat × Chain) :=
  let outs := ((issuersOf s core).filter (fun e => e.2.active && mustSwap e.2)).map (·.1)
  (issuersOf s core).filter (fun e => e.2.active && outs.contains e.1)

/-- The events that exchange an active chain for a pending one: the chains that may leave, and those that may come in. -/
def exchangeTable : List ((Nat → Instr) × (State → Nat → List (Nat × Chain)) × (State → Nat → List (Nat × Chain))) :=
  [(.chainSetExchange, leaving, fun s core => (issuersOf s core).filter (fun e =>
      !e.2.active && !((leaving s core).any (fun x => x.1 = e.1)) && mayEnter (s.coreAt core).cc e.2)),
   (.pendingChainPromotion, fun s core => (issuersOf s core).filter (fun e => e.2.active), fun s core => (issuersOf s core).filter (fun e =>
      !e.2.active && mayEnter (s.coreAt core).cc e.2 && decide (since e.2 + 256 ≤ (s.coreAt core).cc)))]

/-- A chain wakes from a spin-park: the sector's next load renews. -/
def unparked (s : State) (ch : Nat) (p : SpinLoad) : State :=
  { (s.modChain ch (fun c => { c with spinPark := none, renew := some p.key, eligSince := (s.coreAt (coreOf ch)).cc })) with
    spins := s.spins.filter (fun r => r.2.2.2.1 ≠ ch) }

/-- The load that parked a chain is of one unit x in one sector, at a scope beyond the cluster, and goes to the home at once: the
core's cluster is of its epoch, no copy of the L1 serves without a renewal, and nothing of the chain's is on its way there. -/
structure Polls (s : State) (ch : Nat) (c : Chain) (p : SpinLoad) (x : LUnit) : Prop where
  load : p.acc.share = 2 ∧ 2 ≤ p.acc.scope ∧ p.acc.nt = false ∧ p.acc.tns = false ∧ p.acc.win = false ∧ p.acc.core = coreOf ch ∧ p.units = [x]
  sector : p.key = keyFor s p.acc.ctx x.va ∧ p.key < 2 ^ 100 ∧ x.va / 64 = (x.va + x.size - 1) / 64
  alone : c.shadow = false ∧ c.pair = none ∧ (∀ w ∈ c.writes, w.key ≠ p.key) ∧ (s.coreAt (coreOf ch)).side = []
  misses : ∀ y, l1Find s (coreOf ch) p.key = some y → y.st = .L
  epoch : (s.clusterAt (clusterOf (coreOf ch))).epoch = (s.coreAt (coreOf ch)).epoch

/-- The parked load is issued again, under the core's next sequence number. -/
def Reissued (s t : State) (ch : Nat) (p : SpinLoad) (x : LUnit) : Prop :=
  let n := (s.coreAt (coreOf ch)).seq
  (t.coreAt (coreOf ch)).seq = n + 1 ∧ (∀ r ∈ t.spins, r.2.2.2.1 ≠ ch) ∧
    Sent t (.read p.acc ch n p.pc p.key (s.coreAt (coreOf ch)).lclk (s.ctxAt p.acc.ctx).lease) ∧
    ∃ d, t.chain? ch = some d ∧ d.spinPark = none ∧ d.renew = some p.key ∧ d.eligSince = (s.coreAt (coreOf ch)).cc ∧
      ∃ o ∈ d.outs, o.seq = n ∧ o.cells = x.cells ∧ o.load = true ∧ o.acq = true ∧ o.lanes = p.lanes

/-- The heads of a partition that may be placed, in the order they are tried (R394); aging is free. -/
def rankedHeads (s : State) (part : Nat) : List (Nat × Nat × Survey) :=
  ((headsOf s part).zipIdx.map (fun x => (effPrio s x.1.2 (Config.freeNat (s.tick + x.2)), x.1))).foldl (fun l x => insertHead x l) []

end Sys2Proof.Machine

/-- R37, R38: a chain-set exchange takes the oldest active chain that must give way and the longest-eligible pending one, a
promotion the oldest active and the longest-eligible pending one that has waited 256 cycles; the two change sets and nothing else
changes. R39, R127: a wake, or 4,096 cycles, ends a spin-park and issues the load again, which renews. R166: JOIN_RELEASE
puts lanes waiting at a JOIN below which no live lane stands at the next word. R167: a chain with no live lane and nothing on its
way ends. R189: a pair that waits 65,536 cycles for its partner traps in both chains. -/
def Obligations.ChainEvents : Prop :=
  (∀ p ∈ exchangeTable, ∀ (core a b : Nat) (s : State) (x y : Chain), s.chain? a = some x → s.chain? b = some y → a ≠ b →
    oldest (p.2.1 s core) = some a → longest (p.2.2 s core) = some b →
    ∃ t, exec (p.1 core) s = .next t ∧ t = { s with chains := t.chains } ∧
      t.chain? a = some { x with active := false, eligSince := (s.coreAt core).cc } ∧
      t.chain? b = some { y with active := true, activeSince := (s.coreAt core).cc } ∧
      ∀ j, j ≠ a → j ≠ b → t.chain? j = s.chain? j) ∧
  (∀ (id : Nat) (s u : State) (m : Msg) (ch : Nat) (c : Chain) (p : SpinLoad), MsgDue s u id m → s.chain? ch = some c → c.spinPark = some p →
    m.body = .spinWake ch p.key →
    (∀ x, Polls u ch c p x → ∃ t, exec (.spinParkWake id) s = .next t ∧ Reissued s t ch p x) ∧
    (∀ t, reload (unparked u ch p) ch p.seq p.acc p.pc p.lanes p.units true = some t → exec (.spinParkWake id) s = .next t) ∧
    (reload (unparked u ch p) ch p.seq p.acc p.pc p.lanes p.units true = none → exec (.spinParkWake id) s = .next s)) ∧
  (∀ (id key ch : Nat) (s u : State) (m : Msg), MsgDue s u id m → m.body = .spinWake ch key →
    (∀ c p, s.chain? ch = some c → c.spinPark = some p → p.key ≠ key) → exec (.spinParkWake id) s = .next u) ∧
  (∀ (core slot : Nat) (s : State) (c : Chain) (p : SpinLoad) (x : LUnit), slot < 16 → s.chain? (16 * core + slot) = some c → c.spinPark = some p →
    (p.since + 4096 ≤ (s.coreAt core).cc → Polls s (16 * core + slot) c p x → ∃ t, exec (.spinParkTimeout core slot) s = .next t ∧ Reissued s t (16 * core + slot) p x) ∧
    ((s.coreAt core).cc < p.since + 4096 → exec (.spinParkTimeout core slot) s = .next s)) ∧
  (∀ (core slot : Nat) (s : State) (c : Chain) (q : Parked), s.chain? (16 * core + slot) = some c → c.parked = [q] → q.why = .join →
    lowerLane c 0 q.pc = false → c.pair = none → c.latch = [] → (∀ l, q.lanes.getLsbD l = true → ∀ x, ¬ Stands c l x) →
    ∃ t d, exec (.joinRelease core slot) s = .next t ∧ t.chain? (16 * core + slot) = some d ∧ d.parked = [] ∧
      (∀ l, l < 32 → q.lanes.getLsbD l = true → OnlyAt d l ((q.pc + 8) % 2 ^ 32)) ∧
      (∀ l, l < 32 → q.lanes.getLsbD l = false → ∀ x, Stands d l x ↔ Stands c l x) ∧ ∀ j, j ≠ 16 * core + slot → t.chain? j = s.chain? j) ∧
  (∀ (core slot : Nat) (s : State) (c : Chain), slot < 16 → s.chain? (16 * core + slot) = some c → c.live = 0 → c.shadow = false → c.pair = none →
    c.outs = [] → c.pend = [] → c.writes = [] → ∃ t, exec (.chainEnd core slot) s = .next t ∧ t.chain? (16 * core + slot) = none) ∧
  (∀ (core slot p x t0 : Nat) (s : State) (c d : Chain), slot < 16 → s.chain? (16 * core + slot) = some c → c.held = some (x, t0) → c.pair = some p →
    s.chain? p = some d → p ≠ 16 * core + slot → coreOf p = core → (∀ e ∈ s.recs, e.2.seq ≠ (s.coreAt core).seq) → c.live ≠ 0 → d.live ≠ 0 →
    ((s.coreAt core).cc < t0 + 65536 → exec (.redundantPairTimeout core slot) s = .next s) ∧
    (t0 + 65536 ≤ (s.coreAt core).cc → ∃ t, exec (.redundantPairTimeout core slot) s = .next t ∧ (t.coreAt core).seq = (s.coreAt core).seq + 1 ∧
      ∀ i, i = p ∨ i = 16 * core + slot → ∃ y, t.chain? i = some y ∧ y.held = none ∧ y.cause.toNat % 256 = 0x1C ∧ ∀ l q, ¬ Stands y l q))

/-- R394 to R400, R315: a placement places the next parcel of the first head, in rank, that fits, and counts it. A parcel's
first issue comes when its bindings have landed; a binding that fails parks its chains with 0x53. A survey whose chains have all
ended is complete, and its completion word, if it has one, is written, once nothing of it is left. R393, R135, R136: a queue
operation at its home takes or adds entries if they fit, entries carrying the sender's clock, and else waits there. -/
def Obligations.ParcelAndQueueEvents : Prop :=
  (∀ (part key : Nat) (s : State) (v : Survey) (x : Fit), Tab.find s.surveys key = some v →
    (rankedHeads s part).findSome? (fun e => (fitOf { s with tick := s.tick + (headsOf s part).length } e.2.2).map (fun y => (e.2, y))) = some ((key, v), x) →
    x.cores.all (fun k => peerEpoch s k) = true →
    ∃ t p, exec (.parcelPlacement part) s = .next t ∧ Tab.find t.surveys key = some { v with next := v.next + 1 } ∧
      t.parcels = s.parcels ++ [p] ∧ p.sid = key ∧ p.pid = v.next ∧ p.teams.map (·.1) = x.cores ∧ p.started = false ∧ p.bind = v.xbind) ∧
  (∀ (sid pid : Nat) (s : State) (p : Parcel) (v : Survey),
    s.parcels.find? (fun q => decide (q.sid = sid) && decide (q.pid = pid) && !q.started) = some p → Tab.find s.surveys sid = some v →
    (∀ u, runPrologue (prologueOf p) s v.ctx = .ok u → ∃ t, exec (.parcelFirstIssue sid pid) s = .next t ∧
      ∀ q ∈ t.parcels, q.sid = sid → q.pid = pid → q.started = true) ∧
    (∀ u i r k, runPrologue (prologueOf p) s v.ctx = .fail u i r k →
      exec (.prologueFailure sid pid) s = .next (startParcel u p (parkProlog (i * 2 ^ 30 + r % 16 * 2 ^ 26 + k % 2 ^ 24))) ∧
      exec (.parcelFirstIssue sid pid) s = .next s)) ∧
  (∀ (sid : Nat) (s : State) (v : Survey), Tab.find s.surveys sid = some v →
    (v.ended < v.gx * v.gy * v.gz → exec (.surveyCompletion sid) s = .next s) ∧
    (v.gx * v.gy * v.gz ≤ v.ended → surveyCmds s v.part (sid % 2 ^ 32) = [] → surveySide s v.part (sid % 2 ^ 32) = false →
      (v.done = 0 → ∃ t, exec (.surveyCompletion sid) s = .next t ∧ Tab.find t.surveys sid = none ∧ t.hbm = s.hbm) ∧
      (∀ u x, v.done ≠ 0 → portPut s v.ctx v.done 8 (2 ^ 63 + (if v.killed then 2 ^ 62 else 0) + v.ended % 2 ^ 25 * 2 ^ 32 + sid % 2 ^ 32) (v.tc + 1) = .ok u x →
        ∃ t, exec (.surveyCompletion sid) s = .next t ∧ Tab.find t.surveys sid = none ∧ t.hbm = u.hbm))) ∧
  (∀ (id : Nat) (s u : State) (m : Msg) (obj : Nat) (o : QOp) (after : List Nat) (q : Queue) (c : Chain), MsgDue s u id m → q = queueAt u obj → q.parked = [] →
    m.body = .queueOp o.chain o.core o.seq o.pc o.prio obj o.kind o.n o.vals o.cells o.lanes o.nb o.hnd after → o.kind ≤ 2 →
    (u.coreAt o.core).epoch = u.rebase.epoch → u.chain? o.chain = some c →
    (o.kind = 0 → (∀ w ∈ c.writes, w.id ∉ after) ∧ ∀ x ∈ c.outs, x.load = true → o.seq ≤ x.seq) →
    q.launch = false → o.n ≤ q.cap →
    ((if o.kind = 0 then q.data.length + o.n ≤ q.cap else o.n ≤ q.data.length) →
      ∃ t d, exec (.queueOpAtHome id) s = .next t ∧ (∀ x, x ≠ obj → queueAt t x = queueAt s x) ∧
        queueAt t obj = { q with data := if o.kind = 0 then q.data ++ o.vals.map (fun v => (v, (s.coreAt o.core).lclk))
          else if o.kind = 1 then q.data.drop o.n else q.data } ∧
        (t.coreAt o.core).lclk = (if o.kind = 0 then (s.coreAt o.core).lclk else (q.data.take o.n).foldl (fun a x => max a x.2) (s.coreAt o.core).lclk) ∧
        t.chain? o.chain = some d ∧ (∀ x ∈ d.outs, x.seq ≠ o.seq) ∧
        (∀ p, o.nb = none → c.pair = none → c.latch = [] → c.parked = [p] → p.why = .queue o.seq → (∀ l, p.lanes.getLsbD l = true → ∀ x, ¬ Stands c l x) →
          d.parked = [] ∧ ∀ l, l < 32 → p.lanes.getLsbD l = true → OnlyAt d l ((p.pc + 8) % 2 ^ 32))) ∧
    (¬ (if o.kind = 0 then q.data.length + o.n ≤ q.cap else o.n ≤ q.data.length) → o.nb = none →
      ∃ t, exec (.queueOpAtHome id) s = .next t ∧ queueAt t obj = { q with parked := [m] } ∧ t.chains = s.chains))

/-- R182, R429, R456: a trap record of no claiming context goes, with the next token, to its partition's mailbox while that has
room; one that a context claims goes to that context's ring. R186, R187: a stopped context is saved whole once its cores can stop,
is then stopped if it was to stop, and comes back when it may. R460: at the end of its slice a contending context is sent a stop and
the next one may come. -/
def Obligations.RecordAndPreemptionEvents : Prop :=
  (∀ (rid : Nat) (s : State) (r : Rec), Tab.find s.recs rid = some r → r.loc = .engine →
    (∀ fn, routeOf s r = none → mailFn s r.part = some fn → ((Tab.get {} s.fns fn).mboxtail + 1) % 64 ≠ (Tab.get {} s.fns fn).mboxhead % 64 →
      ∃ t r', exec (.trapRecordDelivery rid) s = .next t ∧ Tab.find t.recs rid = some r' ∧ r'.loc = .mailbox fn ∧
        r' = { r with token := some (nextToken s r.part), loc := .mailbox fn, routed := none } ∧
        (Tab.get {} t.fns fn).mboxtail = ((Tab.get {} s.fns fn).mboxtail + 1) % 64 ∧
        (Tab.get {} t.fns fn).msix = (Tab.get {} s.fns fn).msix ++ [0] ∧
        Cells.get [] (Tab.get {} t.fns fn).mbox (Tab.get {} s.fns fn).mboxtail = toBytes 32 (recBytes r (nextToken s r.part))) ∧
    (∀ ctx g u, routeOf s r = some ctx → (s.ctxAt ctx).ring = some g → deliverRing s rid r ctx g = some u →
      ∃ r', exec (.trapRecordDelivery rid) s = .next u ∧ Tab.find u.recs rid = some r' ∧ r'.loc = .ring ctx (g.next % max 1 g.n) ∧
        r'.token = some (nextToken s r.part)) ∧
    (∀ ctx g, routeOf s r = some ctx → (s.ctxAt ctx).ring = some g → deliverRing s rid r ctx g = none →
      exec (.trapRecordDelivery rid) s = .next s)) ∧
  (∀ (ctx : Nat) (s : State), (s.ctxAt ctx).out = true →
    (Tab.find s.saved ctx = none → (coresUsed s ctx).all (fun k => canStop s ctx k) = true →
      ∃ t, exec (.preemptStop ctx) s = .next t ∧ (Tab.find t.saved ctx).isSome = true) ∧
    (((subtree s ctx).filter (fun c => (s.ctxAt c).out)).all (fun c => (Tab.find s.saved c).isSome) = true →
      ∃ t, exec (.preemptionComplete ctx) s = .next t ∧
        (t.ctxAt ctx).st = (if (s.ctxAt ctx).st = .stopping then .stopped else (s.ctxAt ctx).st) ∧
        ∀ j c, t.chain? j = some c → c.hold ≠ some ctx)) ∧
  (∀ (ctx : Nat) (s t : State) (m : List (Nat × Nat)), (Tab.find s.saved ctx).isSome = true → (s.ctxAt ctx).out = false → (s.ctxAt ctx).st = .running →
    ((pathUp s ctx).drop 1).all (fun c => !((s.ctxAt c).out || (Tab.find s.saved c).isSome)) = true →
    targets s ctx (byCluster (savedOf s ctx)) [] = some m → islandsAllow s m = true → restoreCtx s ctx m = some t →
    exec (.contextRestore ctx) s = .next t) ∧
  (∀ (ctx nxt : Nat) (s : State), (Tab.find s.ctxs ctx).isSome = true → (Tab.find s.ctxs nxt).isSome = true → (s.ctxAt ctx).st = .running →
    holdsCores s ctx = true → nextSlice s ctx = some nxt → holdsCores s nxt = false →
    ∃ t, exec (.timeSliceExpiry ctx nxt) s = .next t ∧ (t.ctxAt ctx).out = true ∧ (t.ctxAt nxt).out = false ∧
      t = { s with ctxs := t.ctxs, cores := t.cores })


/-! ## Events: the memory system -/

namespace Sys2Proof.Machine

/-- An access of a context finds a sector at its home with nothing before it: no request waits there, no other core's private page
holds it, and no core owns it. s1 is the state once the home has it, s2 once its page is marked, h2 the sector then. -/
structure HomeFree (u s1 s2 : State) (ctx key : Nat) (wr full : Bool) (me : Option Nat) (h2 : HomeSec) : Prop where
  got : ∃ h, homeGet u ctx key wr false full = .ok s1 (.home h) ∧ busySec h = false ∧ h.st ≠ .Z ∧ (wr = true → h.host = false) ∧
    h2 = (homeFind s2 (homeOfKey u key) key).getD h
  page : foreignOwner s1 (homeOfKey u key) key me = none ∧ s2 = (pageClass s1 (homeOfKey u key) key me).1
  own : h2.own = none

/-- A resident sector at its home, in state x: nothing waits for it, no core owns it, it holds no image, the host does not hold it,
its page is shared, the context may name its half, and its line is within its set's sixteen ways. -/
structure AtHome (u : State) (ctx key : Nat) (x : SSt) (h : HomeSec) : Prop where
  found : key < 2 ^ 100 ∧ homeFind u (homeOfKey u key) key = some h
  half : vaOfKey key < 2 ^ 56 ∨ (u.ctxAt ctx).common = true
  free : h.st = x ∧ h.queue = [] ∧ h.own = none ∧ h.cmp = none ∧ h.host = false
  page : pageMark u (homeOfKey u key) (pageOfKey key) = some .shared
  room : ((u.sliceAt (homeOfKey u key)).lru.filter (fun y => y ≠ homeLine (u.sliceAt (homeOfKey u key)) key ∧
    y.2 = (homeLine (u.sliceAt (homeOfKey u key)) key).2)).length < 16

/-- Nothing of a chain holds a write of instruction seq to a sector back: no load before it, no write to the sector before it, none that
a release follows. -/
def Unheld (u : State) (ch seq key : Nat) (after : List Nat) : Prop :=
  ∃ c, u.chain? ch = some c ∧ (∀ w ∈ c.writes, w.id ∉ after ∧ (w.key = key → seq ≤ w.seq)) ∧ ∀ o ∈ c.outs, o.load = true → seq ≤ o.seq

/-- A stamped sector: its data and the write's stamp. -/
def HomeSec.stamped (h : HomeSec) (d : BitVec 512) (t : Nat) : HomeSec := { h with data := d, wts := t, rts := t, dirty := true }

/-- The owner's messages, with the change that each makes to the home's sector; w and r are its stamps as the home reads them. -/
def ownerTable : List ((Nat → Instr) × (Nat → Nat → BitVec 512 → Nat → Nat → Bool → Body) × (Nat → BitVec 512 → HomeSec → Nat → Nat → HomeSec)) :=
  [(.ownerWriteBack, fun key x d w r b => .writeBack key x d w r b, fun x d h w r => if h.own = some x then
      { h with data := d, wts := w, rts := max h.rts r, dirty := true, own := none, st := if h.st = .F then .X else .L } else h),
   (.ownershipCleanReturn, fun key x _ _ r _ => .cleanReturn key x r, fun x _ h _ r => if h.own = some x then
      { h with rts := max h.rts r, own := none, st := if h.st = .F then .X else .L } else h),
   (.ownerDataAnswer, fun key _ d w r _ => .ownerData key d w r, fun _ d h w r => if h.st = .F then
      { h with data := d, wts := w, rts := max h.rts r, dirty := true, own := none, st := .L } else h),
   (.goneAnswer, fun key _ _ w r _ => .gone key w r, fun _ _ h w r => if h.st = .X ∨ h.st = .F then
      { h with wts := max h.wts w, rts := max h.rts r, own := none, st := .L } else h)]

/-- A load's only outstanding unit, of one sector, which goes to one register cell. -/
structure OneUnit (c : Chain) (seq key : Nat) (data : BitVec 512) (o : Out) (x : LUnit) (cell : CellId) (v : Nat) : Prop where
  chain : c.pend = [] ∧ c.pair = none ∧ c.outs = [o]
  out : o.seq = seq ∧ o.units = [x] ∧ ∃ k, x.keys = [(key, k)]
  lands : unitRegs (fillUnit x key data) = ([(cell, v)], 0) ∧ v < 2 ^ 32
  cell : match cell with
    | .s _ => True
    | .g _ l => l < 32
    | _ => False

/-- A chain's load has landed: nothing of it is outstanding, its register holds v and every other register what it held. -/
def Landed (t : State) (ch : Nat) (c : Chain) (cell : CellId) (v : Nat) : Prop :=
  ∃ d, t.chain? ch = some d ∧ d.outs = [] ∧ (∀ n, d.readAt cell n = v) ∧
    ∀ y, y ≠ cell → (match y with
      | .g _ l => l < 32
      | _ => True) → ∀ n, d.readAt y n = c.readAt y n

/-- The L1, or the cluster cache too, has a free way for a sector that it does not hold. -/
def FillRoom (u : State) (core key fill : Nat) : Prop :=
  l1Find u core key = none ∧
    (1 ≤ fill → (((u.coreAt core).lru.filter (fun x => x % 64 = key / 4 % 64)).filter (· ≠ key / 4)).length < 4) ∧
    (fill = 2 → l2Find u (clusterOf core) key = none ∧ (((u.clusterAt (clusterOf core)).lru.filter (fun x => x % 512 = key / 4 % 512)).filter (· ≠ key / 4)).length
      < 16 - (u.clusterAt (clusterOf core)).ways)

end Sys2Proof.Machine

/-- R125, R126, R131, R132, R135, R139, R140, R242: a read of a sector that stands free at its home extends rts to the reader's clock
plus its lease (a synchronising one first takes wts) and is answered with data and stamps; a read of the core's own private page is
answered with no lease. A write, a reduction or an atomic is stamped above both its clock and rts, and answered with the stamp; a
synchronising store that waited below the home goes there with the clock it then finds. The meridian numbers .sc atomics slice by
slice, the designated module those of pod scope, and a slice performs each sequence in its order. -/
def Obligations.HomeRequests : Prop :=
  (∀ (id : Nat) (s u : State) (m : Msg) (acc : Acc) (ch seq pc key clk lease t1 : Nat) (h : HomeSec), MsgDue s u id m →
    m.body = .read acc ch seq pc key clk lease → acc.cv = false → AtHome u acc.ctx key .L h → m.ep = (u.sliceAt (homeOfKey u key)).epoch →
    t1 = (if acc.share = 2 then max clk h.wts else clk) → t1 + lease ≤ stampMax →
    ∃ t, exec (.homeRead id) s = .next t ∧ t.hbm = s.hbm ∧ homeFind t (homeOfKey u key) key = some { h with rts := max h.rts (t1 + lease) } ∧
      Sent t (.readAns acc ch seq key h.data h.wts (if acc.share = 2 then t1 + lease else max h.rts (t1 + lease)) t1 (fillCode acc false) 0)) ∧
  (∀ (id : Nat) (s u s1 s2 : State) (m : Msg) (acc : Acc) (ch seq pc key clk0 lease clk t1 : Nat) (h2 : HomeSec), MsgDue s u id m →
    m.body = .read acc ch seq pc key clk0 lease → acc.cv = false → clkFor u m.ep (u.sliceAt (homeOfKey u key)).epoch clk0 = some clk →
    HomeFree u s1 s2 acc.ctx key false false (if acc.tns then none else some acc.core) h2 → t1 = (if acc.share = 2 then max clk h2.wts else clk) →
    (pageMark s2 (homeOfKey u key) (pageOfKey key) ≠ some (.priv acc.core) →
      (∀ h, homeGet u acc.ctx key false false false = .ok s1 (.home h) → (if acc.share = 2 then max clk h.wts else clk) + lease ≤ stampMax) →
      ∃ t, exec (.homeRead id) s = .next t ∧ homeFind t (homeOfKey u key) key = some { h2 with rts := max h2.rts (t1 + lease) } ∧
        Sent t (.readAns acc ch seq key h2.data h2.wts (if acc.share = 2 then t1 + lease else max h2.rts (t1 + lease)) t1 (fillCode acc false) (match h2.cmp with
          | some xp => xp + 1
          | none => 0))) ∧
    (pageMark s2 (homeOfKey u key) (pageOfKey key) = some (.priv acc.core) → l1Find s2 acc.core key = none →
      ∃ t, exec (.homeRead id) s = .next t ∧ t.slices = s2.slices ∧ Sent t (.readAns acc ch seq key h2.data h2.wts h2.rts clk (fillCode acc true) 0))) ∧
  (∀ (id : Nat) (s u : State) (m : Msg) (acc : Acc) (ch seq pc key wid clk0 clk : Nat) (data : BitVec 512) (mask : BitVec 64)
      (vas : List (Nat × Nat)) (after : List Nat) (h : HomeSec), MsgDue s u id m → m.body = .store acc ch seq pc key wid data mask vas clk0 after →
    acc.nt = true ∨ acc.tns = true ∨ acc.scope = 4 → Unheld u ch seq key after → AtHome u acc.ctx key .L h →
    (if acc.share = 2 then (u.coreAt acc.core).epoch else m.ep) = (u.sliceAt (homeOfKey u key)).epoch →
    clk = (if acc.share = 2 then (u.coreAt acc.core).lclk else clk0) → max clk (h.rts + 1) ≤ stampMax →
    ∃ t, exec (.homeWriteLease id) s = .next t ∧ Sent t (.grant ch acc.core wid (max clk (h.rts + 1))) ∧
      homeFind t (homeOfKey u key) key = some (h.stamped (sectorMerge h.data data mask) (max clk (h.rts + 1)))) ∧
  (∀ (id : Nat) (s u s1 s2 s3 s4 : State) (m : Msg) (acc : Acc) (ch seq pc key wid clk0 clk : Nat) (data : BitVec 512) (mask : BitVec 64)
      (vas : List (Nat × Nat)) (after : List Nat) (h2 h3 : HomeSec), MsgDue s u id m →
    m.body = .store acc ch seq pc key wid data mask vas clk0 after → heldBack u ch seq key after = false →
    clkFor u (if acc.share = 2 then (u.coreAt acc.core).epoch else m.ep) (u.sliceAt (homeOfKey u key)).epoch
      (if acc.share = 2 then (u.coreAt acc.core).lclk else clk0) = some clk →
    HomeFree u s1 s2 acc.ctx key true (decide (mask = BitVec.allOnes 64)) (if acc.tns then none else some acc.core) h2 →
    pageMark s2 (homeOfKey u key) (pageOfKey key) ≠ some (.priv acc.core) →
    s3 = (if acc.nt || acc.tns || decide (acc.scope = 4) then s2 else pushUp s2 acc.core key) →
    expandHome s3 acc.ctx (homeOfKey u key) key ((homeFind s3 (homeOfKey u key) key).getD h2) = (s4, h3) → max clk (h3.rts + 1) ≤ stampMax →
    ∃ t, exec (.homeWriteLease id) s = .next t ∧ Sent t (.grant ch acc.core wid (max clk (h3.rts + 1))) ∧
      (acc.nt || acc.tns || decide (acc.scope = 4) = true → homeFind t (homeOfKey u key) key =
        some (h3.stamped (sectorMerge h3.data data mask) (max clk (h3.rts + 1))))) ∧
  (∀ (id : Nat) (s u : State) (m : Msg) (acc : Acc) (ch seq pc key wid : Nat) (data : BitVec 512) (mask : BitVec 64) (vas : List (Nat × Nat)) (after : List Nat),
    MsgDue s u id m → m.body = .late acc ch seq pc key wid data mask vas after → Unheld u ch seq key after → l1Find u acc.core key = none → 2 ≤ acc.scope →
    exec (.homeWriteLease id) s = .next (send u 0 m.line (siteOf acc.core) (homeOfKey u key) (u.coreAt acc.core).epoch
      (.store acc ch seq pc key wid data mask vas (u.coreAt acc.core).lclk []))) ∧
  (∀ (id : Nat) (s u : State) (m : Msg) (core ctx ch seq space wid : Nat) (bytes : List (Nat × Nat × Nat)) (after : List Nat) (c : Chain),
    MsgDue s u id m → m.body = .lateLocal core ctx ch seq space wid bytes after → u.chain? ch = some c → c.outs = [] →
    (∀ w ∈ c.writes, w.id ∉ after ∧ seq ≤ w.seq) →
    exec (.homeWriteLease id) s = .next (lateDone (bytes.foldl (fun s b => localWrite (logLocal s core ctx seq space b.1 b.2.1) core space b.1 b.2.1 b.2.2) u)
      core ch wid 0 0)) ∧
  (∀ (id : Nat) (s u : State) (m : Msg) (acc : Acc) (ch seq pc va wid lane clk0 clk key old T : Nat) (vas : List (Nat × Nat)) (op : AtomOp)
      (cells : List CellId) (red : Bool) (after : List Nat) (h : HomeSec) (d : BitVec 512) (fl : Flags), MsgDue s u id m →
    m.body = .atom acc ch seq pc va wid lane vas op cells red clk0 after none → acc.win = false → key = keyFor u acc.ctx va →
    Unheld u ch seq key after → AtHome u acc.ctx key .L h →
    (if acc.share = 2 then (u.coreAt acc.core).epoch else m.ep) = (u.sliceAt (homeOfKey u key)).epoch →
    clk = (if acc.share = 2 then (u.coreAt acc.core).lclk else clk0) → T = max clk (h.rts + 1) → T ≤ stampMax → (d, old, fl) = atomData op va h.data →
    ∃ t, exec (.atomicAtHome id) s = .next t ∧ homeFind t (homeOfKey u key) key = some (h.stamped d T) ∧
      (red = true → Sent t (.grant ch acc.core wid T) ∧ Cells.get 0 (t.sliceAt (homeOfKey u key)).flags acc.ctx =
        Cells.get 0 (u.sliceAt (homeOfKey u key)).flags acc.ctx ||| fl.toNat) ∧
      (red = false → Sent t (.atomAns ch acc.core seq wid lane cells old op.fmt op.dw fl T (acc.share = 2)))) ∧
  (∀ (id : Nat) (s u s1 s2 s3 : State) (m : Msg) (acc : Acc) (ch seq pc va wid lane clk0 clk key : Nat) (vas : List (Nat × Nat)) (op : AtomOp)
      (cells : List CellId) (red : Bool) (after : List Nat) (ticket : Option Nat) (h2 : HomeSec) (x : Performed), MsgDue s u id m →
    m.body = .atom acc ch seq pc va wid lane vas op cells red clk0 after ticket → key = atomKey u acc va → heldBack u ch seq key after = false →
    (∀ n, ticket = some n → turnOf (u.sliceAt (homeOfKey u key)) n = n) →
    clkFor u (if acc.share = 2 ∨ ticket.isSome then (u.coreAt acc.core).epoch else m.ep) (u.sliceAt (homeOfKey u key)).epoch
      (if acc.share = 2 ∨ ticket.isSome then (u.coreAt acc.core).lclk else clk0) = some clk →
    HomeFree u s1 s2 acc.ctx key true false none h2 → atomSector s2 acc.ctx (homeOfKey u key) key va op clk h2 = .ok s3 x →
    ∃ t, exec (.atomicAtHome id) s = .next t ∧
      (red = true → Sent t (.grant ch acc.core wid x.stamp)) ∧
      (red = false → Sent t (.atomAns ch acc.core seq wid lane cells x.old op.fmt op.dw x.flags x.stamp (acc.share = 2 || ticket.isSome))) ∧
      (∀ n, ticket = some n → n < 2 ^ 32 → (t.sliceAt (homeOfKey u key)).nextTicket = ((s3.sliceAt (homeOfKey u key)).nextTicket + 1) % 2 ^ 32) ∧
      (∀ n, ticket = some n → 2 ^ 32 ≤ n → (t.sliceAt (homeOfKey u key)).nextPod = ((s3.sliceAt (homeOfKey u key)).nextPod + 1) % 2 ^ 32)) ∧
  (∀ (id : Nat) (s u : State) (m : Msg) (site : Nat) (acc : Acc) (ch seq pc va wid lane clk : Nat) (vas : List (Nat × Nat)) (op : AtomOp)
      (cells : List CellId) (red : Bool) (after : List Nat) (tk : Option Nat), MsgDue s u id m →
    m.body = .ticket site (.atom acc ch seq pc va wid lane vas op cells red clk after tk) →
    (∀ y ∈ s.msgs, ∀ site' acc' ch' seq' pc' va' wid' lane' clk' vas' op' cells' red' after' tk',
      y.body = .ticket site' (.atom acc' ch' seq' pc' va' wid' lane' vas' op' cells' red' clk' after' tk') → y.id < id → ch' ≠ ch ∨ seq' ≠ seq) →
    (acc.scope ≠ 4 ∨ s.designated = s.module → ∃ t, exec (.meridianTicket id) s = .next t ∧
      t.tickets = Cells.set 0 s.tickets site ((Cells.get 0 s.tickets site + 1) % 2 ^ 32) ∧ t.podTickets = s.podTickets ∧
      Sent t (.atom acc ch seq pc va wid lane vas op cells red clk after (some (Cells.get 0 s.tickets site)))) ∧
    (acc.scope = 4 → s.designated ≠ s.module → ∃ t, exec (.meridianTicket id) s = .next t ∧
      t.podTickets = Cells.set 0 s.podTickets site ((Cells.get 0 s.podTickets site + 1) % 2 ^ 32) ∧ t.tickets = s.tickets ∧
      Sent t (.atom acc ch seq pc va wid lane vas op cells red clk after (some (2 ^ 32 + Cells.get 0 s.podTickets site)))))

/-- R132, R154, R144, R454: an owner answers a forward with its sector, of which it keeps a clean copy, or that it has it no
longer; its messages change the home's sector, raising stamps and ending the ownership, and held requests are then served. A
private page's flush leaves it shared, its sectors stamped with the owner's LCLK. The host's answer frees the line. A freeze stops a
sector until its published bytes, merged and stamped tp, arrive. -/
def Obligations.OwnerMessages : Prop :=
  (∀ (id : Nat) (s u : State) (m : Msg) (key x : Nat), MsgDue s u id m → m.body = .forward key x →
    (∀ c, l1Find u x key = some c → c.st = .O → c.pt = 2 → c.umask = 0 → ∃ t, exec (.forwardedRead id) s = .next t ∧
      Sent t (.ownerData key c.data c.wts c.rts) ∧ l1Find t x key = some { c with st := .L, dirty := false }) ∧
    (l1Find u x key = none → ∃ t, exec (.forwardedRead id) s = .next t ∧ t.slices = s.slices ∧
      Sent t (.gone key (Tab.get (0, 0) (s.coreAt x).final key).1 (Tab.get (0, 0) (s.coreAt x).final key).2))) ∧
  (∀ p ∈ ownerTable, ∀ (id : Nat) (s u : State) (m : Msg) (key x w r : Nat) (d : BitVec 512) (b : Bool) (h : HomeSec), MsgDue s u id m →
    m.body = p.2.1 key x d w r b → homeFind u (homeOfKey u key) key = some h → h.queue = [] →
    (m.ep = (u.sliceAt (homeOfKey u key)).epoch →
      ∃ t, exec (p.1 id) s = .next t ∧ homeFind t (homeOfKey u key) key = some (p.2.2 x d h w r)) ∧
    (m.ep ≠ (u.sliceAt (homeOfKey u key)).epoch → (u.sliceAt (homeOfKey u key)).epoch = u.rebase.epoch →
      ∃ t, exec (p.1 id) s = .next t ∧ homeFind t (homeOfKey u key) key = some (p.2.2 x d h (w - 0x400000) (r - 0x400000)))) ∧
  (∀ (id : Nat) (s u t : State) (m : Msg) (key w : Nat) (d : BitVec 512), MsgDue s u id m → m.body = .absorb key d w → absorb? u key d m.ep w = some t →
    exec (.ownerWriteBack id) s = .next t) ∧
  (∀ (id : Nat) (s u : State) (m : Msg) (page core : Nat), MsgDue s u id m → m.body = .pageFlush page core →
    (pageMark u m.src page = some (.priv core) → ∃ t, exec (.pageFlush id) s = .next t ∧ pageMark t m.src page = some .shared ∧
      ((u.coreAt core).epoch = (u.sliceAt m.src).epoch → ∀ key h, homeFind t m.src key = some h → pageOfKey key = page →
        h.wts = (u.coreAt core).lclk ∧ h.rts = (u.coreAt core).lclk)) ∧
    (pageMark u m.src page ≠ some (.priv core) → exec (.pageFlush id) s = .next u)) ∧
  (∀ (id : Nat) (s u : State) (m : Msg) (key : Nat) (h : HomeSec), MsgDue s u id m → m.body = .backInv key →
    homeFind u (homeOfKey u key) key = some h → h.queue = [] →
    ∃ t, exec (.backInvalidateResponse id) s = .next t ∧ homeFind t (homeOfKey u key) key = some { h with host := false }) ∧
  (∀ (id : Nat) (s u : State) (m : Msg) (core rid key r tp : Nat) (ks ws : List Nat) (g : Region) (h : HomeSec), MsgDue s u id m →
    m.body = .freeze core rid key → (u.coreAt core).regions = [g] → g.id = rid → AtHome u g.ctx key .L h → g.pub = some (ks, r, ws) →
    (u.sliceAt (homeOfKey u key)).epoch = (u.coreAt core).epoch →
    (ks.filter (· ≠ key) ≠ [] → ∃ t, exec (.publicationFreeze id) s = .next t ∧
      homeFind t (homeOfKey u key) key = some { h with st := .Z, freezes := h.freezes + 1 } ∧
      (t.coreAt core).regions = [{ g with pub := some (ks.filter (· ≠ key), max r h.rts, ws ++ [key]) }]) ∧
    (ks.filter (· ≠ key) = [] → tp = max (u.coreAt core).lclk (max r h.rts) + 1 → tp ≤ stampMax → ∃ t, exec (.publicationFreeze id) s = .next t ∧
      homeFind t (homeOfKey u key) key = some { h with st := .Z, freezes := h.freezes + 1 } ∧
      (t.coreAt core).regions = [{ g with pub := some ([], tp, ws ++ [key]) }] ∧
      ∀ k ∈ ws ++ [key], ∀ c, l1Find u core k = some c → Sent t (.publish core rid k tp c.udata c.umask))) ∧
  (∀ (id : Nat) (s u s1 s2 t : State) (m : Msg) (core rid key rts : Nat) (g : Region) (h2 : HomeSec), MsgDue s u id m →
    m.body = .freeze core rid key → regionOf u core rid = some g → HomeFree u s1 s2 g.ctx key true false (some core) h2 →
    clkFor s2 (s2.sliceAt (homeOfKey u key)).epoch (s2.coreAt core).epoch h2.rts = some rts →
    frozen (homeSet s2 (homeOfKey u key) key { h2 with st := .Z, freezes := h2.freezes + 1 }) core g key (some rts) = some t →
    exec (.publicationFreeze id) s = .next t) ∧
  (∀ (id : Nat) (s u : State) (m : Msg) (core rid key tp r : Nat) (data : BitVec 512) (mask : BitVec 64) (g : Region) (ks ws : List Nat) (h : HomeSec),
    MsgDue s u id m → m.body = .publish core rid key tp data mask → (u.coreAt core).regions = [g] → g.id = rid → AtHome u g.ctx key .Z h →
    m.ep = (u.sliceAt (homeOfKey u key)).epoch → g.pub = some (ks, r, ws) →
    ∃ t, exec (.publicationWrite id) s = .next t ∧
      homeFind t (homeOfKey u key) key = some { h.stamped (sectorMerge h.data data mask) (max tp h.rts) with
        freezes := h.freezes - 1, st := if h.freezes ≤ 1 then SSt.L else .Z } ∧
      (ws.filter (· ≠ key) = [] → (t.coreAt core).regions = [] ∧ (t.coreAt core).lclk = max (u.coreAt core).lclk r) ∧
      (ws.filter (· ≠ key) ≠ [] → (t.coreAt core).regions = [{ g with pub := some (ks, r, ws.filter (· ≠ key)) }])) ∧
  (∀ (id : Nat) (s u s1 s2 : State) (m : Msg) (core rid key tp0 tp r : Nat) (data : BitVec 512) (mask : BitVec 64) (g : Region) (ks ws : List Nat),
    MsgDue s u id m → m.body = .publish core rid key tp0 data mask → regionOf u core rid = some g →
    clkFor u m.ep (u.sliceAt (homeOfKey u key)).epoch tp0 = some tp → publishAt u g core key tp data mask = some s1 → g.pub = some (ks, r, ws) →
    s2 = noteWrite (clearU s1 core key) (u.sliceAt (homeOfKey u key)).epoch g.chain (Tab.get {} s1.chains g.chain).part (Tab.get {} s1.chains g.chain).sid 2 tp →
    exec (.publicationWrite id) s = .next (serveQueue 64 (if ws.filter (· ≠ key) = [] then closeRegion s2 core g r
      else putRegion s2 core { g with pub := some (ks, r, ws.filter (· ≠ key)) }) (homeOfKey u key) key))

/-- R125, R126, R231, R241, R249, R252, R160, R151, R454, R127: a load's answer raises LCLK to its time if the load synchronises,
fills the caches it may, and its last sector lands its registers; a write's grant and an atomic's answer raise LCLK and end the
write; a load's fault traps its lanes, and a write's retires into the side log while it has room. A spin-park is registered at the
home, or woken at once when the sector has changed. The host, once its ports are up (R466), reads and writes through the home. -/
def Obligations.CoreMessages : Prop :=
  (∀ (id : Nat) (s u : State) (m : Msg) (acc : Acc) (ch seq key wts rts t1 fill cmp v : Nat) (data : BitVec 512) (c : Chain) (o : Out) (x : LUnit) (cell : CellId),
    MsgDue s u id m → m.body = .readAns acc ch seq key data wts rts t1 fill cmp → fill ≤ 2 → acc.core = coreOf ch → m.ep = (u.coreAt acc.core).epoch →
    (u.clusterAt (clusterOf acc.core)).epoch = (u.coreAt acc.core).epoch → u.chain? ch = some c → OneUnit c seq key data o x cell v →
    (u.coreAt acc.core).side = [] → FillRoom u acc.core key fill →
    ∃ t, exec (.loadResponse id) s = .next t ∧ Landed t ch c cell v ∧
      (t.coreAt acc.core).lclk = (if acc.share = 2 then max (u.coreAt acc.core).lclk t1 else (u.coreAt acc.core).lclk) ∧
      (1 ≤ fill → l1Find t acc.core key = some { st := .L, data, wts, rts, exp := decide (cmp ≠ 0) })) ∧
  (∀ (id : Nat) (s u : State) (m : Msg) (acc : Acc) (ch seq key wts0 rts0 t0 fill cmp wts rts t1 : Nat) (data : BitVec 512), MsgDue s u id m →
    m.body = .readAns acc ch seq key data wts0 rts0 t0 fill cmp → clkFor u m.ep (u.coreAt acc.core).epoch wts0 = some wts →
    clkFor u m.ep (u.coreAt acc.core).epoch rts0 = some rts → clkFor u m.ep (u.coreAt acc.core).epoch t0 = some t1 →
    (fill = 0 → acc.share ≠ 2 → (u.clusterAt (clusterOf acc.core)).epoch = (u.coreAt acc.core).epoch →
      (∀ o ∈ (Tab.get {} u.chains ch).outs, o.seq ≠ seq) → exec (.loadResponse id) s = .next u) ∧
    (fill = 0 → (u.clusterAt (clusterOf acc.core)).epoch = (u.coreAt acc.core).epoch → (∀ o ∈ (Tab.get {} u.chains ch).outs, o.seq ≠ seq) →
      acc.share = 2 → exec (.loadResponse id) s = .next (raiseLclk u acc.core t1)) ∧
    (fill = 0 → acc.share ≠ 2 → acc.cv = true → (u.clusterAt (clusterOf acc.core)).epoch = (u.coreAt acc.core).epoch →
      (∃ o ∈ (Tab.get {} u.chains ch).outs, o.seq = seq) → exec (.loadResponse id) s = .next (landUnits u ch seq key data))) ∧
  (∀ (s : State) (ch seq key v : Nat) (c : Chain) (o : Out) (x : LUnit) (data : BitVec 512) (cell : CellId), s.chain? ch = some c →
    OneUnit c seq key data o x cell v → Landed (landUnits s ch seq key data) ch c cell v) ∧
  (∀ (id : Nat) (s u : State) (m : Msg) (ch core wid t1 : Nat) (c : Chain), MsgDue s u id m → u.chain? ch = some c → m.ep = (u.coreAt core).epoch →
    (∀ o ∈ c.outs, o.cells ≠ [] ∨ o.load = true) →
    (m.body = .grant ch core wid t1 → ∃ t, exec (.storeWriteGrant id) s = .next t ∧
      (t.coreAt core) = { u.coreAt core with lclk := max (u.coreAt core).lclk t1 } ∧
      t.chain? ch = some { c with writes := c.writes.filter (fun w => w.id ≠ wid) }) ∧
    (∀ seq lane cells old fmt dw fl sync, m.body = .atomAns ch core seq wid lane cells old fmt dw fl t1 sync →
      ((∀ o ∈ c.outs, o.seq ≠ seq) → ∃ t, exec (.atomicReturn id) s = .next t ∧ (t.coreAt core).lclk = max (u.coreAt core).lclk t1 ∧
        t.chain? ch = some { c with writes := c.writes.filter (fun w => w.id ≠ wid) }) ∧
      (∀ o cell, c.outs = [o] → o.seq = seq → o.cells = [cell] → cells = [cell] → c.pend = [] → c.pair = none → fmt = 4 ∨ fmt = 5 → dw = false → fl = 0 →
        old < 2 ^ 32 → (match cell with
          | .s _ => True
          | .g _ l => l < 32
          | _ => False) →
        ∃ t d, exec (.atomicReturn id) s = .next t ∧ (t.coreAt core).lclk = max (u.coreAt core).lclk t1 ∧ Landed t ch c cell old ∧
          t.chain? ch = some d ∧ d.writes = c.writes.filter (fun w => w.id ≠ wid)))) ∧
  (∀ (id : Nat) (s u : State) (m : Msg) (ch core wid t1 : Nat) (c : Chain) (w : WriteRec) (o : Out), MsgDue s u id m → u.chain? ch = some c → m.ep = (u.coreAt core).epoch →
    m.body = .grant ch core wid t1 → c.writes = [w] → w.id = wid → c.outs = [o] → o.acq = true → o.cells = [] → o.load = false → o.seq = w.seq →
    ∃ t d, exec (.storeWriteGrant id) s = .next t ∧ t.chain? ch = some d ∧ d.writes = [] ∧ d.outs = []) ∧
  (∀ (id : Nat) (s u : State) (m : Msg) (core cause detail : Nat) (e : SideEnt), MsgDue s u id m → m.body = .logged core e cause detail →
    (u.coreAt core).side.length < 512 → ∃ t rid, exec (.memorySideFaultReturn id) s = .next t ∧
      (t.coreAt core).side = insertSide (u.coreAt core).side { e with rid } ∧ t.hbm = u.hbm) ∧
  (∀ (id : Nat) (s u : State) (m : Msg) (acc : Acc) (ch core seq pc cause detail key clk lease ch2 seq2 pc2 tval l : Nat) (lanes : Mask) (c : Chain) (o : Out) (x : LUnit),
    MsgDue s u id m → m.body = .fault ch core seq pc lanes cause tval detail (.read acc ch2 seq2 pc2 key clk lease) → cause < 256 → cause ≠ 0x51 →
    u.chain? ch = some c → c.pair = none → c.parked = [] → (∀ e ∈ u.recs, e.2.chain = ch → e.2.seq ≠ seq) → c.outs = [o] → o.seq = seq → o.units = [x] →
    (∃ k ∈ x.keys, k.1 = key) → x.lane = l → l < 32 → x.va < 2 ^ 64 → (∃ q, Stands c l q) →
    ∃ t d r, exec (.memorySideFaultReturn id) s = .next t ∧ t.chain? ch = some d ∧ d.outs = [] ∧ (∀ q, ¬ Stands d l q) ∧
      (∃ q ∈ d.parked, q.why = .trap u.nextId ∧ q.lanes.getLsbD l = true) ∧ Tab.find t.recs u.nextId = some r ∧ r.cause.toNat % 256 = cause ∧
      r.tval.toNat = x.va ∧ r.tpc.toNat = pc % 2 ^ 32 ∧ r.lanes.getLsbD l = true ∧ r.chain = ch ∧ r.log = false) ∧
  (∀ (id : Nat) (s u : State) (m : Msg) (ch key wts lvl : Nat) (c : Chain) (p : SpinLoad), MsgDue s u id m → m.body = .spinReg ch key wts lvl →
    m.ep = (u.sliceAt (homeOfKey u key)).epoch → u.chain? ch = some c → c.spinPark = some p → p.key = key → key < 2 ^ 100 →
    ((homeFind u (homeOfKey u key) key).map (·.wts) = some wts →
      exec (.spinParkRegistration id) s = .next { u with spins := u.spins ++ [(2, homeOfKey u key, key, ch, wts)] }) ∧
    ((homeFind u (homeOfKey u key) key).map (·.wts) ≠ some wts → ∃ t, exec (.spinParkRegistration id) s = .next t ∧ t.spins = u.spins ∧
      Sent t (.spinWake ch key))) ∧
  (∀ (ctx va n : Nat) (data : List Byte) (s u : State) (x : Nat), hostUp s = true →
    (portBytes s ctx va n 0 none = .ok u x → ∃ t, exec (.hostMemRead ctx va n) s = .next t ∧ t.hbm = u.hbm ∧ t.chains = u.chains ∧
      ∀ k ∈ rangeKeys u ctx va n, ∀ h, homeFind t (homeOfKey u k) k = some h → h.host = true) ∧
    (portPut s ctx va data.length (ofBytes data) 0 = .ok u x → exec (.hostMemWrite ctx va data) s = .next u))

/-- R128, R129: a clock or stamp of 0xC0_0000 or more starts a rebase, or queues one; each core, cluster cache and slice takes part
once, lowering its clock and stamps by 0x40_0000; when all have and no older message is on its way, the rebase is complete. -/
def Obligations.Rebasing : Prop :=
  (∀ s : State, (rebaseDue s = false → exec .rebaseNotice s = .next s) ∧
    (rebaseDue s = true → s.rebase.active = true → exec .rebaseNotice s = .next { s with rebase := { s.rebase with queued := true } }) ∧
    (rebaseDue s = true → s.rebase.active = false → ∃ t, exec .rebaseNotice s = .next t ∧ t.rebase.active = true ∧ t.rebase.epoch = !s.rebase.epoch ∧
      t.cores = s.cores ∧ t.clusters = s.clusters ∧ t.slices = s.slices ∧ t.hbm = s.hbm)) ∧
  (∀ (core : Nat) (s : State), (s.coreAt core).epoch ≠ s.rebase.epoch → ∃ t, exec (.rebaseBroadcastReceipt core) s = .next t ∧
    (t.coreAt core).epoch = s.rebase.epoch ∧ (t.coreAt core).lclk = (s.coreAt core).lclk - 0x400000 ∧ (∀ k, k ≠ core → t.coreAt k = s.coreAt k) ∧
    ∀ key c, Tab.find (t.coreAt core).l1 key = some c → c.st ≠ .Q → ∃ old ∈ (s.coreAt core).l1, old.1 = key ∧ c.wts = old.2.wts - 0x400000 ∧
      c.rts = old.2.rts - 0x400000 ∧ c.data = old.2.data) ∧
  (∀ (i : Nat) (s : State), ((s.clusterAt i).epoch ≠ s.rebase.epoch → ∃ t, exec (.cacheRebaseSweep 1 i) s = .next t ∧
      (t.clusterAt i).epoch = s.rebase.epoch ∧ t = { s with clusters := t.clusters }) ∧
    ((s.sliceAt i).epoch ≠ s.rebase.epoch → ∃ t, exec (.cacheRebaseSweep 2 i) s = .next t ∧ (t.sliceAt i).epoch = s.rebase.epoch ∧
      (∀ key, homeFind t i key = (homeFind s i key).map (fun h => { h with wts := h.wts - 0x400000, rts := h.rts - 0x400000 })) ∧
      t = { s with slices := t.slices })) ∧
  (∀ s : State, s.rebase.active = true → s.cores.all (fun e => e.2.epoch == s.rebase.epoch) = true → s.clusters.all (fun e => e.2.epoch == s.rebase.epoch) = true →
    s.slices.all (fun e => e.2.epoch == s.rebase.epoch) = true → s.msgs.all (fun m => m.ep == s.rebase.epoch) = true → s.rebase.queued = false →
    exec .rebaseComplete s = .next { s with rebase := { s.rebase with active := false } })


/-! ## Events: the engines -/

namespace Sys2Proof.Machine

/-- A command that a cluster's transform engine may step (R300, R303). -/
def XReady (s : State) (cluster id : Nat) (c : Cmd) : Prop := xcmdAt s cluster id = some c ∧ xready s c = true

end Sys2Proof.Machine

/-- R255, R270, R148, R149, R167: a command that completes leaves its queue, its easements end, and its group's status counts it,
takes its flags and keeps the largest stamp, that of its writes at die or package scope apart. A command that stops at a fault stays in its queue with the fault. -/
def Sys2Proof.Machine.CommandEnds : Prop :=
  (∀ (s : State) (c : Cmd) (x : Chain) (upd : Grp → Grp), ownerOf s c = some x → (∀ q ∈ x.parked, q.why ≠ .exitWait) →
    (∀ y ∈ engQueue (complete s c upd) c.eng c.core, y.id ≠ c.id) ∧
    (∀ e ∈ ((complete s c upd).coreAt c.core).ease, e.id ≠ c.id) ∧
    ∃ d, (complete s c upd).chain? c.chain = some d ∧
      (∀ g, g = x.grp c.eng c.grp → d.grp c.eng c.grp =
        upd { g with ncmd := g.ncmd + 1, flags := g.flags ||| c.flags, stamp := max g.stamp c.stamp, top := if c.eng ≠ .tensor ∧ 2 ≤ (ptrAt c.ks 0).scope then max g.top c.stamp else g.top }) ∧
      (∀ g, g ≠ c.grp → d.grp c.eng g = x.grp c.eng g) ∧ ∀ cell n, d.readAt cell n = x.readAt cell n) ∧
  (∀ (s : State) (c y : Cmd) (cause va detail : Nat), y ∈ engQueue s c.eng c.core → y.id = c.id →
    (∀ x, ownerOf s c = some x → ∀ q ∈ x.parked, q.why ≠ .exitWait) →
    { c with stopped := some (cause, va, detail) } ∈ engQueue (stopCmd s c cause va detail) c.eng c.core)

/-- R256, R257, R278, R275, R300 to R312, R321, R322, R331, R333, R340, R347, R350, R361, R379, R384, R285: each engine event acts
on the command that its engine may step: a unit that lands makes its lines present and moves the command on, the last one completes
it; a unit that faults stops it, with the fault. Which of a copy's started units lands next is open (log entry 102). -/
def Sys2Proof.Machine.EngineSteps : Prop :=
  (∀ (core j : Nat) (s w : State) (c : Cmd), nextUnit s core = some (w, c, j) →
    (∀ u c1, copyUnit w c j = .ok u c1 →
      (c1.next < c1.lines → exec (.copyUnitLanding core) s = .next (putCmd (setPresent u core (ptrAt c.ks 0).space (256 * (c.lo / 256 + j)) 256) c1)) ∧
      (c1.lines ≤ c1.next → exec (.copyUnitLanding core) s = .next (ringAfters (complete
        (setPresent u core (ptrAt c.ks 0).space (256 * (c.lo / 256 + j)) 256) c1 (fun g => { g with aux := g.aux + c1.cnt }))))) ∧
    (∀ u e v d, copyUnit w c j = .fault u e v d → exec (.copyUnitLanding core) s = .next w ∧
      exec (.copyFault core) s = .next (if c.stopped.isSome then putCmd u { c with bad := c.bad ++ [j] } else stopCmd u { c with bad := c.bad ++ [j] } e v d))) ∧
  (∀ (ring op ch kind k sop : Nat) (s : State) (c : Chain) (q : Parked) (r : StageRing), Tab.find s.rings ring = some r → r.wait = [(op, ch, kind, k, sop)] →
    s.chain? ch = some c → c.parked = [q] → q.why = .ring op → ringReady s (coreOf ch) kind r k = true → c.pair = none → c.latch = [] → c.pend = [] →
    (∀ l, q.lanes.getLsbD l = true → ∀ x, ¬ Stands c l x) →
    ∃ t d, exec (.ringSlotReady ring) s = .next t ∧ (Tab.get { desc := 0, ctx := 0 } t.rings ring).wait = [] ∧ t.chain? ch = some d ∧ d.parked = [] ∧
      (∀ l, l < 32 → q.lanes.getLsbD l = true → OnlyAt d l ((q.pc + 8) % 2 ^ 32)) ∧
      (kind ≤ 1 → ∀ n, d.readS sop n = r.addr k % 2 ^ 32 ∧ d.readS (sop + 1) n = k % 2 ^ 32)) ∧
  (∀ (clu id : Nat) (s u : State) (c c1 : Cmd), XReady s clu id c → headOf s c = .ok u (0, c1) →
    (∀ v c2, c1.next < c1.units → xformUnit u c1 = .ok v (0, c2) → exec (.transformChunkCommit clu id) s = .next (putCmd v c2)) ∧
    (∀ v r c2 w c3, c1.next < c1.units → xformUnit u c1 = .ok v (r, c2) → r ≠ 0 → putHeader v c2 = .ok w c3 →
      exec (.transformChunkFail clu id) s = .next (xformDone (dropLines w c3) c3 (2 ^ 30 + r % 16 * 2 ^ 26 + c3.chunkNow % 2 ^ 25))) ∧
    (∀ w c3, c1.encodes = false → c1.units ≤ c1.next → putHeader u c1 = .ok w c3 → c3.encodes = false →
      exec (.transformCommandComplete clu id) s = .next (xformDone w c3 (c3.units % 2 ^ 25))) ∧
    (∀ v c2 w c3, c1.encodes = true → xformRest (c1.units - c1.next) u c1 = .ok v (0, c2) → c2.units ≤ c2.next → putHeader v c2 = .ok w c3 →
      ∃ n, exec (.transformCommandComplete clu id) s = .next (xformDone w c3 n) ∧ n < 2 ^ 25)) ∧
  (∀ (clu id r : Nat) (s u : State) (c c1 : Cmd), XReady s clu id c → headOf s c = .ok u (r, c1) → r ≠ 0 →
    ∃ n, exec (.transformCommandComplete clu id) s = .next (xformDone (dropLines { u with tick := u.tick + 1 } c1) c1 (2 ^ 30 + r % 16 * 2 ^ 26 + n)) ∧ n < 2 ^ 24) ∧
  (∀ (clu id : Nat) (s u : State) (c : Cmd), (s.clusterAt clu).xfmq.find? (fun x => decide (x.id = id) && x.done) = some c → peerEpoch s c.core = true →
    postWord s (c.mode - 1) (BitVec.ofNat 32 (c.keep.getD 0 0)) (max c.stamp (s.coreAt c.core).lclk) = some u →
    exec (.streamPost clu id) s = .next (dropCmd u c)) ∧
  (∀ (clu id : Nat) (s u : State) (c c1 : Cmd) (e v d : Nat), XReady s clu id c → xformFault s c = some (u, c1, e, v, d) →
    exec (.transformFault clu id) s = .next (stopCmd u c1 e v d)) ∧
  (∀ (core : Nat) (s : State) (c : Cmd), matHead s core = some c →
    (c.steps = 0 → exec (.mmaStepLanding core) s = .next (matDone (if c.isInit then initRegion s c else s) c)) ∧
    (∀ u c1, c.steps ≠ 0 → matStep s c c.next = .ok u c1 →
      exec (.mmaStepLanding core) s = .next (if c1.next < c1.steps then putCmd u c1 else matDone u c1)) ∧
    (∀ u e v d, c.steps ≠ 0 → matStep s c c.next = .fault u e v d → exec (.matrixFault core) s = .next (stopCmd (unpinNew u c) c e v d))) ∧
  (∀ (core slot : Nat) (s : State), (s.coreAt core).clearing.contains slot = true → (s.coreAt core).ease.all (fun e => decide (e.space ≠ 3 ∨ e.lo / 16384 ≠ slot)) = true →
    ∃ t, exec (.accumulatorSlotCleared core slot) s = .next t ∧ (∀ x ∈ (t.coreAt core).clearing, x ≠ slot) ∧
      ∀ i, Cells.get 0 (t.coreAt core).accm i = if i / 16384 = slot then 0 else Cells.get 0 (s.coreAt core).accm i) ∧
  (∀ (core : Nat) (s : State) (c : Cmd), moveHead s core = some c →
    (∀ h f, c.ins = .azero h f → exec (.accumulatorTransferComplete core) s = .next (matDone (c.keep.foldl (fun v i => zeroSlot v core i) s) c)) ∧
    (∀ u c1, (∀ h f, c.ins ≠ .azero h f) → moveAll (c.moveLines.drop c.next) s c = .ok u c1 →
      exec (.accumulatorTransferComplete core) s = .next (matDone u c1)) ∧
    (∀ u e v d, matHead s core = none → moveAll (c.moveLines.drop c.next) s c = .fault u e v d →
      exec (.matrixFault core) s = .next (stopCmd u (((engQueue u .matrix core).find? (fun x => x.id = c.id)).getD c) e v d))) ∧
  (∀ (core : Nat) (s : State) (c : Cmd), quantHead s core = some c →
    (∀ u c1, c.inPasses = true → withSnapshot s c = .ok u c1 →
      (c1.passes = 0 → exec (.quantisePassEnd core) s = .next (quantDone u c1)) ∧
      (∀ v c2, c1.passes ≠ 0 → quantPass u c1 = .ok v c2 →
        exec (.quantisePassEnd core) s = 
            .next (if c2.next < c2.passes then putCmd v { c2 with started := 0 } else quantDone v c2)) ∧
      (∀ v e a d, c1.passes ≠ 0 → quantPass u c1 = .fault v e a d → exec (.quantiseFault core) s = .next (stopCmd v c1 e a d))) ∧
    (∀ h f u old st, c.ins = .sfold h f → c.next = 0 → foldWord s c = .ok u (old, st) → ∀ c', c' = { c with next := 1, stamp := max c.stamp st, cnt2 := c.cnt2 + (if 0x7F800000 < old then 1 else 0) } →
      exec (.scaleWordFold core) s = .next (putCmd u c')) ∧
    (∀ h f, c.ins = .sfold h f → c.next = 1 → exec (.hclrHpctSfoldCompletion core) s = .next (quantDone s c)) ∧
    (∀ h f, c.ins = .hclr h f → exec (.hclrHpctSfoldCompletion core) s = .next (quantDone (histClear s core (quantHist f)) c)) ∧
    (∀ h f, c.ins = .hpct h f → ownerOf s c = none → exec (.hclrHpctSfoldCompletion core) s = .next (quantDone s c)) ∧
    (∀ h f x, c.ins = .hpct h f → ownerOf s c = some x → x.pair = none → x.pend = [] → (∀ q ∈ x.parked, q.why ≠ .exitWait) →
      ∃ t d, exec (.hclrHpctSfoldCompletion core) s = .next t ∧ t.chain? c.chain = some d ∧
        (∀ n, d.readS f.sop.toNat n = (percentile (histGet s core (quantHist f)) c.qn).1 % 2 ^ 32 ∧
          d.readS (f.sop.toNat + 1) n = (percentile (histGet s core (quantHist f)) c.qn).2 % 2 ^ 32) ∧ ∀ o ∈ d.outs, o.seq ≠ c.seq)) ∧
  (∀ (core : Nat) (s : State) (c : Cmd) (r : TRun), tensorHead s core = some c → runTensor s c = some r →
    (r.bad = none → exec (.tensorCommandComplete core) s = .next (if r.more then putCmd r.s r.c else tensorDone r.s r.c) ∧ exec (.tensorFault core) s = .next s) ∧
    (∀ e v d, r.bad = some (e, v, d) → exec (.tensorFault core) s = .next (stopCmd r.s r.c e v d) ∧ exec (.tensorCommandComplete core) s = .next s))


/-- R148, R149, R167, R255 to R257, R270, R275, R278, R285, R300 to R312, R321, R322, R331, R333, R340, R347, R350, R361, R379, R384: the steps and ends of commands. -/
def Obligations.EngineEvents : Prop := CommandEnds ∧ EngineSteps

/-! ## Events: the package and the host -/

namespace Sys2Proof.Machine

/-- A function's register window. -/
def fnOf (s : State) (fn : Nat) : Fn := Tab.get {} s.fns fn

/-- Nothing but one function's registers has changed. -/
def OnlyFn (s t : State) (fn : Nat) (x : Fn) : Prop := t = { s with fns := t.fns } ∧ fnOf t fn = x ∧ ∀ k, k ≠ fn → fnOf t k = fnOf s k

/-- An island, a link, a Biant port and a CXL port. -/
def islandAt (s : State) (i : Nat) : Island := Cells.get {} s.islands i
def linkAt (s : State) (i : Nat) : Link := Cells.get {} s.links i

/-- The events that come through a CXL port. -/
def HostEvent (i : Instr) : Prop :=
  (∃ ctx va n, i = .hostMemRead ctx va n) ∨ (∃ ctx va d, i = .hostMemWrite ctx va d) ∨ (∃ fn a, i = .doorbell fn a) ∨ (∃ fn n, i = .mboxhead fn n) ∨
  (∃ fn o n, i = .hostRegisterWrite fn o n) ∨ (∃ fn t, i = .tresolveRetry fn t) ∨ (∃ fn t, i = .tresolveSkip fn t) ∨ (∃ fn t, i = .tresolveKill fn t) ∨
  (∃ fn t, i = .tresolveDecline fn t) ∨ (∃ fn a, i = .rootdesc fn a) ∨ (∃ fn n e, i = .rootfa fn n e) ∨ (∃ p r, i = .spdmRequest p r)

end Sys2Proof.Machine

/-- R388, R389, R455 to R458, R426, R466: nothing comes through a CXL port before the last island is up. Then the doorbell submits a record of the root's, and DBSTAT takes the reason of one that is
rejected; MBOXHEAD, MBOXBASE and the function's partition are set; TRESOLVE settles the record of a known token and counts an unknown
one; ROOTDESC makes the root or gives the reason in ROOTSTAT, and stops at an address outside every stack; ROOTFA writes an entry, or
gives 3; a sweep that ends writes its word, or is read by its function. -/
def Obligations.HostEvents : Prop :=
  (∀ (i : Instr) (s : State), HostEvent i → hostUp s = false → exec i s = .next s) ∧
  (∀ (fn addr part ctx obj : Nat) (s u v : State) (p : Part) (x tL : Nat) (b : Sub) (rd : State → Nat → Nat → EngRes Nat), hostUp s = true → (fnOf s fn).part = some part →
    Tab.find s.parts part = some p → p.root = some ctx → addr % 64 = 0 → addr < 2 ^ 57 → tL = Config.freeNat (wakeRoot s part ctx).tick % 0xC00000 →
    u = { wakeRoot s part ctx with tick := (wakeRoot s part ctx).tick + 1 } → survStop u ctx = none →
    rd = (fun w o n => portBytes w ctx (addr + o) n tL none) → rd u 0 64 = .ok v x → doorQueue v ctx (LRec.of x).queue = some obj →
    (queueAt v obj).surveys.length < (queueAt v obj).cap → b = { kctx := ctx, ctx := ctx, obj, lim := none, clk := tL, rel := tL, cx := false } →
    (∀ w sid, submit v b rd = .ok w (.inr sid) → exec (.doorbell fn addr) s = .next w) ∧
    (∀ w r, submit v b rd = .ok w (.inl r) → ∃ t, exec (.doorbell fn addr) s = .next t ∧ OnlyFn w t fn { fnOf w fn with dbstat := r })) ∧
  (∀ (fn n : Nat) (s : State), hostUp s = true → s.errors = [] → ∃ t, exec (.mboxhead fn n) s = .next t ∧ OnlyFn s t fn { fnOf s fn with mboxhead := n % 2 ^ 32 }) ∧
  (∀ (fn off n : Nat) (s : State), hostUp s = true → s.errors = [] →
    (off = 0x010 → n % 4096 = 0 → ∃ t, exec (.hostRegisterWrite fn off n) s = .next t ∧ OnlyFn s t fn { fnOf s fn with mboxbase := n % 2 ^ 64 }) ∧
    (off ≠ 0x010 ∨ n % 4096 ≠ 0 → exec (.hostRegisterWrite fn off n) s = .next s)) ∧
  (∀ (fn part : Nat) (s : State), fn < 100 → (Tab.find s.parts part).isSome = true →
    ∃ t, exec (.functionAssignment fn part) s = .next t ∧ OnlyFn s t fn { fnOf s fn with part := some part }) ∧
  (∀ (fn token part act : Nat) (i : Instr) (s : State), hostUp s = true →
    (i = .tresolveRetry fn token ∧ act = 0) ∨ (i = .tresolveSkip fn token ∧ act = 1) ∨ (i = .tresolveKill fn token ∧ act = 2) → (fnOf s fn).part = some part →
    (findToken s part token (inMailbox fn) = none →
      ∃ t, exec i s = .next t ∧ OnlyFn s t fn { fnOf s fn with badTokens := (fnOf s fn).badTokens + 1 }) ∧
    (∀ rid r t, findToken s part token (inMailbox fn) = some (rid, r) → resolve s rid r act = some t → exec i s = .next t)) ∧
  (∀ (fn token part rid : Nat) (s : State) (r : Rec), hostUp s = true → (fnOf s fn).part = some part → findToken s part token (inMailbox fn) = some (rid, r) →
    (r.lack.isSome = true → exec (.tresolveDecline fn token) s = .next (decline s rid r)) ∧
    (r.lack = none → ∃ t, exec (.tresolveDecline fn token) s = .next t ∧ OnlyFn s t fn { fnOf s fn with badTokens := (fnOf s fn).badTokens + 1 })) ∧
  (∀ (fn addr part : Nat) (s : State) (p : Part), hostUp s = true → (fnOf s fn).part = some part → Tab.find s.parts part = some p → p.root = none →
    (inStack addr 192 = false → exec (.rootdesc fn addr) s = .fault (.noSuchMemory addr)) ∧
    (inStack addr 192 = true → ∀ d, d = CDesc.of (physRead s addr 192) →
      (freeCtx s = none → ∃ t, exec (.rootdesc fn addr) s = .next t ∧ OnlyFn s t fn { fnOf s fn with rootstat := 2 }) ∧
      (∀ id n, freeCtx s = some id → n = d.reason ⟨p.memory.length, p.ylimit, p.surv, p.parc, p.nchild, portRate p.port.toNat⟩ →
        (n ≠ 0 → ∃ t, exec (.rootdesc fn addr) s = .next t ∧ OnlyFn s t fn { fnOf s fn with rootstat := n }) ∧
        (n = 0 → ∃ t, exec (.rootdesc fn addr) s = .next t ∧ (fnOf t fn).rootstat = 0 ∧ Tab.find t.parts part = some { p with root := some id, started := false } ∧
          Tab.find t.ctxs id = some (d.ctx p.memory part 0 0 (rootPlat s p)))))) ∧
  (∀ (fn index part ctx : Nat) (entry : W64) (s : State) (p : Part), hostUp s = true → (fnOf s fn).part = some part → Tab.find s.parts part = some p → p.root = some ctx → (Tab.find s.ctxs ctx).isSome = true →
    (rootEntryOk p entry = false ∨ (s.ctxAt ctx).frlim ≤ index → ∃ t, exec (.rootfa fn index entry) s = .next t ∧ (fnOf t fn).rootstat = 3 ∧ t.ctxs = s.ctxs) ∧
    (rootEntryOk p entry = true → index < (s.ctxAt ctx).frlim → frameV (Cells.get 0 (s.ctxAt ctx).frames index) = false →
      ∃ t, exec (.rootfa fn index entry) s = .next t ∧ (fnOf t fn).sweepNum = (fnOf s fn).sweepNext ∧ (fnOf t fn).sweepDone = true ∧
        ∀ i, Cells.get 0 (t.ctxAt ctx).frames i = if i = index then entry else Cells.get 0 (s.ctxAt ctx).frames i) ∧
    (∀ u, rootEntryOk p entry = true → index < (s.ctxAt ctx).frlim → writeRoot s ctx index entry = some (u, false) → (fnOf u fn) = fnOf s fn →
      ∃ t, exec (.rootfa fn index entry) s = .next t ∧ (fnOf t fn).sweepNum = (fnOf s fn).sweepNext ∧ (fnOf t fn).sweepDone = false ∧ t.ctxs = u.ctxs ∧
        ∃ e ∈ t.sweeps, e.2.fn = some fn ∧ e.2.num = (fnOf s fn).sweepNext)) ∧
  (∀ (id : Nat) (s : State) (w : Sweep), Tab.find s.sweeps id = some w →
    (∀ k t, w.done = some k → putWord { s with sweeps := Tab.erase s.sweeps id } w.ctx k w.num w.frames = some t → exec (.sweepComplete id) s = .next t) ∧
    (w.done = none → w.fn = none → ∃ t, exec (.sweepComplete id) s = .next t ∧ Tab.find t.sweeps id = none ∧
      ∀ j c, t.chain? j = some c → c.hold ≠ some (sweepHold id)) ∧
    (∀ fn, w.done = none → w.fn = some fn → ∃ t, exec (.sweepComplete id) s = .next t ∧ Tab.find t.sweeps id = none ∧
      fnOf t fn = { fnOf s fn with sweepDone := (fnOf s fn).sweepDone || decide ((fnOf s fn).sweepNum = w.num) }))

/-- R432, R458, R459, R461, R471: partitions are created from free clusters and reset to nothing, a page is retired to a spare or
fenced, a core with an uncorrectable error is fenced. R15 to R19, R462, R466 to R468, R453: rails fail over to the spare, links lose
classes, islands come up in order or are fenced, throttle and count, and ports fall back. R463, R469, R470: the module's number and
routes, firmware and SPDM replies. R279, R280: each fc refills a bucket by RATE up to 64·DEPTH, a beat costs 64, and a
message passes the port with it. R17, R19, R25: a message that is fenced, at a port or behind another of its line is not taken, and
one that is taken counts the slots it lost, how many being open (log entry 86), and its other route. -/
def Obligations.PackageEvents : Prop :=
  (∀ (d : PartDesc) (s : State), (partOk s d = true → exec (.partitionCreate d) s = .next { s with parts := Tab.put s.parts d.id (newPart d) }) ∧
    (partOk s d = false → exec (.partitionCreate d) s = .next s)) ∧
  (∀ (part : Nat) (scrub : Bool) (s : State) (p : Part), Tab.find s.parts part = some p → ∃ t, exec (.partitionReset part scrub) s = .next t ∧
    (∀ e ∈ t.ctxs, e.2.part ≠ part) ∧ (∀ e ∈ t.chains, e.2.part ≠ part) ∧ (∀ e ∈ t.surveys, e.2.part ≠ part) ∧ (∀ e ∈ t.recs, e.2.part ≠ part) ∧
    Tab.find t.parts part = some { p with root := none, started := false, nextSid := 1, nextSweep := 1, nextToken := 1 } ∧
    (scrub = false → t.hbm = s.hbm)) ∧
  (∀ (site page : Nat) (bad : List Nat) (s : State), inStack (site * 2 ^ 36 + page * 4096) 4096 = true →
    (∀ t, retirePage s (site * 2 ^ 36 + page * 4096) bad = some t → exec (.pageRetirement site page bad) s = .next t) ∧
    (retirePage s (site * 2 ^ 36 + page * 4096) bad = none → ∃ t, exec (.pageRetirement site page bad) s = .next t ∧ t = { s with slices := t.slices } ∧
      (t.sliceAt site).fencedPages.contains ((site * 2 ^ 36 + page * 4096) / 4096) = true)) ∧
  (∀ (core cause : Nat) (s : State), isCompute (siteOf core) = true → ∃ t, exec (.containedError core cause) s = .next t ∧ (t.coreAt core).fenced = true ∧
    t.offCores.contains core = true ∧ (cause, core) ∈ t.uzosa.log ∧
    ∀ ch c, s.chain? ch = some c → coreOf ch = core → (Tab.find s.ctxs c.ctx).isSome = true → (cause, core) ∈ (t.ctxAt c.ctx).reports) ∧
  (∀ (link rail : Nat) (s : State), (linkEnds link).isSome = true → rail < 16 → ∃ t, exec (.railFailure link rail) s = .next t ∧
    linkAt t link = failRail (linkAt s link) rail ∧ (∀ k, k ≠ link → linkAt t k = linkAt s k) ∧
    ((failRail (linkAt s link) rail).fenced = (linkAt s link).fenced → t = { s with links := t.links, uzosa := t.uzosa })) ∧
  (∀ (port ctx cls : Nat) (s : State), port < 16 → (Tab.find s.ctxs ctx).isSome = true → ∃ t, exec (.linkFlitReplay port ctx cls) s = .next t ∧
    (Cells.get {} t.ports port).replays = (Cells.get {} s.ports port).replays + 1 ∧
    Cells.get 0 (t.ctxAt ctx).lost cls = Cells.get 0 (s.ctxAt ctx).lost cls + 1 ∧ t = { s with ports := t.ports, ctxs := t.ctxs }) ∧
  (∀ (i : Nat) (s : State), i < 16 →
    (∃ t, exec (.islandLockLoss i) s = .next t ∧ islandAt t i = { islandAt s i with lockLost := true } ∧ ∀ l ∈ stitchLinks i, (linkAt t l).fenced = List.range 7) ∧
    (∀ mA, ∃ t, exec (.currentMonitorSample i mA) s = .next t ∧ t = { s with islands := t.islands } ∧
      islandAt t i = (if 2000000 < mA then { islandAt s i with sample := mA, throttled := true, events := (islandAt s i).events + 1 }
        else { islandAt s i with sample := mA }) ∧ ∀ k, k ≠ i → islandAt t k = islandAt s k) ∧
    (∃ t, exec (.islandThrottleEnd i) s = .next t ∧ t = { s with islands := t.islands } ∧ islandAt t i = { islandAt s i with throttled := false } ∧
      ∀ k, k ≠ i → islandAt t k = islandAt s k)) ∧
  (∀ (ok : BitVec 16) (s : State), s.islands = [] → ∃ t, exec (.islandBringUp ok) s = .next t ∧ t.offCores = Config.failedCores ∧
    (∀ i, i < 16 → islandAt t i = (if ok.getLsbD i then { up := true } else { fenced := true })) ∧
    ∀ x, x < 256 → (x ∈ t.offSites ↔ x ∈ disabledSites ∨ ok.getLsbD (islandOf x) = false)) ∧
  (∀ (port : Nat) (req : List Byte) (s : State), hostUp s = true → port < 4 → ∃ m, exec (.spdmRequest port req) s =
    .next { s with uzosa := { s.uzosa with replies := s.uzosa.replies ++ [(port, m ++ Config.edSign m)] } } ∧
    m = req ++ s.uzosa.images.flatMap (fun i => Config.sha512 i.2) ++ Config.sha512 (fuseState s) ++ Config.sha512 (partitionMap s)) ∧
  (∀ (image manifest : List Byte) (version : Nat) (own : Bool) (s : State),
    (s.uzosa.secver ≤ version → version ≤ 64 → (own || s.uzosa.ownVerified) = true →
      ∃ t, exec (.firmwareLoad image version manifest own) s = .next t ∧
        if Config.edVerify (Config.sha512 image) manifest = true then t = { s with uzosa := t.uzosa } ∧
          t.uzosa.images = s.uzosa.images ++ [(version, image)] ∧ t.uzosa.secver = version ∧ t.uzosa.ownVerified = (s.uzosa.ownVerified || own)
        else t = s) ∧
    (version < s.uzosa.secver ∨ 64 < version ∨ (own || s.uzosa.ownVerified) = false → exec (.firmwareLoad image version manifest own) s = .next s)) ∧
  (∀ (clu : Nat) (dir : Bool) (s : State) (x : Nat), x ∈ portCtxs s clu → (s.clusterAt clu).beats = [] → ∀ b n, b = Tab.get {} (s.clusterAt clu).ports (2 * x + dir.toNat) →
    n = refill (s.ctxAt x).port.toNat b →
    (n = { b with t := min (64 * portDepth (s.ctxAt x).port.toNat) (b.t + portRate (s.ctxAt x).port.toNat), d := n.d }) ∧
    ((∀ m ∈ s.msgs, m.ports.head? ≠ some (clu, dir.toNat)) →
      (∃ t, exec (.portTokenRefill clu dir []) s = .next t ∧ t = { s with clusters := t.clusters } ∧
        Tab.get {} (t.clusterAt clu).ports (2 * x + dir.toNat) = n) ∧
      (∀ cls, cls < 7 → 64 ≤ n.t → ∃ t, exec (.portTokenRefill clu dir [(x, cls)]) s = .next t ∧ t = { s with clusters := t.clusters } ∧
        Tab.get {} (t.clusterAt clu).ports (2 * x + dir.toNat) = { n with t := n.t - 64 })) ∧
    (∀ m, s.msgs.filter (fun y => decide (y.ports.head? = some (clu, dir.toNat))) = [m] → m.id ≠ 0 → m.cls < 7 → bodyCtx s m.body = some x → 64 ≤ n.t →
      ∃ t, exec (.portTokenRefill clu dir []) s = .next t ∧ t.msgs = s.msgs.map (fun y => if y = m then { y with ports := y.ports.tail } else y) ∧
        Tab.get {} (t.clusterAt clu).ports (2 * x + dir.toNat) = { n with t := n.t - 64 })) ∧
  (∀ (id : Nat) (s : State) (i : Instr), MessageEvent id i → (∃ t, exec i s = .next t) ∧
    ∀ m, findMsg s id = some m → (m.cls, m.src, m.dst) ∈ s.fencedPairs ∨ m.ports ≠ [] ∨
      (∃ y ∈ s.msgs, y.id < m.id ∧ y.cls = m.cls ∧ y.line = m.line ∧ y.src = m.src ∧ y.dst = m.dst) → exec i s = .next s) ∧
  (∀ (s : State) (m : Msg) (ctx n : Nat) (c : Ctx), bodyCtx s m.body = some ctx → Tab.find s.ctxs ctx = some c →
    n = m.cls * 2 ^ 16 + hops m.src m.dst * 2 ^ 8 + stitches m.src m.dst →
    (received s m).msgs = s.msgs.filter (fun y => y.id ≠ m.id) ∧
    Cells.get 0 ((received s m).ctxAt ctx).lost m.cls = Cells.get 0 c.lost m.cls + (if contended s m then Config.lostSlots m.id else 0) ∧
    Cells.get 0 ((received s m).ctxAt ctx).rerouted n =
      Cells.get 0 c.rerouted n + (if routeOpen s m.cls (route m.src m.dst true) then 0 else 1)) ∧
  (∀ (port lanes rate : Nat) (s : State), port < 4 → lanes = 16 ∨ lanes = 8 → rate = 128 ∨ rate = 64 ∨ rate = 32 → lanes ≤ (Cells.get {} s.cxl port).lanes →
    rate ≤ (Cells.get {} s.cxl port).rate → ∃ t, exec (.cxlLaneFailure port lanes rate) s = .next t ∧ t = { s with cxl := t.cxl } ∧
      Cells.get {} t.cxl port = { Cells.get {} s.cxl port with lanes, rate }) ∧
  (∀ (m d : Nat) (routes : List (Nat × Nat)) (s : State), m < 64 → d < 64 → ∃ t, exec (.podFormation m d routes) s = .next t ∧ t.module = m ∧ t.designated = d ∧
    t = { s with module := t.module, designated := t.designated, routes := t.routes } ∧
    ∀ a b, (a, b) ∈ routes → a < 64 → b < 16 → (∀ c, (a, c) ∈ routes → c = b) → Cells.get 0 t.routes a = b)

/-! ## Decoding, steps, and what holds of every state -/

namespace Sys2Proof.Machine

/-- Guard p7 and a stall count. -/
def plainHdr (stall : BitVec 4) : Hdr := { gneg := false, guard := 7, stall }

/-- Words that the spec writes out, of every family, each with the instruction that it stands for. -/
def exampleWords : List (W64 × Instr) :=
  [(0x64C8FFFFFFEA8000, .bra { gneg := true, guard := 2, stall := 0 } { fp := 100, tp := 200, woff := -6 }),
   (0x002180090805C009,
    .pset (plainHdr 0) { rnd := 0, sub := 2, ty := 1, ub := true, ua := false, c := 0, b := 9, a := 4, d := 1 }),
   (0x123456780011C018, .sldi (plainHdr 0) { imm := 0x12345678, a := 0, d := 4 }),
   (0x0000002C3025C01F, .qrecv (plainHdr 0) { nb := true, pw := 3, ds := false, data := 12, hnd := 9 }),
   (0x000B01820211D118,
    .ffma (plainHdr 4) { rnd := 0, sub := 0, ty := 11, ub := false, ua := false, c := 3, b := 2, a := 1, d := 4 }),
   (0x001180070C15C900,
    .iadd (plainHdr 2) { rnd := 0, sub := 1, ty := 1, ub := true, ua := false, c := 0, b := 7, a := 6, d := 5 }),
   (0x1400020144204607,
    .ld { gneg := false, guard := 1, stall := 1 }
      { nt := false, udata := false, loff := true, dw := false, vc := 2, off := 16, lane := 5, ptr := 2, data := 8 }),
   (0x000180011001C280, .cpy (plainHdr 0) { imm := 3, nb := false, pw := 0, sub := 0, sop := 2, pb := 4, hnd := 0 }),
   (0x000060000015C2A5, .xwait (plainHdr 0) { imm := 0, nb := true, pw := 4, sub := 0, sop := 0, pb := 0, hnd := 5 }),
   (0x000480000001C2C2, .arel (plainHdr 0) { imm := 9, nb := false, pw := 0, sub := 0, sop := 0, pb := 0, hnd := 0 }),
   (0x000200031001C2E5, .dqnt (plainHdr 0) { imm := 4, nb := false, pw := 0, sub := 0, sop := 6, pb := 4, hnd := 0 }),
   (0x000000251005C304, .thalo (plainHdr 0) { imm := 0, nb := false, pw := 0, sub := 1, sop := 10, pb := 4, hnd := 1 }),
   (0x000048060805C320, .launch (plainHdr 0) { imm := 0, nb := true, pw := 1, sub := 0, sop := 12, pb := 2, hnd := 1 }),
   (0x000002240001C345, .cxstatFlags (plainHdr 0) { imm := 0, nb := false, pw := 0, sub := 17, sop := 8, pb := 0, hnd := 0 })]

end Sys2Proof.Machine

/-- R57 to R63, R78 and the words each entry writes out: under map 1 these words decode to the instructions they stand for. -/
def Obligations.DecodeWords : Prop :=
  exampleWords.all (fun e => decide (decodeWord none e.1 = .instr e.2)) = true

/-- R57 to R63, R78, R79: the words that map 1 decodes are the encodings of the well-formed instructions, each of its own
instruction alone; a word with no valid entry, reserved bits set or illegal fields is none of them. -/
def Obligations.DecodeEncode : Prop :=
  (∀ (i : Instr) (w : W64), encode i = some w → WellFormed i → decodeWord none w = .instr i) ∧
  (∀ (i : Instr) (w : W64), decodeWord none w = .instr i → encode i = some w ∧ WellFormed i)

namespace Sys2Proof.Machine

/-- A core's turn comes to a word of chain ch: with the lanes that JOIN releases gone on and the sets arranged, that chain is first in the core's order, stands at one entry below its code's
end, its word there is w, in the core's fetch buffer, whose guard is settled and has lanes; v is the state in which it is
judged. The chain is of no pair and does not check its stall counts. -/
structure AtWord (s : State) (core ch : Nat) (c : Chain) (w : W64) (v : State) : Prop where
  reached : ∃ rest u cp e, s.turns = .core core :: rest ∧ (s.coreAt core).fenced = false ∧
    u = arrange exec (releaseJoins { s with turns := rest } core) core ∧
    (issueOrder ((issuersOf u core).filter (fun x => x.2.active && mayIssue (u.coreAt core).cc x.2))).head? = some ch ∧
    coreOf ch = core ∧ (commit u ch).chain? ch = some c ∧ c.frontier = [e] ∧ e.rot = false ∧ e.pc < 8 * c.kern.nwords ∧
    Tab.find ((commit u ch).coreAt core).fbuf (keyFor (commit u ch) c.ctx (c.kern.base + e.pc)) = some cp ∧
    w = BitVec.ofNat 64 (sectorBytes cp.data ((c.kern.base + e.pc) % 64) 8) ∧
    v.sel.act = guardLanes c v.sel.t0 (hdrOf w) e.lanes ∧
    v = { commit u ch with sel := { chain := ch, word := w, pc := e.pc, prio := e.prio, entry := e.lanes, act := v.sel.act, pack := v.sel.act,
                                    t0 := ((commit u ch).coreAt core).cc, seq := ((commit u ch).coreAt core).seq } }
  guard : outstanding c v.sel.t0 (.p (hdrOf w).guard.toNat) = false
  lanes : v.sel.act ≠ 0
  alone : c.pair = none ∧ c.chksb = false

/-- The internal operation of a word in its context's decode table. -/
def iopOf (s : State) (c : Chain) (w : W64) : Nat :=
  ((tableEntry (s.ctxAt c.ctx).dtab (w.extractLsb' 0 10).toNat).extractLsb' 12 10).toNat

/-- What follows an issue at its boundary: a log that is too full is taken anew (R185), and what both chains of a pair have issued is
forgotten (R188). -/
def boundary (t : State) (core : Nat) : State := tidyAhead (spillLogs t core) core

/-- What an instruction's registers and the wide unit allow (R45, R68, R193). -/
def Unhindered (v : State) (c : Chain) (i : Instr) (w : W64) : Prop :=
  missingReg c (usesIn c v.sel.t0 i) = none ∧
    (∀ r ∈ (usesIn c v.sel.t0 i).reads ++ (usesIn c v.sel.t0 i).writes, outstanding c v.sel.t0 r = false) ∧
    (wideUnit (iopOf v c w) (bits w.toNat 51 48) = true → (v.coreAt v.selCore).wideFree ≤ v.sel.t0)

end Sys2Proof.Machine

/-- R36, R40, R45, R68, R73, R79, R155: a step whose turn is a core's and whose chain stands at a word that decodes, in its
context's table, to a well-formed instruction of its role runs that instruction, with the wide unit taken if it needs it; a word
that does not decode takes the trap that R79 names, in its order. An event's turn runs the event. -/
def Obligations.StepRuns : Prop :=
  (∀ (s v : State) (core ch : Nat) (c : Chain) (w : W64), AtWord s core ch c w v →
    (∀ (i : Instr) (v2 : State), decodeWord (v.ctxAt c.ctx).dtab w = .instr i → roleAllows c.kern.role (iopOf v c w) = true → Unhindered v c i w →
      v2 = (if wideUnit (iopOf v c w) (bits w.toNat 51 48) then takeWide v (groupsOf v.sel.pack) else v) →
      (∀ t, exec i v2 = .next t → t.sel.waited = false → step s = .next (boundary t core)) ∧ (∀ x, exec i v2 = .fault x → step s = .fault x)) ∧
    (decodeWord (v.ctxAt c.ctx).dtab w = .empty → step s = .next (boundary (trapIssue v (hdrOf w) 0x22 w.toNat) core)) ∧
    (∀ i, decodeWord (v.ctxAt c.ctx).dtab w = .reserved i → step s = .next (boundary (trapIssue v (hdrOf w) 0x02 w.toNat) core)) ∧
    (∀ i, decodeWord (v.ctxAt c.ctx).dtab w = .illegal i → roleAllows c.kern.role (iopOf v c w) = true →
      step s = .next (boundary (trapIssue v (hdrOf w) 0x01 w.toNat) core)) ∧
    (∀ i, (decodeWord (v.ctxAt c.ctx).dtab w = .illegal i ∨ decodeWord (v.ctxAt c.ctx).dtab w = .instr i) →
      roleAllows c.kern.role (iopOf v c w) = false → step s = .next (boundary (trapIssue v (hdrOf w) 0x01 (w.extractLsb' 0 10).toNat) core))) ∧
  (∀ (s : State) (i : Instr) (rest : List Turn), s.turns = .event i :: rest → encode i = none →
    step s = exec i { s with turns := rest })

/-- R43, R123, R257, R426, R429, R466: the machine right after reset: nothing is brought up, no context, chain, queue or command
exists and no cache holds anything; every core's BUDGET reads 0x0000_6006, its clock 0 and its presence bits 1; a function's
sweep numbers start at 1. That HBM reads 0 is the model's choice (log entry 1). -/
def Obligations.ResetValues : Prop :=
  (State.reset.chains = [] ∧ State.reset.ctxs = [] ∧ State.reset.parts = [] ∧ State.reset.queues = [] ∧ State.reset.surveys = [] ∧
    State.reset.recs = [] ∧ State.reset.msgs = [] ∧ State.reset.tensors = []) ∧
  (∀ k, budgetReg (State.reset.coreAt k) (lowered State.reset k) = 0x6006 ∧ lclkReg (State.reset.coreAt k) = 0 ∧
    (State.reset.coreAt k).l1 = [] ∧ (State.reset.coreAt k).absW = [] ∧ (State.reset.coreAt k).absA = [] ∧
    (State.reset.coreAt k).copyq = [] ∧ (State.reset.coreAt k).matq = []) ∧
  (∀ m, (State.reset.sliceAt m).secs = [] ∧ (State.reset.sliceAt m).tlb = []) ∧
  (∀ i, (islandAt State.reset i).up = false) ∧ (∀ n, (fnOf State.reset n).sweepNext = 1) ∧ ∀ a, byteAt State.reset a = 0

/-- The canonical form of memory (R13, R464) is kept by every step, whatever turn it takes: HBM's bytes and those of peer frames
stand at rising addresses, and none is listed with what an unlisted byte reads as. -/
def Obligations.StepKeepsMemory : Prop :=
  (∀ (s t : State), Memory.wf s.hbm = true → Memory.wf s.peer = true → step s = .next t → Memory.wf t.hbm = true ∧ Memory.wf t.peer = true) ∧
  Memory.wf State.reset.hbm = true ∧ Memory.wf State.reset.peer = true
end

