-- ==== Sys2Proof/Laws/Cells.lean ====
section
/-!
SUPPORT. Laws of sparse cells and tables: reads after writes, and the canonical form.
-/
namespace Sys2Proof.Machine

namespace Cells

variable {α : Type}

@[simp] theorem get_nil (d : α) (a : Nat) : get d [] a = d := rfl

@[simp] theorem get_erase_self (d : α) (m : Cells α) (a : Nat) : get d (erase m a) a = d := by
  induction m with
  | nil => rfl
  | cons e r ih =>
    obtain ⟨k, v⟩ := e
    by_cases h : k = a <;> simp [erase, get, h, ih]

theorem get_erase_ne (d : α) (m : Cells α) {a b : Nat} (h : b ≠ a) : get d (erase m a) b = get d m b := by
  induction m with
  | nil => rfl
  | cons e r ih =>
    obtain ⟨k, v⟩ := e
    by_cases hk : k = a
    · have : k ≠ b := by omega
      simp [erase, get, hk, ih]
      intro hab; omega
    · by_cases hb : k = b
      · subst hb; simp [erase, get, hk]
      · simp [erase, get, hk, hb, ih]

theorem get_insert_ne (d : α) (m : Cells α) {a b : Nat} (v : α) (h : b ≠ a) : get d (insert m a v) b = get d m b := by
  induction m with
  | nil => simp [insert, get]; intro; omega
  | cons e r ih =>
    obtain ⟨k, w⟩ := e
    by_cases hk : a < k
    · simp [insert, get, hk]; intro; omega
    · simp [insert, get, hk, ih]

theorem get_insert_erase (d : α) (m : Cells α) (a : Nat) (v : α) : get d (insert (erase m a) a v) a = v := by
  induction m with
  | nil => simp [erase, insert, get]
  | cons e r ih =>
    obtain ⟨k, w⟩ := e
    by_cases hk : k = a
    · simp [erase, hk, ih]
    · by_cases hl : a < k
      · simp [erase, insert, get, hk, hl]
      · simp [erase, insert, get, hk, hl, ih]

theorem mem_erase {m : Cells α} {a : Nat} {e : Nat × α} (h : e ∈ erase m a) : e ∈ m ∧ e.1 ≠ a := by
  induction m with
  | nil => simp [erase] at h
  | cons x r ih =>
    obtain ⟨k, v⟩ := x
    by_cases hk : k = a
    · simp [erase, hk] at h; exact ⟨List.mem_cons_of_mem _ (ih h).1, (ih h).2⟩
    · simp [erase, hk] at h
      rcases h with h | h
      · subst h; exact ⟨List.mem_cons_self, hk⟩
      · exact ⟨List.mem_cons_of_mem _ (ih h).1, (ih h).2⟩

theorem mem_insert {m : Cells α} {a : Nat} {v : α} {e : Nat × α} (h : e ∈ insert m a v) : e = (a, v) ∨ e ∈ m := by
  induction m with
  | nil => simpa [insert] using h
  | cons x r ih =>
    obtain ⟨k, w⟩ := x
    by_cases hk : a < k
    · simpa [insert, hk] using h
    · simp [insert, hk] at h
      rcases h with h | h
      · right; simp [h]
      · rcases ih h with h | h
        · exact .inl h
        · right; exact List.mem_cons_of_mem _ h

variable [DecidableEq α]

@[simp] theorem get_set_self (d : α) (m : Cells α) (a : Nat) (v : α) : get d (set d m a v) a = v := by
  unfold set; split
  · simp_all
  · exact get_insert_erase d m a v

theorem get_set_ne (d : α) (m : Cells α) {a b : Nat} (v : α) (h : b ≠ a) : get d (set d m a v) b = get d m b := by
  unfold set; split
  · exact get_erase_ne d m h
  · rw [get_insert_ne d _ v h, get_erase_ne d m h]

@[simp] theorem wf_nil (d : α) : wf d ([] : Cells α) = true := rfl

/-- The canonical form of a list in parts. -/
theorem wf_cons (d : α) (k : Nat) (v : α) (r : Cells α) :
    wf d ((k, v) :: r) = true ↔ v ≠ d ∧ (∀ e ∈ r, k < e.1) ∧ wf d r = true := by
  simp [wf, and_assoc]

theorem wf_erase (d : α) {m : Cells α} (a : Nat) (h : wf d m = true) : wf d (erase m a) = true := by
  induction m with
  | nil => rfl
  | cons x r ih =>
    obtain ⟨k, v⟩ := x
    rw [wf_cons] at h
    by_cases hk : k = a
    · simp [erase, hk, ih h.2.2]
    · simp only [erase, hk, if_false]
      rw [wf_cons]
      exact ⟨h.1, fun e he => h.2.1 e (mem_erase he).1, ih h.2.2⟩

theorem wf_insert (d : α) {m : Cells α} {a : Nat} {v : α} (hv : v ≠ d) (hm : wf d m = true) (ha : ∀ e ∈ m, e.1 ≠ a) :
    wf d (insert m a v) = true := by
  induction m with
  | nil => simp [insert, wf, hv]
  | cons x r ih =>
    obtain ⟨k, w⟩ := x
    have hk : k ≠ a := ha (k, w) List.mem_cons_self
    have h := (wf_cons d k w r).1 hm
    by_cases hl : a < k
    · simp only [insert, hl, if_true]
      rw [wf_cons]
      refine ⟨hv, ?_, hm⟩
      intro e he
      rcases List.mem_cons.1 he with he | he
      · subst he; exact hl
      · exact Nat.lt_trans hl (h.2.1 e he)
    · simp only [insert, hl, if_false]
      rw [wf_cons]
      refine ⟨h.1, ?_, ih h.2.2 (fun e he => ha e (List.mem_cons_of_mem _ he))⟩
      intro e he
      rcases mem_insert he with he | he
      · subst he; omega
      · exact h.2.1 e he

/-- A write keeps the canonical form. -/
theorem wf_set (d : α) {m : Cells α} (a : Nat) (v : α) (h : wf d m = true) : wf d (set d m a v) = true := by
  unfold set; split
  · exact wf_erase d a h
  · exact wf_insert d ‹_› (wf_erase d a h) (fun e he => (mem_erase he).2)

theorem wf_filter (d : α) {m : Cells α} (p : Nat × α → Bool) (h : wf d m = true) : wf d (m.filter p) = true := by
  induction m with
  | nil => rfl
  | cons x r ih =>
    obtain ⟨k, v⟩ := x
    have h' := (wf_cons d k v r).1 h
    by_cases hp : p (k, v)
    · rw [List.filter_cons_of_pos hp, wf_cons]
      exact ⟨h'.1, fun e he => h'.2.1 e (List.mem_filter.1 he).1, ih h'.2.2⟩
    · rw [List.filter_cons_of_neg hp]; exact ih h'.2.2

/-- A fold of writes keeps the canonical form. -/
theorem wf_foldl {β : Type} (d : α) (l : List β) (k : β → Nat) (v : β → α) {m : Cells α} (h : wf d m = true) :
    wf d (l.foldl (fun m b => set d m (k b) (v b)) m) = true := by
  induction l generalizing m with
  | nil => exact h
  | cons b r ih => exact ih (wf_set d (k b) (v b) h)

end Cells

namespace Tab

variable {α : Type}

@[simp] theorem find_nil (a : Nat) : find ([] : Tab α) a = none := rfl

@[simp] theorem find_erase_self (m : Tab α) (a : Nat) : find (erase m a) a = none := by
  induction m with
  | nil => rfl
  | cons e r ih =>
    obtain ⟨k, v⟩ := e
    unfold erase at ih ⊢
    by_cases h : k = a <;> simp [Cells.erase, find, h, ih]

theorem find_erase_ne (m : Tab α) {a b : Nat} (h : b ≠ a) : find (erase m a) b = find m b := by
  induction m with
  | nil => rfl
  | cons e r ih =>
    obtain ⟨k, v⟩ := e
    unfold erase at ih ⊢
    by_cases hk : k = a
    · simp [Cells.erase, find, hk, ih]; intro; omega
    · by_cases hb : k = b
      · subst hb; simp [Cells.erase, find, hk]
      · simp [Cells.erase, find, hk, hb, ih]

@[simp] theorem find_put_self (m : Tab α) (a : Nat) (v : α) : find (put m a v) a = some v := by
  unfold put
  induction m with
  | nil => simp [Cells.erase, Cells.insert, find]
  | cons e r ih =>
    obtain ⟨k, w⟩ := e
    by_cases hk : k = a
    · simp [Cells.erase, hk, ih]
    · by_cases hl : a < k <;> simp [Cells.erase, Cells.insert, find, hk, hl, ih]

theorem erase_erase (m : Tab α) (a : Nat) : Cells.erase (Cells.erase m a) a = Cells.erase m a := by
  induction m with
  | nil => rfl
  | cons e r ih =>
    obtain ⟨k, v⟩ := e
    by_cases h : k = a <;> simp [Cells.erase, h, ih]

theorem erase_insert (m : Tab α) (a : Nat) (v : α) : Cells.erase (Cells.insert m a v) a = Cells.erase m a := by
  induction m with
  | nil => simp [Cells.insert, Cells.erase]
  | cons e r ih =>
    obtain ⟨k, w⟩ := e
    by_cases h : a < k
    · have : k ≠ a := by omega
      simp [Cells.insert, Cells.erase, h]
    · by_cases h2 : k = a <;> simp [Cells.insert, Cells.erase, h, h2, ih]

/-- A second write to a key replaces the first. -/
@[simp] theorem put_put (m : Tab α) (a : Nat) (v w : α) : put (put m a v) a w = put m a w := by
  simp [put, erase_insert, erase_erase]

theorem find_put_ne (m : Tab α) {a b : Nat} (v : α) (h : b ≠ a) : find (put m a v) b = find m b := by
  unfold put
  have key : ∀ m : Tab α, find (Cells.insert m a v) b = find m b := by
    intro m
    induction m with
    | nil => simp [Cells.insert, find]; intro; omega
    | cons e r ih =>
      obtain ⟨k, w⟩ := e
      by_cases hl : a < k
      · simp [Cells.insert, find, hl]; intro; omega
      · simp [Cells.insert, find, hl, ih]
  rw [key]; exact find_erase_ne m h

@[simp] theorem get_put_self (d : α) (m : Tab α) (a : Nat) (v : α) : get d (put m a v) a = v := by simp [get]

theorem get_put_ne (d : α) (m : Tab α) {a b : Nat} (v : α) (h : b ≠ a) : get d (put m a v) b = get d m b := by
  simp [get, find_put_ne m v h]

end Tab
end Sys2Proof.Machine
end

