-- ==== Sys2Proof/Laws/Elements.lean ====
section
/-!
SUPPORT. Laws of packed elements: an element of joined elements, and of a value cut to its register or pair.
-/
namespace Sys2Proof.Machine

theorem splitN_length (n w x : Nat) : (splitN n w x).length = n := by simp [splitN]

theorem tyWidth_pos (ty : Nat) : 0 < tyWidth ty := by unfold tyWidth; split <;> omega

theorem elemsOf_getD {ty x i : Nat} (h : i < tyCount ty) : (elemsOf ty x).getD i 0 = elem ty x i := by
  simp [elemsOf, splitN, h, elem, bits, Nat.shiftRight_eq_div_pow]
  have := tyWidth_pos ty
  congr 2; omega

theorem joinN_elem {w : Nat} {xs : List Nat} {i : Nat} (h : i < xs.length) :
    joinN w xs / 2 ^ (w * i) % 2 ^ w = xs[i] % 2 ^ w := by
  induction xs generalizing i with
  | nil => simp at h
  | cons x r ih =>
    cases i with
    | zero => simp [joinN]
    | succ i =>
      have h' : i < r.length := by simpa using h
      have e : joinN w (x :: r) / 2 ^ (w * (i + 1)) = joinN w r / 2 ^ (w * i) := by
        rw [Nat.mul_add, Nat.mul_one, Nat.add_comm (w * i) w, Nat.pow_add, ← Nat.div_div_eq_div_mul]
        congr 1
        simp only [joinN]
        rw [Nat.add_mul_div_left _ _ (Nat.two_pow_pos w), Nat.div_eq_of_lt (Nat.mod_lt _ (Nat.two_pow_pos w)), Nat.zero_add]
      rw [e, ih h']; simp

theorem cut_elem {v N w i : Nat} (h : w * i + w ≤ N) : v % 2 ^ N / 2 ^ (w * i) % 2 ^ w = v / 2 ^ (w * i) % 2 ^ w := by
  have e : N = w * i + (N - w * i) := by omega
  rw [e, Nat.pow_add, Nat.mod_mul_right_div_self]
  exact Nat.mod_mod_of_dvd _ (Nat.pow_dvd_pow 2 (by omega))

/-- The elements of a type fill its register or pair. -/
theorem width_fits {ty i : Nat} (h : i < tyCount ty) : tyWidth ty * i + tyWidth ty ≤ (if wideTy ty then 64 else 32) := by
  unfold tyCount at h
  by_cases hc : ty ≤ 14
  · have : ty = 0 ∨ ty = 1 ∨ ty = 2 ∨ ty = 3 ∨ ty = 4 ∨ ty = 5 ∨ ty = 6 ∨ ty = 7 ∨ ty = 8 ∨ ty = 9 ∨ ty = 10 ∨ ty = 11 ∨ ty = 12 ∨
        ty = 13 ∨ ty = 14 := by omega
    rcases this with e | e | e | e | e | e | e | e | e | e | e | e | e | e | e <;> subst e <;>
      simp [tyWidth, wideTy] at h ⊢ <;> omega
  · have h1 : tyWidth ty = 32 := by unfold tyWidth; split <;> first | rfl | omega
    have h2 : i = 0 := by split at h <;> omega
    have h3 : wideTy ty = false := by simp [wideTy]; omega
    simp [h1, h2, h3]

/-- An element of a result joined from elements and cut to its register or pair. -/
theorem result_elem {ty i : Nat} {xs : List Nat} (hl : xs.length = tyCount ty) (h : i < tyCount ty) :
    elem ty (joinN (tyWidth ty) xs % 2 ^ (if wideTy ty then 64 else 32)) i = xs.getD i 0 % 2 ^ tyWidth ty := by
  have hi : i < xs.length := by omega
  unfold elem
  rw [cut_elem (width_fits h), joinN_elem hi]
  simp [hi]

end Sys2Proof.Machine
end

