-- ==== Sys2Proof/Laws/State.lean ====
section
/-!
SUPPORT. Laws of state updates: every field after every update of one unit, and what the readers give after it.
-/
namespace Sys2Proof.Machine.State

/-! ## setChain -/

@[simp] theorem setChain_turns (s : State) (i : Nat) (x : Chain) : (s.setChain i x).turns = s.turns := rfl
@[simp] theorem setChain_tick (s : State) (i : Nat) (x : Chain) : (s.setChain i x).tick = s.tick := rfl
@[simp] theorem setChain_sel (s : State) (i : Nat) (x : Chain) : (s.setChain i x).sel = s.sel := rfl
@[simp] theorem setChain_nextId (s : State) (i : Nat) (x : Chain) : (s.setChain i x).nextId = s.nextId := rfl
@[simp] theorem setChain_chains (s : State) (i : Nat) (x : Chain) : (s.setChain i x).chains = Tab.put s.chains i x := rfl
@[simp] theorem setChain_cores (s : State) (i : Nat) (x : Chain) : (s.setChain i x).cores = s.cores := rfl
@[simp] theorem setChain_clusters (s : State) (i : Nat) (x : Chain) : (s.setChain i x).clusters = s.clusters := rfl
@[simp] theorem setChain_slices (s : State) (i : Nat) (x : Chain) : (s.setChain i x).slices = s.slices := rfl
@[simp] theorem setChain_hbm (s : State) (i : Nat) (x : Chain) : (s.setChain i x).hbm = s.hbm := rfl
@[simp] theorem setChain_cbits (s : State) (i : Nat) (x : Chain) : (s.setChain i x).cbits = s.cbits := rfl
@[simp] theorem setChain_msgs (s : State) (i : Nat) (x : Chain) : (s.setChain i x).msgs = s.msgs := rfl
@[simp] theorem setChain_ctxs (s : State) (i : Nat) (x : Chain) : (s.setChain i x).ctxs = s.ctxs := rfl
@[simp] theorem setChain_parts (s : State) (i : Nat) (x : Chain) : (s.setChain i x).parts = s.parts := rfl
@[simp] theorem setChain_fns (s : State) (i : Nat) (x : Chain) : (s.setChain i x).fns = s.fns := rfl
@[simp] theorem setChain_queues (s : State) (i : Nat) (x : Chain) : (s.setChain i x).queues = s.queues := rfl
@[simp] theorem setChain_rings (s : State) (i : Nat) (x : Chain) : (s.setChain i x).rings = s.rings := rfl
@[simp] theorem setChain_tensors (s : State) (i : Nat) (x : Chain) : (s.setChain i x).tensors = s.tensors := rfl
@[simp] theorem setChain_surveys (s : State) (i : Nat) (x : Chain) : (s.setChain i x).surveys = s.surveys := rfl
@[simp] theorem setChain_parcels (s : State) (i : Nat) (x : Chain) : (s.setChain i x).parcels = s.parcels := rfl
@[simp] theorem setChain_recs (s : State) (i : Nat) (x : Chain) : (s.setChain i x).recs = s.recs := rfl
@[simp] theorem setChain_sweeps (s : State) (i : Nat) (x : Chain) : (s.setChain i x).sweeps = s.sweeps := rfl
@[simp] theorem setChain_tickets (s : State) (i : Nat) (x : Chain) : (s.setChain i x).tickets = s.tickets := rfl
@[simp] theorem setChain_podTickets (s : State) (i : Nat) (x : Chain) : (s.setChain i x).podTickets = s.podTickets := rfl
@[simp] theorem setChain_rebase (s : State) (i : Nat) (x : Chain) : (s.setChain i x).rebase = s.rebase := rfl
@[simp] theorem setChain_islands (s : State) (i : Nat) (x : Chain) : (s.setChain i x).islands = s.islands := rfl
@[simp] theorem setChain_links (s : State) (i : Nat) (x : Chain) : (s.setChain i x).links = s.links := rfl
@[simp] theorem setChain_fencedPairs (s : State) (i : Nat) (x : Chain) : (s.setChain i x).fencedPairs = s.fencedPairs := rfl
@[simp] theorem setChain_ports (s : State) (i : Nat) (x : Chain) : (s.setChain i x).ports = s.ports := rfl
@[simp] theorem setChain_cxl (s : State) (i : Nat) (x : Chain) : (s.setChain i x).cxl = s.cxl := rfl
@[simp] theorem setChain_saved (s : State) (i : Nat) (x : Chain) : (s.setChain i x).saved = s.saved := rfl
@[simp] theorem setChain_savedCores (s : State) (i : Nat) (x : Chain) : (s.setChain i x).savedCores = s.savedCores := rfl
@[simp] theorem setChain_savedClusters (s : State) (i : Nat) (x : Chain) : (s.setChain i x).savedClusters = s.savedClusters := rfl
@[simp] theorem setChain_module (s : State) (i : Nat) (x : Chain) : (s.setChain i x).module = s.module := rfl
@[simp] theorem setChain_designated (s : State) (i : Nat) (x : Chain) : (s.setChain i x).designated = s.designated := rfl
@[simp] theorem setChain_routes (s : State) (i : Nat) (x : Chain) : (s.setChain i x).routes = s.routes := rfl
@[simp] theorem setChain_aperture (s : State) (i : Nat) (x : Chain) : (s.setChain i x).aperture = s.aperture := rfl
@[simp] theorem setChain_peer (s : State) (i : Nat) (x : Chain) : (s.setChain i x).peer = s.peer := rfl
@[simp] theorem setChain_peerStamps (s : State) (i : Nat) (x : Chain) : (s.setChain i x).peerStamps = s.peerStamps := rfl
@[simp] theorem setChain_spins (s : State) (i : Nat) (x : Chain) : (s.setChain i x).spins = s.spins := rfl
@[simp] theorem setChain_uzosa (s : State) (i : Nat) (x : Chain) : (s.setChain i x).uzosa = s.uzosa := rfl
@[simp] theorem setChain_errors (s : State) (i : Nat) (x : Chain) : (s.setChain i x).errors = s.errors := rfl
@[simp] theorem setChain_offCores (s : State) (i : Nat) (x : Chain) : (s.setChain i x).offCores = s.offCores := rfl
@[simp] theorem setChain_offSites (s : State) (i : Nat) (x : Chain) : (s.setChain i x).offSites = s.offSites := rfl

/-! ## setCore -/

@[simp] theorem setCore_turns (s : State) (i : Nat) (x : Core) : (s.setCore i x).turns = s.turns := rfl
@[simp] theorem setCore_tick (s : State) (i : Nat) (x : Core) : (s.setCore i x).tick = s.tick := rfl
@[simp] theorem setCore_sel (s : State) (i : Nat) (x : Core) : (s.setCore i x).sel = s.sel := rfl
@[simp] theorem setCore_nextId (s : State) (i : Nat) (x : Core) : (s.setCore i x).nextId = s.nextId := rfl
@[simp] theorem setCore_chains (s : State) (i : Nat) (x : Core) : (s.setCore i x).chains = s.chains := rfl
@[simp] theorem setCore_cores (s : State) (i : Nat) (x : Core) : (s.setCore i x).cores = Tab.put s.cores i x := rfl
@[simp] theorem setCore_clusters (s : State) (i : Nat) (x : Core) : (s.setCore i x).clusters = s.clusters := rfl
@[simp] theorem setCore_slices (s : State) (i : Nat) (x : Core) : (s.setCore i x).slices = s.slices := rfl
@[simp] theorem setCore_hbm (s : State) (i : Nat) (x : Core) : (s.setCore i x).hbm = s.hbm := rfl
@[simp] theorem setCore_cbits (s : State) (i : Nat) (x : Core) : (s.setCore i x).cbits = s.cbits := rfl
@[simp] theorem setCore_msgs (s : State) (i : Nat) (x : Core) : (s.setCore i x).msgs = s.msgs := rfl
@[simp] theorem setCore_ctxs (s : State) (i : Nat) (x : Core) : (s.setCore i x).ctxs = s.ctxs := rfl
@[simp] theorem setCore_parts (s : State) (i : Nat) (x : Core) : (s.setCore i x).parts = s.parts := rfl
@[simp] theorem setCore_fns (s : State) (i : Nat) (x : Core) : (s.setCore i x).fns = s.fns := rfl
@[simp] theorem setCore_queues (s : State) (i : Nat) (x : Core) : (s.setCore i x).queues = s.queues := rfl
@[simp] theorem setCore_rings (s : State) (i : Nat) (x : Core) : (s.setCore i x).rings = s.rings := rfl
@[simp] theorem setCore_tensors (s : State) (i : Nat) (x : Core) : (s.setCore i x).tensors = s.tensors := rfl
@[simp] theorem setCore_surveys (s : State) (i : Nat) (x : Core) : (s.setCore i x).surveys = s.surveys := rfl
@[simp] theorem setCore_parcels (s : State) (i : Nat) (x : Core) : (s.setCore i x).parcels = s.parcels := rfl
@[simp] theorem setCore_recs (s : State) (i : Nat) (x : Core) : (s.setCore i x).recs = s.recs := rfl
@[simp] theorem setCore_sweeps (s : State) (i : Nat) (x : Core) : (s.setCore i x).sweeps = s.sweeps := rfl
@[simp] theorem setCore_tickets (s : State) (i : Nat) (x : Core) : (s.setCore i x).tickets = s.tickets := rfl
@[simp] theorem setCore_podTickets (s : State) (i : Nat) (x : Core) : (s.setCore i x).podTickets = s.podTickets := rfl
@[simp] theorem setCore_rebase (s : State) (i : Nat) (x : Core) : (s.setCore i x).rebase = s.rebase := rfl
@[simp] theorem setCore_islands (s : State) (i : Nat) (x : Core) : (s.setCore i x).islands = s.islands := rfl
@[simp] theorem setCore_links (s : State) (i : Nat) (x : Core) : (s.setCore i x).links = s.links := rfl
@[simp] theorem setCore_fencedPairs (s : State) (i : Nat) (x : Core) : (s.setCore i x).fencedPairs = s.fencedPairs := rfl
@[simp] theorem setCore_ports (s : State) (i : Nat) (x : Core) : (s.setCore i x).ports = s.ports := rfl
@[simp] theorem setCore_cxl (s : State) (i : Nat) (x : Core) : (s.setCore i x).cxl = s.cxl := rfl
@[simp] theorem setCore_saved (s : State) (i : Nat) (x : Core) : (s.setCore i x).saved = s.saved := rfl
@[simp] theorem setCore_savedCores (s : State) (i : Nat) (x : Core) : (s.setCore i x).savedCores = s.savedCores := rfl
@[simp] theorem setCore_savedClusters (s : State) (i : Nat) (x : Core) : (s.setCore i x).savedClusters = s.savedClusters := rfl
@[simp] theorem setCore_module (s : State) (i : Nat) (x : Core) : (s.setCore i x).module = s.module := rfl
@[simp] theorem setCore_designated (s : State) (i : Nat) (x : Core) : (s.setCore i x).designated = s.designated := rfl
@[simp] theorem setCore_routes (s : State) (i : Nat) (x : Core) : (s.setCore i x).routes = s.routes := rfl
@[simp] theorem setCore_aperture (s : State) (i : Nat) (x : Core) : (s.setCore i x).aperture = s.aperture := rfl
@[simp] theorem setCore_peer (s : State) (i : Nat) (x : Core) : (s.setCore i x).peer = s.peer := rfl
@[simp] theorem setCore_peerStamps (s : State) (i : Nat) (x : Core) : (s.setCore i x).peerStamps = s.peerStamps := rfl
@[simp] theorem setCore_spins (s : State) (i : Nat) (x : Core) : (s.setCore i x).spins = s.spins := rfl
@[simp] theorem setCore_uzosa (s : State) (i : Nat) (x : Core) : (s.setCore i x).uzosa = s.uzosa := rfl
@[simp] theorem setCore_errors (s : State) (i : Nat) (x : Core) : (s.setCore i x).errors = s.errors := rfl
@[simp] theorem setCore_offCores (s : State) (i : Nat) (x : Core) : (s.setCore i x).offCores = s.offCores := rfl
@[simp] theorem setCore_offSites (s : State) (i : Nat) (x : Core) : (s.setCore i x).offSites = s.offSites := rfl

/-! ## setCluster -/

@[simp] theorem setCluster_turns (s : State) (i : Nat) (x : Cluster) : (s.setCluster i x).turns = s.turns := rfl
@[simp] theorem setCluster_tick (s : State) (i : Nat) (x : Cluster) : (s.setCluster i x).tick = s.tick := rfl
@[simp] theorem setCluster_sel (s : State) (i : Nat) (x : Cluster) : (s.setCluster i x).sel = s.sel := rfl
@[simp] theorem setCluster_nextId (s : State) (i : Nat) (x : Cluster) : (s.setCluster i x).nextId = s.nextId := rfl
@[simp] theorem setCluster_chains (s : State) (i : Nat) (x : Cluster) : (s.setCluster i x).chains = s.chains := rfl
@[simp] theorem setCluster_cores (s : State) (i : Nat) (x : Cluster) : (s.setCluster i x).cores = s.cores := rfl
@[simp] theorem setCluster_clusters (s : State) (i : Nat) (x : Cluster) : (s.setCluster i x).clusters = Tab.put s.clusters i x := rfl
@[simp] theorem setCluster_slices (s : State) (i : Nat) (x : Cluster) : (s.setCluster i x).slices = s.slices := rfl
@[simp] theorem setCluster_hbm (s : State) (i : Nat) (x : Cluster) : (s.setCluster i x).hbm = s.hbm := rfl
@[simp] theorem setCluster_cbits (s : State) (i : Nat) (x : Cluster) : (s.setCluster i x).cbits = s.cbits := rfl
@[simp] theorem setCluster_msgs (s : State) (i : Nat) (x : Cluster) : (s.setCluster i x).msgs = s.msgs := rfl
@[simp] theorem setCluster_ctxs (s : State) (i : Nat) (x : Cluster) : (s.setCluster i x).ctxs = s.ctxs := rfl
@[simp] theorem setCluster_parts (s : State) (i : Nat) (x : Cluster) : (s.setCluster i x).parts = s.parts := rfl
@[simp] theorem setCluster_fns (s : State) (i : Nat) (x : Cluster) : (s.setCluster i x).fns = s.fns := rfl
@[simp] theorem setCluster_queues (s : State) (i : Nat) (x : Cluster) : (s.setCluster i x).queues = s.queues := rfl
@[simp] theorem setCluster_rings (s : State) (i : Nat) (x : Cluster) : (s.setCluster i x).rings = s.rings := rfl
@[simp] theorem setCluster_tensors (s : State) (i : Nat) (x : Cluster) : (s.setCluster i x).tensors = s.tensors := rfl
@[simp] theorem setCluster_surveys (s : State) (i : Nat) (x : Cluster) : (s.setCluster i x).surveys = s.surveys := rfl
@[simp] theorem setCluster_parcels (s : State) (i : Nat) (x : Cluster) : (s.setCluster i x).parcels = s.parcels := rfl
@[simp] theorem setCluster_recs (s : State) (i : Nat) (x : Cluster) : (s.setCluster i x).recs = s.recs := rfl
@[simp] theorem setCluster_sweeps (s : State) (i : Nat) (x : Cluster) : (s.setCluster i x).sweeps = s.sweeps := rfl
@[simp] theorem setCluster_tickets (s : State) (i : Nat) (x : Cluster) : (s.setCluster i x).tickets = s.tickets := rfl
@[simp] theorem setCluster_podTickets (s : State) (i : Nat) (x : Cluster) : (s.setCluster i x).podTickets = s.podTickets := rfl
@[simp] theorem setCluster_rebase (s : State) (i : Nat) (x : Cluster) : (s.setCluster i x).rebase = s.rebase := rfl
@[simp] theorem setCluster_islands (s : State) (i : Nat) (x : Cluster) : (s.setCluster i x).islands = s.islands := rfl
@[simp] theorem setCluster_links (s : State) (i : Nat) (x : Cluster) : (s.setCluster i x).links = s.links := rfl
@[simp] theorem setCluster_fencedPairs (s : State) (i : Nat) (x : Cluster) : (s.setCluster i x).fencedPairs = s.fencedPairs := rfl
@[simp] theorem setCluster_ports (s : State) (i : Nat) (x : Cluster) : (s.setCluster i x).ports = s.ports := rfl
@[simp] theorem setCluster_cxl (s : State) (i : Nat) (x : Cluster) : (s.setCluster i x).cxl = s.cxl := rfl
@[simp] theorem setCluster_saved (s : State) (i : Nat) (x : Cluster) : (s.setCluster i x).saved = s.saved := rfl
@[simp] theorem setCluster_savedCores (s : State) (i : Nat) (x : Cluster) : (s.setCluster i x).savedCores = s.savedCores := rfl
@[simp] theorem setCluster_savedClusters (s : State) (i : Nat) (x : Cluster) : (s.setCluster i x).savedClusters = s.savedClusters := rfl
@[simp] theorem setCluster_module (s : State) (i : Nat) (x : Cluster) : (s.setCluster i x).module = s.module := rfl
@[simp] theorem setCluster_designated (s : State) (i : Nat) (x : Cluster) : (s.setCluster i x).designated = s.designated := rfl
@[simp] theorem setCluster_routes (s : State) (i : Nat) (x : Cluster) : (s.setCluster i x).routes = s.routes := rfl
@[simp] theorem setCluster_aperture (s : State) (i : Nat) (x : Cluster) : (s.setCluster i x).aperture = s.aperture := rfl
@[simp] theorem setCluster_peer (s : State) (i : Nat) (x : Cluster) : (s.setCluster i x).peer = s.peer := rfl
@[simp] theorem setCluster_peerStamps (s : State) (i : Nat) (x : Cluster) : (s.setCluster i x).peerStamps = s.peerStamps := rfl
@[simp] theorem setCluster_spins (s : State) (i : Nat) (x : Cluster) : (s.setCluster i x).spins = s.spins := rfl
@[simp] theorem setCluster_uzosa (s : State) (i : Nat) (x : Cluster) : (s.setCluster i x).uzosa = s.uzosa := rfl
@[simp] theorem setCluster_errors (s : State) (i : Nat) (x : Cluster) : (s.setCluster i x).errors = s.errors := rfl
@[simp] theorem setCluster_offCores (s : State) (i : Nat) (x : Cluster) : (s.setCluster i x).offCores = s.offCores := rfl
@[simp] theorem setCluster_offSites (s : State) (i : Nat) (x : Cluster) : (s.setCluster i x).offSites = s.offSites := rfl

/-! ## setSlice -/

@[simp] theorem setSlice_turns (s : State) (i : Nat) (x : Slice) : (s.setSlice i x).turns = s.turns := rfl
@[simp] theorem setSlice_tick (s : State) (i : Nat) (x : Slice) : (s.setSlice i x).tick = s.tick := rfl
@[simp] theorem setSlice_sel (s : State) (i : Nat) (x : Slice) : (s.setSlice i x).sel = s.sel := rfl
@[simp] theorem setSlice_nextId (s : State) (i : Nat) (x : Slice) : (s.setSlice i x).nextId = s.nextId := rfl
@[simp] theorem setSlice_chains (s : State) (i : Nat) (x : Slice) : (s.setSlice i x).chains = s.chains := rfl
@[simp] theorem setSlice_cores (s : State) (i : Nat) (x : Slice) : (s.setSlice i x).cores = s.cores := rfl
@[simp] theorem setSlice_clusters (s : State) (i : Nat) (x : Slice) : (s.setSlice i x).clusters = s.clusters := rfl
@[simp] theorem setSlice_slices (s : State) (i : Nat) (x : Slice) : (s.setSlice i x).slices = Tab.put s.slices i x := rfl
@[simp] theorem setSlice_hbm (s : State) (i : Nat) (x : Slice) : (s.setSlice i x).hbm = s.hbm := rfl
@[simp] theorem setSlice_cbits (s : State) (i : Nat) (x : Slice) : (s.setSlice i x).cbits = s.cbits := rfl
@[simp] theorem setSlice_msgs (s : State) (i : Nat) (x : Slice) : (s.setSlice i x).msgs = s.msgs := rfl
@[simp] theorem setSlice_ctxs (s : State) (i : Nat) (x : Slice) : (s.setSlice i x).ctxs = s.ctxs := rfl
@[simp] theorem setSlice_parts (s : State) (i : Nat) (x : Slice) : (s.setSlice i x).parts = s.parts := rfl
@[simp] theorem setSlice_fns (s : State) (i : Nat) (x : Slice) : (s.setSlice i x).fns = s.fns := rfl
@[simp] theorem setSlice_queues (s : State) (i : Nat) (x : Slice) : (s.setSlice i x).queues = s.queues := rfl
@[simp] theorem setSlice_rings (s : State) (i : Nat) (x : Slice) : (s.setSlice i x).rings = s.rings := rfl
@[simp] theorem setSlice_tensors (s : State) (i : Nat) (x : Slice) : (s.setSlice i x).tensors = s.tensors := rfl
@[simp] theorem setSlice_surveys (s : State) (i : Nat) (x : Slice) : (s.setSlice i x).surveys = s.surveys := rfl
@[simp] theorem setSlice_parcels (s : State) (i : Nat) (x : Slice) : (s.setSlice i x).parcels = s.parcels := rfl
@[simp] theorem setSlice_recs (s : State) (i : Nat) (x : Slice) : (s.setSlice i x).recs = s.recs := rfl
@[simp] theorem setSlice_sweeps (s : State) (i : Nat) (x : Slice) : (s.setSlice i x).sweeps = s.sweeps := rfl
@[simp] theorem setSlice_tickets (s : State) (i : Nat) (x : Slice) : (s.setSlice i x).tickets = s.tickets := rfl
@[simp] theorem setSlice_podTickets (s : State) (i : Nat) (x : Slice) : (s.setSlice i x).podTickets = s.podTickets := rfl
@[simp] theorem setSlice_rebase (s : State) (i : Nat) (x : Slice) : (s.setSlice i x).rebase = s.rebase := rfl
@[simp] theorem setSlice_islands (s : State) (i : Nat) (x : Slice) : (s.setSlice i x).islands = s.islands := rfl
@[simp] theorem setSlice_links (s : State) (i : Nat) (x : Slice) : (s.setSlice i x).links = s.links := rfl
@[simp] theorem setSlice_fencedPairs (s : State) (i : Nat) (x : Slice) : (s.setSlice i x).fencedPairs = s.fencedPairs := rfl
@[simp] theorem setSlice_ports (s : State) (i : Nat) (x : Slice) : (s.setSlice i x).ports = s.ports := rfl
@[simp] theorem setSlice_cxl (s : State) (i : Nat) (x : Slice) : (s.setSlice i x).cxl = s.cxl := rfl
@[simp] theorem setSlice_saved (s : State) (i : Nat) (x : Slice) : (s.setSlice i x).saved = s.saved := rfl
@[simp] theorem setSlice_savedCores (s : State) (i : Nat) (x : Slice) : (s.setSlice i x).savedCores = s.savedCores := rfl
@[simp] theorem setSlice_savedClusters (s : State) (i : Nat) (x : Slice) : (s.setSlice i x).savedClusters = s.savedClusters := rfl
@[simp] theorem setSlice_module (s : State) (i : Nat) (x : Slice) : (s.setSlice i x).module = s.module := rfl
@[simp] theorem setSlice_designated (s : State) (i : Nat) (x : Slice) : (s.setSlice i x).designated = s.designated := rfl
@[simp] theorem setSlice_routes (s : State) (i : Nat) (x : Slice) : (s.setSlice i x).routes = s.routes := rfl
@[simp] theorem setSlice_aperture (s : State) (i : Nat) (x : Slice) : (s.setSlice i x).aperture = s.aperture := rfl
@[simp] theorem setSlice_peer (s : State) (i : Nat) (x : Slice) : (s.setSlice i x).peer = s.peer := rfl
@[simp] theorem setSlice_peerStamps (s : State) (i : Nat) (x : Slice) : (s.setSlice i x).peerStamps = s.peerStamps := rfl
@[simp] theorem setSlice_spins (s : State) (i : Nat) (x : Slice) : (s.setSlice i x).spins = s.spins := rfl
@[simp] theorem setSlice_uzosa (s : State) (i : Nat) (x : Slice) : (s.setSlice i x).uzosa = s.uzosa := rfl
@[simp] theorem setSlice_errors (s : State) (i : Nat) (x : Slice) : (s.setSlice i x).errors = s.errors := rfl
@[simp] theorem setSlice_offCores (s : State) (i : Nat) (x : Slice) : (s.setSlice i x).offCores = s.offCores := rfl
@[simp] theorem setSlice_offSites (s : State) (i : Nat) (x : Slice) : (s.setSlice i x).offSites = s.offSites := rfl

/-! ## setCtx -/

@[simp] theorem setCtx_turns (s : State) (i : Nat) (x : Ctx) : (s.setCtx i x).turns = s.turns := rfl
@[simp] theorem setCtx_tick (s : State) (i : Nat) (x : Ctx) : (s.setCtx i x).tick = s.tick := rfl
@[simp] theorem setCtx_sel (s : State) (i : Nat) (x : Ctx) : (s.setCtx i x).sel = s.sel := rfl
@[simp] theorem setCtx_nextId (s : State) (i : Nat) (x : Ctx) : (s.setCtx i x).nextId = s.nextId := rfl
@[simp] theorem setCtx_chains (s : State) (i : Nat) (x : Ctx) : (s.setCtx i x).chains = s.chains := rfl
@[simp] theorem setCtx_cores (s : State) (i : Nat) (x : Ctx) : (s.setCtx i x).cores = s.cores := rfl
@[simp] theorem setCtx_clusters (s : State) (i : Nat) (x : Ctx) : (s.setCtx i x).clusters = s.clusters := rfl
@[simp] theorem setCtx_slices (s : State) (i : Nat) (x : Ctx) : (s.setCtx i x).slices = s.slices := rfl
@[simp] theorem setCtx_hbm (s : State) (i : Nat) (x : Ctx) : (s.setCtx i x).hbm = s.hbm := rfl
@[simp] theorem setCtx_cbits (s : State) (i : Nat) (x : Ctx) : (s.setCtx i x).cbits = s.cbits := rfl
@[simp] theorem setCtx_msgs (s : State) (i : Nat) (x : Ctx) : (s.setCtx i x).msgs = s.msgs := rfl
@[simp] theorem setCtx_ctxs (s : State) (i : Nat) (x : Ctx) : (s.setCtx i x).ctxs = Tab.put s.ctxs i x := rfl
@[simp] theorem setCtx_parts (s : State) (i : Nat) (x : Ctx) : (s.setCtx i x).parts = s.parts := rfl
@[simp] theorem setCtx_fns (s : State) (i : Nat) (x : Ctx) : (s.setCtx i x).fns = s.fns := rfl
@[simp] theorem setCtx_queues (s : State) (i : Nat) (x : Ctx) : (s.setCtx i x).queues = s.queues := rfl
@[simp] theorem setCtx_rings (s : State) (i : Nat) (x : Ctx) : (s.setCtx i x).rings = s.rings := rfl
@[simp] theorem setCtx_tensors (s : State) (i : Nat) (x : Ctx) : (s.setCtx i x).tensors = s.tensors := rfl
@[simp] theorem setCtx_surveys (s : State) (i : Nat) (x : Ctx) : (s.setCtx i x).surveys = s.surveys := rfl
@[simp] theorem setCtx_parcels (s : State) (i : Nat) (x : Ctx) : (s.setCtx i x).parcels = s.parcels := rfl
@[simp] theorem setCtx_recs (s : State) (i : Nat) (x : Ctx) : (s.setCtx i x).recs = s.recs := rfl
@[simp] theorem setCtx_sweeps (s : State) (i : Nat) (x : Ctx) : (s.setCtx i x).sweeps = s.sweeps := rfl
@[simp] theorem setCtx_tickets (s : State) (i : Nat) (x : Ctx) : (s.setCtx i x).tickets = s.tickets := rfl
@[simp] theorem setCtx_podTickets (s : State) (i : Nat) (x : Ctx) : (s.setCtx i x).podTickets = s.podTickets := rfl
@[simp] theorem setCtx_rebase (s : State) (i : Nat) (x : Ctx) : (s.setCtx i x).rebase = s.rebase := rfl
@[simp] theorem setCtx_islands (s : State) (i : Nat) (x : Ctx) : (s.setCtx i x).islands = s.islands := rfl
@[simp] theorem setCtx_links (s : State) (i : Nat) (x : Ctx) : (s.setCtx i x).links = s.links := rfl
@[simp] theorem setCtx_fencedPairs (s : State) (i : Nat) (x : Ctx) : (s.setCtx i x).fencedPairs = s.fencedPairs := rfl
@[simp] theorem setCtx_ports (s : State) (i : Nat) (x : Ctx) : (s.setCtx i x).ports = s.ports := rfl
@[simp] theorem setCtx_cxl (s : State) (i : Nat) (x : Ctx) : (s.setCtx i x).cxl = s.cxl := rfl
@[simp] theorem setCtx_saved (s : State) (i : Nat) (x : Ctx) : (s.setCtx i x).saved = s.saved := rfl
@[simp] theorem setCtx_savedCores (s : State) (i : Nat) (x : Ctx) : (s.setCtx i x).savedCores = s.savedCores := rfl
@[simp] theorem setCtx_savedClusters (s : State) (i : Nat) (x : Ctx) : (s.setCtx i x).savedClusters = s.savedClusters := rfl
@[simp] theorem setCtx_module (s : State) (i : Nat) (x : Ctx) : (s.setCtx i x).module = s.module := rfl
@[simp] theorem setCtx_designated (s : State) (i : Nat) (x : Ctx) : (s.setCtx i x).designated = s.designated := rfl
@[simp] theorem setCtx_routes (s : State) (i : Nat) (x : Ctx) : (s.setCtx i x).routes = s.routes := rfl
@[simp] theorem setCtx_aperture (s : State) (i : Nat) (x : Ctx) : (s.setCtx i x).aperture = s.aperture := rfl
@[simp] theorem setCtx_peer (s : State) (i : Nat) (x : Ctx) : (s.setCtx i x).peer = s.peer := rfl
@[simp] theorem setCtx_peerStamps (s : State) (i : Nat) (x : Ctx) : (s.setCtx i x).peerStamps = s.peerStamps := rfl
@[simp] theorem setCtx_spins (s : State) (i : Nat) (x : Ctx) : (s.setCtx i x).spins = s.spins := rfl
@[simp] theorem setCtx_uzosa (s : State) (i : Nat) (x : Ctx) : (s.setCtx i x).uzosa = s.uzosa := rfl
@[simp] theorem setCtx_errors (s : State) (i : Nat) (x : Ctx) : (s.setCtx i x).errors = s.errors := rfl
@[simp] theorem setCtx_offCores (s : State) (i : Nat) (x : Ctx) : (s.setCtx i x).offCores = s.offCores := rfl
@[simp] theorem setCtx_offSites (s : State) (i : Nat) (x : Ctx) : (s.setCtx i x).offSites = s.offSites := rfl

/-! ## modCore -/

@[simp] theorem modCore_turns (s : State) (i : Nat) (g : Core → Core) : (s.modCore i g).turns = s.turns := rfl
@[simp] theorem modCore_tick (s : State) (i : Nat) (g : Core → Core) : (s.modCore i g).tick = s.tick := rfl
@[simp] theorem modCore_sel (s : State) (i : Nat) (g : Core → Core) : (s.modCore i g).sel = s.sel := rfl
@[simp] theorem modCore_nextId (s : State) (i : Nat) (g : Core → Core) : (s.modCore i g).nextId = s.nextId := rfl
@[simp] theorem modCore_chains (s : State) (i : Nat) (g : Core → Core) : (s.modCore i g).chains = s.chains := rfl
@[simp] theorem modCore_clusters (s : State) (i : Nat) (g : Core → Core) : (s.modCore i g).clusters = s.clusters := rfl
@[simp] theorem modCore_slices (s : State) (i : Nat) (g : Core → Core) : (s.modCore i g).slices = s.slices := rfl
@[simp] theorem modCore_hbm (s : State) (i : Nat) (g : Core → Core) : (s.modCore i g).hbm = s.hbm := rfl
@[simp] theorem modCore_cbits (s : State) (i : Nat) (g : Core → Core) : (s.modCore i g).cbits = s.cbits := rfl
@[simp] theorem modCore_msgs (s : State) (i : Nat) (g : Core → Core) : (s.modCore i g).msgs = s.msgs := rfl
@[simp] theorem modCore_ctxs (s : State) (i : Nat) (g : Core → Core) : (s.modCore i g).ctxs = s.ctxs := rfl
@[simp] theorem modCore_parts (s : State) (i : Nat) (g : Core → Core) : (s.modCore i g).parts = s.parts := rfl
@[simp] theorem modCore_fns (s : State) (i : Nat) (g : Core → Core) : (s.modCore i g).fns = s.fns := rfl
@[simp] theorem modCore_queues (s : State) (i : Nat) (g : Core → Core) : (s.modCore i g).queues = s.queues := rfl
@[simp] theorem modCore_rings (s : State) (i : Nat) (g : Core → Core) : (s.modCore i g).rings = s.rings := rfl
@[simp] theorem modCore_tensors (s : State) (i : Nat) (g : Core → Core) : (s.modCore i g).tensors = s.tensors := rfl
@[simp] theorem modCore_surveys (s : State) (i : Nat) (g : Core → Core) : (s.modCore i g).surveys = s.surveys := rfl
@[simp] theorem modCore_parcels (s : State) (i : Nat) (g : Core → Core) : (s.modCore i g).parcels = s.parcels := rfl
@[simp] theorem modCore_recs (s : State) (i : Nat) (g : Core → Core) : (s.modCore i g).recs = s.recs := rfl
@[simp] theorem modCore_sweeps (s : State) (i : Nat) (g : Core → Core) : (s.modCore i g).sweeps = s.sweeps := rfl
@[simp] theorem modCore_tickets (s : State) (i : Nat) (g : Core → Core) : (s.modCore i g).tickets = s.tickets := rfl
@[simp] theorem modCore_podTickets (s : State) (i : Nat) (g : Core → Core) : (s.modCore i g).podTickets = s.podTickets := rfl
@[simp] theorem modCore_rebase (s : State) (i : Nat) (g : Core → Core) : (s.modCore i g).rebase = s.rebase := rfl
@[simp] theorem modCore_islands (s : State) (i : Nat) (g : Core → Core) : (s.modCore i g).islands = s.islands := rfl
@[simp] theorem modCore_links (s : State) (i : Nat) (g : Core → Core) : (s.modCore i g).links = s.links := rfl
@[simp] theorem modCore_fencedPairs (s : State) (i : Nat) (g : Core → Core) : (s.modCore i g).fencedPairs = s.fencedPairs := rfl
@[simp] theorem modCore_ports (s : State) (i : Nat) (g : Core → Core) : (s.modCore i g).ports = s.ports := rfl
@[simp] theorem modCore_cxl (s : State) (i : Nat) (g : Core → Core) : (s.modCore i g).cxl = s.cxl := rfl
@[simp] theorem modCore_saved (s : State) (i : Nat) (g : Core → Core) : (s.modCore i g).saved = s.saved := rfl
@[simp] theorem modCore_savedCores (s : State) (i : Nat) (g : Core → Core) : (s.modCore i g).savedCores = s.savedCores := rfl
@[simp] theorem modCore_savedClusters (s : State) (i : Nat) (g : Core → Core) : (s.modCore i g).savedClusters = s.savedClusters := rfl
@[simp] theorem modCore_module (s : State) (i : Nat) (g : Core → Core) : (s.modCore i g).module = s.module := rfl
@[simp] theorem modCore_designated (s : State) (i : Nat) (g : Core → Core) : (s.modCore i g).designated = s.designated := rfl
@[simp] theorem modCore_routes (s : State) (i : Nat) (g : Core → Core) : (s.modCore i g).routes = s.routes := rfl
@[simp] theorem modCore_aperture (s : State) (i : Nat) (g : Core → Core) : (s.modCore i g).aperture = s.aperture := rfl
@[simp] theorem modCore_peer (s : State) (i : Nat) (g : Core → Core) : (s.modCore i g).peer = s.peer := rfl
@[simp] theorem modCore_peerStamps (s : State) (i : Nat) (g : Core → Core) : (s.modCore i g).peerStamps = s.peerStamps := rfl
@[simp] theorem modCore_spins (s : State) (i : Nat) (g : Core → Core) : (s.modCore i g).spins = s.spins := rfl
@[simp] theorem modCore_uzosa (s : State) (i : Nat) (g : Core → Core) : (s.modCore i g).uzosa = s.uzosa := rfl
@[simp] theorem modCore_errors (s : State) (i : Nat) (g : Core → Core) : (s.modCore i g).errors = s.errors := rfl
@[simp] theorem modCore_offCores (s : State) (i : Nat) (g : Core → Core) : (s.modCore i g).offCores = s.offCores := rfl
@[simp] theorem modCore_offSites (s : State) (i : Nat) (g : Core → Core) : (s.modCore i g).offSites = s.offSites := rfl

/-! ## modCluster -/

@[simp] theorem modCluster_turns (s : State) (i : Nat) (g : Cluster → Cluster) : (s.modCluster i g).turns = s.turns := rfl
@[simp] theorem modCluster_tick (s : State) (i : Nat) (g : Cluster → Cluster) : (s.modCluster i g).tick = s.tick := rfl
@[simp] theorem modCluster_sel (s : State) (i : Nat) (g : Cluster → Cluster) : (s.modCluster i g).sel = s.sel := rfl
@[simp] theorem modCluster_nextId (s : State) (i : Nat) (g : Cluster → Cluster) : (s.modCluster i g).nextId = s.nextId := rfl
@[simp] theorem modCluster_chains (s : State) (i : Nat) (g : Cluster → Cluster) : (s.modCluster i g).chains = s.chains := rfl
@[simp] theorem modCluster_cores (s : State) (i : Nat) (g : Cluster → Cluster) : (s.modCluster i g).cores = s.cores := rfl
@[simp] theorem modCluster_slices (s : State) (i : Nat) (g : Cluster → Cluster) : (s.modCluster i g).slices = s.slices := rfl
@[simp] theorem modCluster_hbm (s : State) (i : Nat) (g : Cluster → Cluster) : (s.modCluster i g).hbm = s.hbm := rfl
@[simp] theorem modCluster_cbits (s : State) (i : Nat) (g : Cluster → Cluster) : (s.modCluster i g).cbits = s.cbits := rfl
@[simp] theorem modCluster_msgs (s : State) (i : Nat) (g : Cluster → Cluster) : (s.modCluster i g).msgs = s.msgs := rfl
@[simp] theorem modCluster_ctxs (s : State) (i : Nat) (g : Cluster → Cluster) : (s.modCluster i g).ctxs = s.ctxs := rfl
@[simp] theorem modCluster_parts (s : State) (i : Nat) (g : Cluster → Cluster) : (s.modCluster i g).parts = s.parts := rfl
@[simp] theorem modCluster_fns (s : State) (i : Nat) (g : Cluster → Cluster) : (s.modCluster i g).fns = s.fns := rfl
@[simp] theorem modCluster_queues (s : State) (i : Nat) (g : Cluster → Cluster) : (s.modCluster i g).queues = s.queues := rfl
@[simp] theorem modCluster_rings (s : State) (i : Nat) (g : Cluster → Cluster) : (s.modCluster i g).rings = s.rings := rfl
@[simp] theorem modCluster_tensors (s : State) (i : Nat) (g : Cluster → Cluster) : (s.modCluster i g).tensors = s.tensors := rfl
@[simp] theorem modCluster_surveys (s : State) (i : Nat) (g : Cluster → Cluster) : (s.modCluster i g).surveys = s.surveys := rfl
@[simp] theorem modCluster_parcels (s : State) (i : Nat) (g : Cluster → Cluster) : (s.modCluster i g).parcels = s.parcels := rfl
@[simp] theorem modCluster_recs (s : State) (i : Nat) (g : Cluster → Cluster) : (s.modCluster i g).recs = s.recs := rfl
@[simp] theorem modCluster_sweeps (s : State) (i : Nat) (g : Cluster → Cluster) : (s.modCluster i g).sweeps = s.sweeps := rfl
@[simp] theorem modCluster_tickets (s : State) (i : Nat) (g : Cluster → Cluster) : (s.modCluster i g).tickets = s.tickets := rfl
@[simp] theorem modCluster_podTickets (s : State) (i : Nat) (g : Cluster → Cluster) : (s.modCluster i g).podTickets = s.podTickets := rfl
@[simp] theorem modCluster_rebase (s : State) (i : Nat) (g : Cluster → Cluster) : (s.modCluster i g).rebase = s.rebase := rfl
@[simp] theorem modCluster_islands (s : State) (i : Nat) (g : Cluster → Cluster) : (s.modCluster i g).islands = s.islands := rfl
@[simp] theorem modCluster_links (s : State) (i : Nat) (g : Cluster → Cluster) : (s.modCluster i g).links = s.links := rfl
@[simp] theorem modCluster_fencedPairs (s : State) (i : Nat) (g : Cluster → Cluster) : (s.modCluster i g).fencedPairs = s.fencedPairs := rfl
@[simp] theorem modCluster_ports (s : State) (i : Nat) (g : Cluster → Cluster) : (s.modCluster i g).ports = s.ports := rfl
@[simp] theorem modCluster_cxl (s : State) (i : Nat) (g : Cluster → Cluster) : (s.modCluster i g).cxl = s.cxl := rfl
@[simp] theorem modCluster_saved (s : State) (i : Nat) (g : Cluster → Cluster) : (s.modCluster i g).saved = s.saved := rfl
@[simp] theorem modCluster_savedCores (s : State) (i : Nat) (g : Cluster → Cluster) : (s.modCluster i g).savedCores = s.savedCores := rfl
@[simp] theorem modCluster_savedClusters (s : State) (i : Nat) (g : Cluster → Cluster) : (s.modCluster i g).savedClusters = s.savedClusters := rfl
@[simp] theorem modCluster_module (s : State) (i : Nat) (g : Cluster → Cluster) : (s.modCluster i g).module = s.module := rfl
@[simp] theorem modCluster_designated (s : State) (i : Nat) (g : Cluster → Cluster) : (s.modCluster i g).designated = s.designated := rfl
@[simp] theorem modCluster_routes (s : State) (i : Nat) (g : Cluster → Cluster) : (s.modCluster i g).routes = s.routes := rfl
@[simp] theorem modCluster_aperture (s : State) (i : Nat) (g : Cluster → Cluster) : (s.modCluster i g).aperture = s.aperture := rfl
@[simp] theorem modCluster_peer (s : State) (i : Nat) (g : Cluster → Cluster) : (s.modCluster i g).peer = s.peer := rfl
@[simp] theorem modCluster_peerStamps (s : State) (i : Nat) (g : Cluster → Cluster) : (s.modCluster i g).peerStamps = s.peerStamps := rfl
@[simp] theorem modCluster_spins (s : State) (i : Nat) (g : Cluster → Cluster) : (s.modCluster i g).spins = s.spins := rfl
@[simp] theorem modCluster_uzosa (s : State) (i : Nat) (g : Cluster → Cluster) : (s.modCluster i g).uzosa = s.uzosa := rfl
@[simp] theorem modCluster_errors (s : State) (i : Nat) (g : Cluster → Cluster) : (s.modCluster i g).errors = s.errors := rfl
@[simp] theorem modCluster_offCores (s : State) (i : Nat) (g : Cluster → Cluster) : (s.modCluster i g).offCores = s.offCores := rfl
@[simp] theorem modCluster_offSites (s : State) (i : Nat) (g : Cluster → Cluster) : (s.modCluster i g).offSites = s.offSites := rfl

/-! ## modSlice -/

@[simp] theorem modSlice_turns (s : State) (i : Nat) (g : Slice → Slice) : (s.modSlice i g).turns = s.turns := rfl
@[simp] theorem modSlice_tick (s : State) (i : Nat) (g : Slice → Slice) : (s.modSlice i g).tick = s.tick := rfl
@[simp] theorem modSlice_sel (s : State) (i : Nat) (g : Slice → Slice) : (s.modSlice i g).sel = s.sel := rfl
@[simp] theorem modSlice_nextId (s : State) (i : Nat) (g : Slice → Slice) : (s.modSlice i g).nextId = s.nextId := rfl
@[simp] theorem modSlice_chains (s : State) (i : Nat) (g : Slice → Slice) : (s.modSlice i g).chains = s.chains := rfl
@[simp] theorem modSlice_cores (s : State) (i : Nat) (g : Slice → Slice) : (s.modSlice i g).cores = s.cores := rfl
@[simp] theorem modSlice_clusters (s : State) (i : Nat) (g : Slice → Slice) : (s.modSlice i g).clusters = s.clusters := rfl
@[simp] theorem modSlice_hbm (s : State) (i : Nat) (g : Slice → Slice) : (s.modSlice i g).hbm = s.hbm := rfl
@[simp] theorem modSlice_cbits (s : State) (i : Nat) (g : Slice → Slice) : (s.modSlice i g).cbits = s.cbits := rfl
@[simp] theorem modSlice_msgs (s : State) (i : Nat) (g : Slice → Slice) : (s.modSlice i g).msgs = s.msgs := rfl
@[simp] theorem modSlice_ctxs (s : State) (i : Nat) (g : Slice → Slice) : (s.modSlice i g).ctxs = s.ctxs := rfl
@[simp] theorem modSlice_parts (s : State) (i : Nat) (g : Slice → Slice) : (s.modSlice i g).parts = s.parts := rfl
@[simp] theorem modSlice_fns (s : State) (i : Nat) (g : Slice → Slice) : (s.modSlice i g).fns = s.fns := rfl
@[simp] theorem modSlice_queues (s : State) (i : Nat) (g : Slice → Slice) : (s.modSlice i g).queues = s.queues := rfl
@[simp] theorem modSlice_rings (s : State) (i : Nat) (g : Slice → Slice) : (s.modSlice i g).rings = s.rings := rfl
@[simp] theorem modSlice_tensors (s : State) (i : Nat) (g : Slice → Slice) : (s.modSlice i g).tensors = s.tensors := rfl
@[simp] theorem modSlice_surveys (s : State) (i : Nat) (g : Slice → Slice) : (s.modSlice i g).surveys = s.surveys := rfl
@[simp] theorem modSlice_parcels (s : State) (i : Nat) (g : Slice → Slice) : (s.modSlice i g).parcels = s.parcels := rfl
@[simp] theorem modSlice_recs (s : State) (i : Nat) (g : Slice → Slice) : (s.modSlice i g).recs = s.recs := rfl
@[simp] theorem modSlice_sweeps (s : State) (i : Nat) (g : Slice → Slice) : (s.modSlice i g).sweeps = s.sweeps := rfl
@[simp] theorem modSlice_tickets (s : State) (i : Nat) (g : Slice → Slice) : (s.modSlice i g).tickets = s.tickets := rfl
@[simp] theorem modSlice_podTickets (s : State) (i : Nat) (g : Slice → Slice) : (s.modSlice i g).podTickets = s.podTickets := rfl
@[simp] theorem modSlice_rebase (s : State) (i : Nat) (g : Slice → Slice) : (s.modSlice i g).rebase = s.rebase := rfl
@[simp] theorem modSlice_islands (s : State) (i : Nat) (g : Slice → Slice) : (s.modSlice i g).islands = s.islands := rfl
@[simp] theorem modSlice_links (s : State) (i : Nat) (g : Slice → Slice) : (s.modSlice i g).links = s.links := rfl
@[simp] theorem modSlice_fencedPairs (s : State) (i : Nat) (g : Slice → Slice) : (s.modSlice i g).fencedPairs = s.fencedPairs := rfl
@[simp] theorem modSlice_ports (s : State) (i : Nat) (g : Slice → Slice) : (s.modSlice i g).ports = s.ports := rfl
@[simp] theorem modSlice_cxl (s : State) (i : Nat) (g : Slice → Slice) : (s.modSlice i g).cxl = s.cxl := rfl
@[simp] theorem modSlice_saved (s : State) (i : Nat) (g : Slice → Slice) : (s.modSlice i g).saved = s.saved := rfl
@[simp] theorem modSlice_savedCores (s : State) (i : Nat) (g : Slice → Slice) : (s.modSlice i g).savedCores = s.savedCores := rfl
@[simp] theorem modSlice_savedClusters (s : State) (i : Nat) (g : Slice → Slice) : (s.modSlice i g).savedClusters = s.savedClusters := rfl
@[simp] theorem modSlice_module (s : State) (i : Nat) (g : Slice → Slice) : (s.modSlice i g).module = s.module := rfl
@[simp] theorem modSlice_designated (s : State) (i : Nat) (g : Slice → Slice) : (s.modSlice i g).designated = s.designated := rfl
@[simp] theorem modSlice_routes (s : State) (i : Nat) (g : Slice → Slice) : (s.modSlice i g).routes = s.routes := rfl
@[simp] theorem modSlice_aperture (s : State) (i : Nat) (g : Slice → Slice) : (s.modSlice i g).aperture = s.aperture := rfl
@[simp] theorem modSlice_peer (s : State) (i : Nat) (g : Slice → Slice) : (s.modSlice i g).peer = s.peer := rfl
@[simp] theorem modSlice_peerStamps (s : State) (i : Nat) (g : Slice → Slice) : (s.modSlice i g).peerStamps = s.peerStamps := rfl
@[simp] theorem modSlice_spins (s : State) (i : Nat) (g : Slice → Slice) : (s.modSlice i g).spins = s.spins := rfl
@[simp] theorem modSlice_uzosa (s : State) (i : Nat) (g : Slice → Slice) : (s.modSlice i g).uzosa = s.uzosa := rfl
@[simp] theorem modSlice_errors (s : State) (i : Nat) (g : Slice → Slice) : (s.modSlice i g).errors = s.errors := rfl
@[simp] theorem modSlice_offCores (s : State) (i : Nat) (g : Slice → Slice) : (s.modSlice i g).offCores = s.offCores := rfl
@[simp] theorem modSlice_offSites (s : State) (i : Nat) (g : Slice → Slice) : (s.modSlice i g).offSites = s.offSites := rfl

/-! ## modChain -/

@[simp] theorem modChain_turns (s : State) (i : Nat) (g : Chain → Chain) : (s.modChain i g).turns = s.turns := by
  unfold modChain; split <;> rfl
@[simp] theorem modChain_tick (s : State) (i : Nat) (g : Chain → Chain) : (s.modChain i g).tick = s.tick := by
  unfold modChain; split <;> rfl
@[simp] theorem modChain_sel (s : State) (i : Nat) (g : Chain → Chain) : (s.modChain i g).sel = s.sel := by
  unfold modChain; split <;> rfl
@[simp] theorem modChain_nextId (s : State) (i : Nat) (g : Chain → Chain) : (s.modChain i g).nextId = s.nextId := by
  unfold modChain; split <;> rfl
@[simp] theorem modChain_cores (s : State) (i : Nat) (g : Chain → Chain) : (s.modChain i g).cores = s.cores := by
  unfold modChain; split <;> rfl
@[simp] theorem modChain_clusters (s : State) (i : Nat) (g : Chain → Chain) : (s.modChain i g).clusters = s.clusters := by
  unfold modChain; split <;> rfl
@[simp] theorem modChain_slices (s : State) (i : Nat) (g : Chain → Chain) : (s.modChain i g).slices = s.slices := by
  unfold modChain; split <;> rfl
@[simp] theorem modChain_hbm (s : State) (i : Nat) (g : Chain → Chain) : (s.modChain i g).hbm = s.hbm := by
  unfold modChain; split <;> rfl
@[simp] theorem modChain_cbits (s : State) (i : Nat) (g : Chain → Chain) : (s.modChain i g).cbits = s.cbits := by
  unfold modChain; split <;> rfl
@[simp] theorem modChain_msgs (s : State) (i : Nat) (g : Chain → Chain) : (s.modChain i g).msgs = s.msgs := by
  unfold modChain; split <;> rfl
@[simp] theorem modChain_ctxs (s : State) (i : Nat) (g : Chain → Chain) : (s.modChain i g).ctxs = s.ctxs := by
  unfold modChain; split <;> rfl
@[simp] theorem modChain_parts (s : State) (i : Nat) (g : Chain → Chain) : (s.modChain i g).parts = s.parts := by
  unfold modChain; split <;> rfl
@[simp] theorem modChain_fns (s : State) (i : Nat) (g : Chain → Chain) : (s.modChain i g).fns = s.fns := by
  unfold modChain; split <;> rfl
@[simp] theorem modChain_queues (s : State) (i : Nat) (g : Chain → Chain) : (s.modChain i g).queues = s.queues := by
  unfold modChain; split <;> rfl
@[simp] theorem modChain_rings (s : State) (i : Nat) (g : Chain → Chain) : (s.modChain i g).rings = s.rings := by
  unfold modChain; split <;> rfl
@[simp] theorem modChain_tensors (s : State) (i : Nat) (g : Chain → Chain) : (s.modChain i g).tensors = s.tensors := by
  unfold modChain; split <;> rfl
@[simp] theorem modChain_surveys (s : State) (i : Nat) (g : Chain → Chain) : (s.modChain i g).surveys = s.surveys := by
  unfold modChain; split <;> rfl
@[simp] theorem modChain_parcels (s : State) (i : Nat) (g : Chain → Chain) : (s.modChain i g).parcels = s.parcels := by
  unfold modChain; split <;> rfl
@[simp] theorem modChain_recs (s : State) (i : Nat) (g : Chain → Chain) : (s.modChain i g).recs = s.recs := by
  unfold modChain; split <;> rfl
@[simp] theorem modChain_sweeps (s : State) (i : Nat) (g : Chain → Chain) : (s.modChain i g).sweeps = s.sweeps := by
  unfold modChain; split <;> rfl
@[simp] theorem modChain_tickets (s : State) (i : Nat) (g : Chain → Chain) : (s.modChain i g).tickets = s.tickets := by
  unfold modChain; split <;> rfl
@[simp] theorem modChain_podTickets (s : State) (i : Nat) (g : Chain → Chain) : (s.modChain i g).podTickets = s.podTickets := by
  unfold modChain; split <;> rfl
@[simp] theorem modChain_rebase (s : State) (i : Nat) (g : Chain → Chain) : (s.modChain i g).rebase = s.rebase := by
  unfold modChain; split <;> rfl
@[simp] theorem modChain_islands (s : State) (i : Nat) (g : Chain → Chain) : (s.modChain i g).islands = s.islands := by
  unfold modChain; split <;> rfl
@[simp] theorem modChain_links (s : State) (i : Nat) (g : Chain → Chain) : (s.modChain i g).links = s.links := by
  unfold modChain; split <;> rfl
@[simp] theorem modChain_fencedPairs (s : State) (i : Nat) (g : Chain → Chain) : (s.modChain i g).fencedPairs = s.fencedPairs := by
  unfold modChain; split <;> rfl
@[simp] theorem modChain_ports (s : State) (i : Nat) (g : Chain → Chain) : (s.modChain i g).ports = s.ports := by
  unfold modChain; split <;> rfl
@[simp] theorem modChain_cxl (s : State) (i : Nat) (g : Chain → Chain) : (s.modChain i g).cxl = s.cxl := by
  unfold modChain; split <;> rfl
@[simp] theorem modChain_saved (s : State) (i : Nat) (g : Chain → Chain) : (s.modChain i g).saved = s.saved := by
  unfold modChain; split <;> rfl
@[simp] theorem modChain_savedCores (s : State) (i : Nat) (g : Chain → Chain) : (s.modChain i g).savedCores = s.savedCores := by
  unfold modChain; split <;> rfl
@[simp] theorem modChain_savedClusters (s : State) (i : Nat) (g : Chain → Chain) : (s.modChain i g).savedClusters = s.savedClusters := by
  unfold modChain; split <;> rfl
@[simp] theorem modChain_module (s : State) (i : Nat) (g : Chain → Chain) : (s.modChain i g).module = s.module := by
  unfold modChain; split <;> rfl
@[simp] theorem modChain_designated (s : State) (i : Nat) (g : Chain → Chain) : (s.modChain i g).designated = s.designated := by
  unfold modChain; split <;> rfl
@[simp] theorem modChain_routes (s : State) (i : Nat) (g : Chain → Chain) : (s.modChain i g).routes = s.routes := by
  unfold modChain; split <;> rfl
@[simp] theorem modChain_aperture (s : State) (i : Nat) (g : Chain → Chain) : (s.modChain i g).aperture = s.aperture := by
  unfold modChain; split <;> rfl
@[simp] theorem modChain_peer (s : State) (i : Nat) (g : Chain → Chain) : (s.modChain i g).peer = s.peer := by
  unfold modChain; split <;> rfl
@[simp] theorem modChain_peerStamps (s : State) (i : Nat) (g : Chain → Chain) : (s.modChain i g).peerStamps = s.peerStamps := by
  unfold modChain; split <;> rfl
@[simp] theorem modChain_spins (s : State) (i : Nat) (g : Chain → Chain) : (s.modChain i g).spins = s.spins := by
  unfold modChain; split <;> rfl
@[simp] theorem modChain_uzosa (s : State) (i : Nat) (g : Chain → Chain) : (s.modChain i g).uzosa = s.uzosa := by
  unfold modChain; split <;> rfl
@[simp] theorem modChain_errors (s : State) (i : Nat) (g : Chain → Chain) : (s.modChain i g).errors = s.errors := by
  unfold modChain; split <;> rfl
@[simp] theorem modChain_offCores (s : State) (i : Nat) (g : Chain → Chain) : (s.modChain i g).offCores = s.offCores := by
  unfold modChain; split <;> rfl
@[simp] theorem modChain_offSites (s : State) (i : Nat) (g : Chain → Chain) : (s.modChain i g).offSites = s.offSites := by
  unfold modChain; split <;> rfl

/-! ## modCtx -/

@[simp] theorem modCtx_turns (s : State) (i : Nat) (g : Ctx → Ctx) : (s.modCtx i g).turns = s.turns := by
  unfold modCtx; split <;> rfl
@[simp] theorem modCtx_tick (s : State) (i : Nat) (g : Ctx → Ctx) : (s.modCtx i g).tick = s.tick := by
  unfold modCtx; split <;> rfl
@[simp] theorem modCtx_sel (s : State) (i : Nat) (g : Ctx → Ctx) : (s.modCtx i g).sel = s.sel := by
  unfold modCtx; split <;> rfl
@[simp] theorem modCtx_nextId (s : State) (i : Nat) (g : Ctx → Ctx) : (s.modCtx i g).nextId = s.nextId := by
  unfold modCtx; split <;> rfl
@[simp] theorem modCtx_chains (s : State) (i : Nat) (g : Ctx → Ctx) : (s.modCtx i g).chains = s.chains := by
  unfold modCtx; split <;> rfl
@[simp] theorem modCtx_cores (s : State) (i : Nat) (g : Ctx → Ctx) : (s.modCtx i g).cores = s.cores := by
  unfold modCtx; split <;> rfl
@[simp] theorem modCtx_clusters (s : State) (i : Nat) (g : Ctx → Ctx) : (s.modCtx i g).clusters = s.clusters := by
  unfold modCtx; split <;> rfl
@[simp] theorem modCtx_slices (s : State) (i : Nat) (g : Ctx → Ctx) : (s.modCtx i g).slices = s.slices := by
  unfold modCtx; split <;> rfl
@[simp] theorem modCtx_hbm (s : State) (i : Nat) (g : Ctx → Ctx) : (s.modCtx i g).hbm = s.hbm := by
  unfold modCtx; split <;> rfl
@[simp] theorem modCtx_cbits (s : State) (i : Nat) (g : Ctx → Ctx) : (s.modCtx i g).cbits = s.cbits := by
  unfold modCtx; split <;> rfl
@[simp] theorem modCtx_msgs (s : State) (i : Nat) (g : Ctx → Ctx) : (s.modCtx i g).msgs = s.msgs := by
  unfold modCtx; split <;> rfl
@[simp] theorem modCtx_parts (s : State) (i : Nat) (g : Ctx → Ctx) : (s.modCtx i g).parts = s.parts := by
  unfold modCtx; split <;> rfl
@[simp] theorem modCtx_fns (s : State) (i : Nat) (g : Ctx → Ctx) : (s.modCtx i g).fns = s.fns := by
  unfold modCtx; split <;> rfl
@[simp] theorem modCtx_queues (s : State) (i : Nat) (g : Ctx → Ctx) : (s.modCtx i g).queues = s.queues := by
  unfold modCtx; split <;> rfl
@[simp] theorem modCtx_rings (s : State) (i : Nat) (g : Ctx → Ctx) : (s.modCtx i g).rings = s.rings := by
  unfold modCtx; split <;> rfl
@[simp] theorem modCtx_tensors (s : State) (i : Nat) (g : Ctx → Ctx) : (s.modCtx i g).tensors = s.tensors := by
  unfold modCtx; split <;> rfl
@[simp] theorem modCtx_surveys (s : State) (i : Nat) (g : Ctx → Ctx) : (s.modCtx i g).surveys = s.surveys := by
  unfold modCtx; split <;> rfl
@[simp] theorem modCtx_parcels (s : State) (i : Nat) (g : Ctx → Ctx) : (s.modCtx i g).parcels = s.parcels := by
  unfold modCtx; split <;> rfl
@[simp] theorem modCtx_recs (s : State) (i : Nat) (g : Ctx → Ctx) : (s.modCtx i g).recs = s.recs := by
  unfold modCtx; split <;> rfl
@[simp] theorem modCtx_sweeps (s : State) (i : Nat) (g : Ctx → Ctx) : (s.modCtx i g).sweeps = s.sweeps := by
  unfold modCtx; split <;> rfl
@[simp] theorem modCtx_tickets (s : State) (i : Nat) (g : Ctx → Ctx) : (s.modCtx i g).tickets = s.tickets := by
  unfold modCtx; split <;> rfl
@[simp] theorem modCtx_podTickets (s : State) (i : Nat) (g : Ctx → Ctx) : (s.modCtx i g).podTickets = s.podTickets := by
  unfold modCtx; split <;> rfl
@[simp] theorem modCtx_rebase (s : State) (i : Nat) (g : Ctx → Ctx) : (s.modCtx i g).rebase = s.rebase := by
  unfold modCtx; split <;> rfl
@[simp] theorem modCtx_islands (s : State) (i : Nat) (g : Ctx → Ctx) : (s.modCtx i g).islands = s.islands := by
  unfold modCtx; split <;> rfl
@[simp] theorem modCtx_links (s : State) (i : Nat) (g : Ctx → Ctx) : (s.modCtx i g).links = s.links := by
  unfold modCtx; split <;> rfl
@[simp] theorem modCtx_fencedPairs (s : State) (i : Nat) (g : Ctx → Ctx) : (s.modCtx i g).fencedPairs = s.fencedPairs := by
  unfold modCtx; split <;> rfl
@[simp] theorem modCtx_ports (s : State) (i : Nat) (g : Ctx → Ctx) : (s.modCtx i g).ports = s.ports := by
  unfold modCtx; split <;> rfl
@[simp] theorem modCtx_cxl (s : State) (i : Nat) (g : Ctx → Ctx) : (s.modCtx i g).cxl = s.cxl := by
  unfold modCtx; split <;> rfl
@[simp] theorem modCtx_saved (s : State) (i : Nat) (g : Ctx → Ctx) : (s.modCtx i g).saved = s.saved := by
  unfold modCtx; split <;> rfl
@[simp] theorem modCtx_savedCores (s : State) (i : Nat) (g : Ctx → Ctx) : (s.modCtx i g).savedCores = s.savedCores := by
  unfold modCtx; split <;> rfl
@[simp] theorem modCtx_savedClusters (s : State) (i : Nat) (g : Ctx → Ctx) : (s.modCtx i g).savedClusters = s.savedClusters := by
  unfold modCtx; split <;> rfl
@[simp] theorem modCtx_module (s : State) (i : Nat) (g : Ctx → Ctx) : (s.modCtx i g).module = s.module := by
  unfold modCtx; split <;> rfl
@[simp] theorem modCtx_designated (s : State) (i : Nat) (g : Ctx → Ctx) : (s.modCtx i g).designated = s.designated := by
  unfold modCtx; split <;> rfl
@[simp] theorem modCtx_routes (s : State) (i : Nat) (g : Ctx → Ctx) : (s.modCtx i g).routes = s.routes := by
  unfold modCtx; split <;> rfl
@[simp] theorem modCtx_aperture (s : State) (i : Nat) (g : Ctx → Ctx) : (s.modCtx i g).aperture = s.aperture := by
  unfold modCtx; split <;> rfl
@[simp] theorem modCtx_peer (s : State) (i : Nat) (g : Ctx → Ctx) : (s.modCtx i g).peer = s.peer := by
  unfold modCtx; split <;> rfl
@[simp] theorem modCtx_peerStamps (s : State) (i : Nat) (g : Ctx → Ctx) : (s.modCtx i g).peerStamps = s.peerStamps := by
  unfold modCtx; split <;> rfl
@[simp] theorem modCtx_spins (s : State) (i : Nat) (g : Ctx → Ctx) : (s.modCtx i g).spins = s.spins := by
  unfold modCtx; split <;> rfl
@[simp] theorem modCtx_uzosa (s : State) (i : Nat) (g : Ctx → Ctx) : (s.modCtx i g).uzosa = s.uzosa := by
  unfold modCtx; split <;> rfl
@[simp] theorem modCtx_errors (s : State) (i : Nat) (g : Ctx → Ctx) : (s.modCtx i g).errors = s.errors := by
  unfold modCtx; split <;> rfl
@[simp] theorem modCtx_offCores (s : State) (i : Nat) (g : Ctx → Ctx) : (s.modCtx i g).offCores = s.offCores := by
  unfold modCtx; split <;> rfl
@[simp] theorem modCtx_offSites (s : State) (i : Nat) (g : Ctx → Ctx) : (s.modCtx i g).offSites = s.offSites := by
  unfold modCtx; split <;> rfl

/-! ## Readers -/

@[simp] theorem setChain_setChain (s : State) (i : Nat) (c d : Chain) : (s.setChain i c).setChain i d = s.setChain i d := by
  simp [setChain]

@[simp] theorem setCore_setCore (s : State) (i : Nat) (c d : Core) : (s.setCore i c).setCore i d = s.setCore i d := by
  simp [setCore]

theorem modChain_eq {s : State} {i : Nat} {c : Chain} (h : s.chain? i = some c) (f : Chain → Chain) :
    s.modChain i f = s.setChain i (f c) := by
  unfold modChain; rw [h]

theorem modCtx_eq {s : State} {i : Nat} {c : Ctx} (h : Tab.find s.ctxs i = some c) (f : Ctx → Ctx) :
    s.modCtx i f = s.setCtx i (f c) := by
  unfold modCtx; rw [h]

@[simp] theorem chain?_setChain_self (s : State) (i : Nat) (c : Chain) : (s.setChain i c).chain? i = some c := by simp [chain?]

theorem chain?_setChain_ne (s : State) {i j : Nat} (c : Chain) (h : j ≠ i) : (s.setChain i c).chain? j = s.chain? j := by
  simp [chain?, Tab.find_put_ne _ c h]

@[simp] theorem chain?_setCore (s : State) (i j : Nat) (k : Core) : (s.setCore i k).chain? j = s.chain? j := rfl
@[simp] theorem chain?_modCore (s : State) (i j : Nat) (f : Core → Core) : (s.modCore i f).chain? j = s.chain? j := rfl

@[simp] theorem chain?_modChain_self (s : State) (i : Nat) (f : Chain → Chain) : (s.modChain i f).chain? i = (s.chain? i).map f := by
  unfold modChain
  cases h : s.chain? i with
  | none => simp [h]
  | some c => simp

theorem chain?_modChain_ne (s : State) {i j : Nat} (f : Chain → Chain) (h : j ≠ i) : (s.modChain i f).chain? j = s.chain? j := by
  unfold modChain
  split
  · exact chain?_setChain_ne s _ h
  · rfl

@[simp] theorem coreAt_setCore_self (s : State) (i : Nat) (k : Core) : (s.setCore i k).coreAt i = k := by simp [coreAt]

theorem coreAt_setCore_ne (s : State) {i j : Nat} (k : Core) (h : j ≠ i) : (s.setCore i k).coreAt j = s.coreAt j := by
  simp [coreAt, Tab.get_put_ne _ _ k h]

@[simp] theorem coreAt_modCore_self (s : State) (i : Nat) (f : Core → Core) : (s.modCore i f).coreAt i = f (s.coreAt i) := by
  simp [modCore]

theorem coreAt_modCore_ne (s : State) {i j : Nat} (f : Core → Core) (h : j ≠ i) : (s.modCore i f).coreAt j = s.coreAt j := by
  simp [modCore, coreAt_setCore_ne s _ h]

@[simp] theorem coreAt_setChain (s : State) (i j : Nat) (c : Chain) : (s.setChain i c).coreAt j = s.coreAt j := rfl
@[simp] theorem coreAt_modChain (s : State) (i j : Nat) (f : Chain → Chain) : (s.modChain i f).coreAt j = s.coreAt j := by
  simp [coreAt]

@[simp] theorem ctxAt_setCtx_self (s : State) (i : Nat) (c : Ctx) : (s.setCtx i c).ctxAt i = c := by simp [ctxAt]

theorem ctxAt_setCtx_ne (s : State) {i j : Nat} (c : Ctx) (h : j ≠ i) : (s.setCtx i c).ctxAt j = s.ctxAt j := by
  simp [ctxAt, Tab.get_put_ne _ _ c h]

@[simp] theorem ctxAt_setChain (s : State) (i j : Nat) (c : Chain) : (s.setChain i c).ctxAt j = s.ctxAt j := rfl
@[simp] theorem ctxAt_modChain (s : State) (i j : Nat) (f : Chain → Chain) : (s.modChain i f).ctxAt j = s.ctxAt j := by
  simp [ctxAt]
@[simp] theorem ctxAt_setCore (s : State) (i j : Nat) (k : Core) : (s.setCore i k).ctxAt j = s.ctxAt j := rfl
@[simp] theorem ctxAt_modCore (s : State) (i j : Nat) (f : Core → Core) : (s.modCore i f).ctxAt j = s.ctxAt j := rfl

theorem ctxAt_modCtx_ne (s : State) {i j : Nat} (f : Ctx → Ctx) (h : j ≠ i) : (s.modCtx i f).ctxAt j = s.ctxAt j := by
  unfold modCtx
  split
  · exact ctxAt_setCtx_ne s _ h
  · rfl

theorem ctxAt_modCtx_self (s : State) (i : Nat) (f : Ctx → Ctx) {c : Ctx} (h : Tab.find s.ctxs i = some c) :
    (s.modCtx i f).ctxAt i = f c := by
  simp [modCtx, h]

theorem find_modCtx_self (s : State) (i : Nat) (f : Ctx → Ctx) : Tab.find (s.modCtx i f).ctxs i = (Tab.find s.ctxs i).map f := by
  unfold modCtx
  cases h : Tab.find s.ctxs i with
  | none => simp [h]
  | some c => simp

@[simp] theorem sliceAt_setSlice_self (s : State) (i : Nat) (k : Slice) : (s.setSlice i k).sliceAt i = k := by simp [sliceAt]
theorem sliceAt_setSlice_ne (s : State) {i j : Nat} (k : Slice) (h : j ≠ i) : (s.setSlice i k).sliceAt j = s.sliceAt j := by
  simp [sliceAt, Tab.get_put_ne _ _ k h]
@[simp] theorem clusterAt_setCluster_self (s : State) (i : Nat) (k : Cluster) : (s.setCluster i k).clusterAt i = k := by
  simp [clusterAt]
theorem clusterAt_setCluster_ne (s : State) {i j : Nat} (k : Cluster) (h : j ≠ i) :
    (s.setCluster i k).clusterAt j = s.clusterAt j := by
  simp [clusterAt, Tab.get_put_ne _ _ k h]

end Sys2Proof.Machine.State
end

