-- ==== Sys2Proof/Laws/Issue.lean ====
section
/-!
SUPPORT. Laws of one issue: what landing, delivering and advancing change, and what a register reads as afterwards.
-/
namespace Sys2Proof.Machine

/-! ## Reading results -/

namespace Chain

/-- How one write changes the choice of `landed`. -/
def landStep (cell : CellId) (n : Nat) (x : Option PendW) (w : PendW) : Option PendW :=
  if w.cell = cell ∧ w.land ≤ n then
    (match x with
     | some y => if y.land ≤ w.land then some w else some y
     | none => some w)
  else x

theorem landed_eq (ws : List PendW) (cell : CellId) (n : Nat) : landed ws cell n = ws.foldl (landStep cell n) none := rfl

theorem landed_append (a b : List PendW) (cell : CellId) (n : Nat) :
    landed (a ++ b) cell n = b.foldl (landStep cell n) (landed a cell n) := by
  rw [landed_eq, landed_eq, List.foldl_append]

theorem landStep_mem {ws : List PendW} {cell : CellId} {n : Nat} {x : Option PendW} {w : PendW}
    (h : ws.foldl (landStep cell n) x = some w) : x = some w ∨ (w ∈ ws ∧ w.cell = cell ∧ w.land ≤ n) := by
  induction ws generalizing x with
  | nil => exact .inl h
  | cons y r ih =>
    rcases ih h with h | h
    · unfold landStep at h
      split at h
      · rename_i hy
        split at h
        · split at h
          · cases h; exact .inr ⟨List.mem_cons_self, hy⟩
          · cases h; exact .inl rfl
        · cases h; exact .inr ⟨List.mem_cons_self, hy⟩
      · exact .inl h
    · exact .inr ⟨List.mem_cons_of_mem _ h.1, h.2⟩

/-- What lands is one of the writes. -/
theorem landed_mem {ws : List PendW} {cell : CellId} {n : Nat} {w : PendW} (h : landed ws cell n = some w) :
    w ∈ ws ∧ w.cell = cell ∧ w.land ≤ n := by
  rcases landStep_mem h with h | h
  · cases h
  · exact h

/-- Writes to other cells do not show. -/
theorem landed_append_other (a b : List PendW) (cell : CellId) (n : Nat) (h : ∀ w ∈ b, w.cell ≠ cell) :
    landed (a ++ b) cell n = landed a cell n := by
  rw [landed_append]
  induction b with
  | nil => rfl
  | cons w r ih =>
    have hw := h w List.mem_cons_self
    simp only [List.foldl_cons, landStep, hw, false_and, if_false]
    exact ih (fun x hx => h x (List.mem_cons_of_mem _ hx))

/-- The one write to a cell that is added last shows from the cycle it lands, when no earlier one lands after it. -/
theorem landed_append_one (a b c : List PendW) (w : PendW) (n : Nat) (hb : ∀ x ∈ b, x.cell ≠ w.cell)
    (hc : ∀ x ∈ c, x.cell ≠ w.cell) (hn : w.land ≤ n) (ha : ∀ x ∈ a, x.cell = w.cell → x.land ≤ w.land) :
    landed (a ++ (b ++ w :: c)) w.cell n = some w := by
  have e : a ++ (b ++ w :: c) = ((a ++ b) ++ [w]) ++ c := by simp
  rw [e, landed_append_other _ _ _ _ hc, landed_append]
  simp only [List.foldl_cons, List.foldl_nil, landStep, hn, and_self, if_true]
  rw [landed_append_other _ _ _ _ hb]
  cases hl : landed a w.cell n with
  | none => rfl
  | some y =>
    have := landed_mem hl
    simp [ha y this.1 this.2.1]

@[simp] theorem addPend_pend (c : Chain) (ws : List PendW) : (c.addPend ws).pend = c.pend ++ ws := rfl

theorem fileOf_congr {c d : Chain} (hg : d.g = c.g) (hs : d.s = c.s) (hk : d.k = c.k) (hp : d.p = c.p) (hf : d.fpst = c.fpst)
    (cell : CellId) : d.fileOf cell = c.fileOf cell := by cases cell <;> simp [fileOf, hg, hs, hk, hp, hf]

end Chain

/-- A list of writes and a cell with exactly one of them: it splits around that one. -/
theorem split_unique {α : Type} [DecidableEq α] {l : List α} {x : α} (hx : x ∈ l) (P : α → Prop)
    (hu : ∀ y ∈ l, P y → y = x) (hn : l.Nodup) : ∃ b c, l = b ++ x :: c ∧ (∀ y ∈ b, ¬ P y) ∧ (∀ y ∈ c, ¬ P y) := by
  obtain ⟨b, c, rfl⟩ := List.append_of_mem hx
  refine ⟨b, c, rfl, ?_, ?_⟩
  · intro y hy hp
    have := hu y (by simp [hy]) hp
    subst this
    rw [List.nodup_append] at hn
    exact hn.2.2 y hy y List.mem_cons_self rfl
  · intro y hy hp
    have := hu y (by simp [hy]) hp
    subst this
    rw [List.nodup_append, List.nodup_cons] at hn
    exact hn.2.1.1 hy

/-! ## Lanes -/

theorem lanesOf_nodup (m : Mask) : (lanesOf m).Nodup := List.nodup_range.filter _

theorem mem_lanesOf {m : Mask} {l : Nat} : l ∈ lanesOf m ↔ l < 32 ∧ m.getLsbD l = true := by simp [lanesOf]

/-! ## Accounting -/

theorem selChain_of {s : State} {c : Chain} (hc : s.chain? s.sel.chain = some c) : s.selChain = c := by
  simp only [State.chain?] at hc
  simp [State.selChain, Tab.get, hc]

/-- The chain after its issue of n cycles. -/
def issuedChain (s : State) (c : Chain) (stall n : Nat) : Chain :=
  { c with
    elig := s.sel.t0 + (n - 1) + max stall 1, lastIssue := s.sel.t0 + (n - 1), waiting := false,
    frontier := match s.sel.demote with
      | none => c.frontier
      | some p => (c.frontier.map (fun e => if e.prio = p then { e with rot := false } else e)).foldl sortEntry [] }

theorem account_eq {s : State} {c : Chain} (hc : s.chain? s.sel.chain = some c) (stall n : Nat) :
    account s stall n = (s.modCore s.selCore (fun k => { k with cc := s.sel.t0 + n, seq := s.sel.seq + 1 })).setChain
      s.sel.chain (issuedChain s c stall n) := by
  have : (s.modCore s.selCore (fun k => { k with cc := s.sel.t0 + n, seq := s.sel.seq + 1 })).chain? s.sel.chain = some c := by
    simpa [State.chain?] using hc
  unfold account
  show State.modChain _ _ _ = _
  unfold State.modChain
  rw [this]; rfl

/-- The chain with the lanes at the issuing word moved to the next. -/
def steppedChain (s : State) (c : Chain) : Chain :=
  c.move (restLanes s) (s.sel.pc + 8) s.sel.prio (match entryAt c.frontier s.sel.pc with
    | some e => e.rot
    | none => false)

theorem stepOn_eq {s : State} {c : Chain} (hc : s.chain? s.sel.chain = some c) :
    stepOn s = s.setChain s.sel.chain (steppedChain s c) := by
  unfold stepOn State.modChain
  rw [hc]; rfl

theorem deliver_eq {s : State} {c : Chain} (hc : s.chain? s.sel.chain = some c) (ws : List PendW) :
    deliver s ws = s.setChain s.sel.chain (c.addPend ws) := by
  unfold deliver State.modChain
  rw [hc]

@[simp] theorem deliver_sel (s : State) (ws : List PendW) : (deliver s ws).sel = s.sel := by simp [deliver]

@[simp] theorem advanceLanes_deliver (s : State) (ws : List PendW) (h : Hdr) :
    advanceLanes (deliver s ws) h = advance (deliver s ws) h (groupsOf s.sel.pack) := by simp [advanceLanes]

/-- An issue touches the table of chains and the core's accounting alone. -/
theorem advance_eq {s : State} {c : Chain} (hc : s.chain? s.sel.chain = some c) (h : Hdr) (n : Nat) :
    advance s h n = ((s.setChain s.sel.chain (steppedChain s c)).modCore s.selCore
      (fun k => { k with cc := s.sel.t0 + n, seq := s.sel.seq + 1 })).setChain s.sel.chain
      (issuedChain s (steppedChain s c) h.stall.toNat n) := by
  simp only [advance]
  rw [stepOn_eq hc, account_eq (c := steppedChain s c) (by simp)]
  simp [State.selCore, issuedChain]

theorem advance_chain {s : State} {c : Chain} (hc : s.chain? s.sel.chain = some c) (h : Hdr) (n : Nat) :
    (advance s h n).chain? s.sel.chain = some (issuedChain s (steppedChain s c) h.stall.toNat n) := by
  simp [advance_eq hc]

@[simp] theorem advance_sel (s : State) (h : Hdr) (n : Nat) : (advance s h n).sel = s.sel := by
  simp [advance, account, stepOn]

theorem advance_only {s : State} {c : Chain} (hc : s.chain? s.sel.chain = some c) (h : Hdr) (n : Nat) :
    OnlyIssue s (advance s h n) n where
  rest := by rw [advance_eq hc]; rfl
  chains j hj := by
    rw [advance_eq hc, State.chain?_setChain_ne _ _ hj]
    show (s.setChain s.sel.chain _).chain? j = _
    rw [State.chain?_setChain_ne _ _ hj]
  cores k hk := by
    rw [advance_eq hc]
    simp [State.coreAt, State.modCore, Tab.get_put_ne _ _ _ hk]
  core := by
    rw [advance_eq hc]
    simp [State.coreAt, State.modCore]
  bytes a := by rw [advance_eq hc]; rfl

/-- The chain of a delivered result after its issue. -/
theorem advance_deliver_chain {s : State} {c : Chain} (hc : s.chain? s.sel.chain = some c) (h : Hdr) (n : Nat) (ws : List PendW) :
    ∃ d, (advance (deliver s ws) h n).chain? s.sel.chain = some d ∧ d.pend = c.pend ++ ws ∧
      d = { c with pend := c.pend ++ ws, frontier := d.frontier, elig := s.sel.t0 + (n - 1) + max h.stall.toNat 1,
                   lastIssue := s.sel.t0 + (n - 1), waiting := false } := by
  have hd : (deliver s ws).chain? (deliver s ws).sel.chain = some (c.addPend ws) := by rw [deliver_eq hc]; simp
  have hs : (deliver s ws).sel = s.sel := by rw [deliver_eq hc]; rfl
  have := advance_chain hd h n
  rw [hs] at this
  refine ⟨_, this, ?_, ?_⟩
  · simp [issuedChain, steppedChain, Chain.move]
  · simp [issuedChain, steppedChain, Chain.move, Chain.addPend]

theorem fpstAt_append (c d : Chain) (ws : List PendW) (hf : d.fpst = c.fpst) (hp : d.pend = c.pend ++ ws) (n : Nat) :
    fpstAt d n = (ws.filter (fun w => decide (w.cell = .fpst) && decide (w.land < n))).foldl
      (fun a w => a ||| BitVec.ofNat 32 w.val) (fpstAt c n) := by
  simp [fpstAt, hf, hp, List.filter_append, List.foldl_append]

theorem flagWrite_fpst (s : State) (fl : Flags) (land lat n : Nat) (x : W32) :
    ((flagWrite s fl land lat).filter (fun w => decide (w.cell = .fpst) && decide (w.land < n))).foldl
      (fun a w => a ||| BitVec.ofNat 32 w.val) x = x ||| (if land < n then fl.setWidth 32 else 0) := by
  unfold flagWrite
  split
  · rename_i h; subst h; simp
  · by_cases hn : land < n
    · simp [hn]
    · simp [hn]

/-- Results of registers other than FPST, with an instruction's flags: the frame of the issue. -/
theorem deliver_frame {s : State} {c : Chain} (hc : s.chain? s.sel.chain = some c) (h : Hdr) (n : Nat) (ws : List PendW)
    (dst : List CellId) (fl : Flags) (land lat : Nat) (hw : ∀ w ∈ ws, w.cell ∈ dst) (hd : CellId.fpst ∉ dst) :
    RegFrame s (advance (deliver s (ws ++ flagWrite s fl land lat)) h n) h n dst fl land where
  only := by
    have hd : (deliver s (ws ++ flagWrite s fl land lat)).chain? (deliver s (ws ++ flagWrite s fl land lat)).sel.chain =
        some (c.addPend (ws ++ flagWrite s fl land lat)) := by rw [deliver_eq hc]; simp
    have o := advance_only hd h n
    rw [deliver_eq hc] at o ⊢
    exact { rest := by rw [o.rest]; rfl
            chains := fun j hj => by rw [o.chains j hj, State.chain?_setChain_ne _ _ hj]
            cores := fun k hk => o.cores k hk
            core := o.core
            bytes := fun a => o.bytes a }
  chain := by
    obtain ⟨d, h1, h2, h3⟩ := advance_deliver_chain hc h n (ws ++ flagWrite s fl land lat)
    refine ⟨c, d, hc, h1, ?_, ?_, ?_⟩
    · rw [h2]; exact h3
    · intro cell hcell hne k
      have hfile : d.fileOf cell = c.fileOf cell := Chain.fileOf_congr (by rw [h3]) (by rw [h3]) (by rw [h3]) (by rw [h3]) (by rw [h3]) cell
      have hl : Chain.landed d.pend cell k = Chain.landed c.pend cell k := by
        rw [h2]
        apply Chain.landed_append_other
        intro w hw' e
        rcases List.mem_append.1 hw' with hw' | hw'
        · exact hcell (e ▸ hw w hw')
        · unfold flagWrite at hw'
          split at hw'
          · simp at hw'
          · simp at hw'; subst hw'; exact hne e.symm
      simp [Chain.readAt, hl, hfile]
    · intro k
      rw [fpstAt_append c d _ (by rw [h3]) h2, List.filter_append, List.foldl_append]
      have : ws.filter (fun w => decide (w.cell = .fpst) && decide (w.land < k)) = [] := by
        rw [List.filter_eq_nil_iff]
        intro w hw' e
        simp at e
        exact hd (e.1 ▸ hw w hw')
      rw [this, List.foldl_nil, flagWrite_fpst]

theorem steppedChain_eq (s : State) (c : Chain) : steppedChain s c = { c with frontier := (steppedChain s c).frontier } := rfl

theorem issuedChain_eq (s : State) (c : Chain) (stall n : Nat) : issuedChain s c stall n =
    { c with frontier := (issuedChain s c stall n).frontier, elig := s.sel.t0 + (n - 1) + max stall 1,
             lastIssue := s.sel.t0 + (n - 1), waiting := false } := rfl

/-- An issue with no result: the frame. -/
theorem advance_frame {s : State} {c : Chain} (hc : s.chain? s.sel.chain = some c) (h : Hdr) (n k : Nat) :
    RegFrame s (advance s h n) h n [] 0 k where
  only := advance_only hc h n
  chain := by
    refine ⟨c, _, hc, advance_chain hc h n, ?_, ?_, ?_⟩
    · rfl
    · intro cell _ _ m; rfl
    · intro m; simp [fpstAt, issuedChain, steppedChain, Chain.move]

/-- A delivered result reads from the cycle it lands. -/
theorem deliver_read {s : State} {c : Chain} (hc : s.chain? s.sel.chain = some c) (h : Hdr) (n : Nat)
    (b a : List PendW) (w : PendW) (k : Nat) (hb : ∀ x ∈ b, x.cell ≠ w.cell) (ha : ∀ x ∈ a, x.cell ≠ w.cell)
    (hk : w.land ≤ k) (hl : NoLater c w.cell w.land) :
    (advance (deliver s (b ++ w :: a)) h n).selChain.readAt w.cell k = w.val := by
  obtain ⟨d, h1, h2, -⟩ := advance_deliver_chain hc h n (b ++ w :: a)
  have hs : (advance (deliver s (b ++ w :: a)) h n).sel = s.sel := by rw [advance_sel, deliver_eq hc]; rfl
  rw [selChain_of (c := d) (by rw [hs]; exact h1)]
  unfold Chain.readAt
  rw [h2, Chain.landed_append_one c.pend b a w k hb ha hk (fun x hx e => hl x hx e)]

end Sys2Proof.Machine
end

