-- ==== Sys2Proof/Laws/Frontier.lean ====
section
/-!
SUPPORT. Laws of the frontier: where lanes stand after entries are left, entered and moved, and the two updates of a
chain that every issue ends with.
-/
namespace Sys2Proof.Machine

/-- A lane stands at a program counter in a list of entries. -/
def StandsIn (fr : List Entry) (l pc : Nat) : Prop := ∃ e ∈ fr, e.pc = pc ∧ e.lanes.getLsbD l = true

theorem stands_def (c : Chain) (l pc : Nat) : Stands c l pc ↔ StandsIn c.frontier l pc := Iff.rfl

theorem mem_sortEntry {fr : List Entry} {e x : Entry} : x ∈ sortEntry fr e ↔ x = e ∨ x ∈ fr := by
  induction fr with
  | nil => simp [sortEntry]
  | cons y r ih =>
    unfold sortEntry
    split
    · simp
    · simp only [List.mem_cons, ih]
      constructor
      · rintro (h | h | h)
        · exact .inr (.inl h)
        · exact .inl h
        · exact .inr (.inr h)
      · rintro (h | h | h)
        · exact .inr (.inl h)
        · exact .inl h
        · exact .inr (.inr h)

theorem mem_foldl_sortEntry {es fr : List Entry} {x : Entry} : x ∈ es.foldl sortEntry fr ↔ x ∈ es ∨ x ∈ fr := by
  induction es generalizing fr with
  | nil => simp
  | cons y r ih =>
    rw [List.foldl_cons, ih, mem_sortEntry, List.mem_cons]
    constructor
    · rintro (h | h | h)
      · exact .inl (.inr h)
      · exact .inl (.inl h)
      · exact .inr h
    · rintro ((h | h) | h)
      · exact .inr (.inl h)
      · exact .inl h
      · exact .inr (.inr h)

theorem standsIn_leave (fr : List Entry) (m : Mask) (l pc : Nat) (hl : l < 32) :
    StandsIn (leave fr m) l pc ↔ StandsIn fr l pc ∧ m.getLsbD l = false := by
  unfold StandsIn leave
  constructor
  · rintro ⟨e, he, h1, h2⟩
    rw [List.mem_filter, List.mem_map] at he
    obtain ⟨⟨x, hx, rfl⟩, -⟩ := he
    rw [BitVec.getLsbD_and, BitVec.getLsbD_not] at h2
    simp only [Bool.and_eq_true, Bool.not_eq_true', decide_eq_true_eq] at h2
    exact ⟨⟨x, hx, h1, h2.1⟩, h2.2.2⟩
  · rintro ⟨⟨x, hx, h1, h2⟩, hm⟩
    have hb : (x.lanes &&& ~~~m).getLsbD l = true := by
      rw [BitVec.getLsbD_and, BitVec.getLsbD_not, h2, hm]; simp [hl]
    refine ⟨{ x with lanes := x.lanes &&& ~~~m }, ?_, h1, hb⟩
    rw [List.mem_filter, List.mem_map]
    refine ⟨⟨x, hx, rfl⟩, ?_⟩
    simp only [ne_eq, decide_eq_true_eq]
    intro e
    rw [e] at hb; simp at hb

theorem foldl_meet_pc (xs : List Entry) (e : Entry) : (xs.foldl meet e).pc = e.pc := by
  induction xs generalizing e with
  | nil => rfl
  | cons x r ih => rw [List.foldl_cons, ih]; rfl

theorem foldl_meet_lanes (xs : List Entry) (e : Entry) (l : Nat) :
    (xs.foldl meet e).lanes.getLsbD l = true ↔ e.lanes.getLsbD l = true ∨ ∃ x ∈ xs, x.lanes.getLsbD l = true := by
  induction xs generalizing e with
  | nil => simp
  | cons x r ih =>
    rw [List.foldl_cons, ih]
    simp only [meet, BitVec.getLsbD_or, Bool.or_eq_true, List.mem_cons, exists_eq_or_imp]
    constructor
    · rintro ((h | h) | h)
      · exact .inr (.inl h)
      · exact .inl h
      · exact .inr (.inr h)
    · rintro (h | h | h)
      · exact .inl (.inr h)
      · exact .inl (.inl h)
      · exact .inr h

theorem standsIn_enter (fr : List Entry) (e : Entry) (l pc : Nat) :
    StandsIn (enter fr e) l pc ↔ StandsIn fr l pc ∨ (pc = e.pc ∧ e.lanes.getLsbD l = true) := by
  unfold enter
  split
  · rename_i h; simp [h]
  · unfold StandsIn
    constructor
    · rintro ⟨x, hx, h1, h2⟩
      rcases mem_sortEntry.1 hx with hx | hx
      · subst hx
        rw [foldl_meet_pc] at h1
        rcases (foldl_meet_lanes _ _ _).1 h2 with h | ⟨y, hy, h⟩
        · exact .inr ⟨h1.symm, h⟩
        · rw [List.mem_filter] at hy
          exact .inl ⟨y, hy.1, (by simpa using hy.2 : y.pc = e.pc).trans h1, h⟩
      · exact .inl ⟨x, (List.mem_filter.1 hx).1, h1, h2⟩
    · rintro (⟨x, hx, h1, h2⟩ | ⟨h1, h2⟩)
      · by_cases hp : x.pc = e.pc
        · refine ⟨_, mem_sortEntry.2 (.inl rfl), (foldl_meet_pc _ _).trans (hp.symm.trans h1), ?_⟩
          exact (foldl_meet_lanes _ _ _).2 (.inr ⟨x, List.mem_filter.2 ⟨hx, by simpa using hp⟩, h2⟩)
        · exact ⟨x, mem_sortEntry.2 (.inr (List.mem_filter.2 ⟨hx, by simpa using hp⟩)), h1, h2⟩
      · exact ⟨_, mem_sortEntry.2 (.inl rfl), (foldl_meet_pc _ _).trans h1.symm, (foldl_meet_lanes _ _ _).2 (.inl h2)⟩

/-- Moved lanes stand where they were moved to, the others where they stood. -/
theorem stands_move (c : Chain) (m : Mask) (pc prio : Nat) (rot : Bool) (l q : Nat) (hl : l < 32) :
    Stands (c.move m pc prio rot) l q ↔ (Stands c l q ∧ m.getLsbD l = false) ∨ (q = pc ∧ m.getLsbD l = true) := by
  rw [stands_def, stands_def]
  unfold Chain.move
  rw [standsIn_enter, standsIn_leave _ _ _ _ hl]

theorem stands_issued (s : State) (c : Chain) (stall n l q : Nat) : Stands (issuedChain s c stall n) l q ↔ Stands c l q := by
  rw [stands_def, stands_def]
  unfold issuedChain
  cases s.sel.demote with
  | none => exact Iff.rfl
  | some p =>
    simp only [StandsIn]
    constructor
    · rintro ⟨e, he, h1, h2⟩
      rw [mem_foldl_sortEntry, List.mem_map] at he
      obtain ⟨x, hx, rfl⟩ := he.resolve_right (by simp)
      refine ⟨x, hx, ?_, ?_⟩
      · split at h1 <;> exact h1
      · split at h2 <;> exact h2
    · rintro ⟨e, he, h1, h2⟩
      refine ⟨_, mem_foldl_sortEntry.2 (.inl (List.mem_map.2 ⟨e, he, rfl⟩)), ?_, ?_⟩
      · split <;> exact h1
      · split <;> exact h2

/-- An update of the performing chain followed by the issue's accounting: the state and the chain. -/
theorem account_set {s : State} (d : Chain) (stall n : Nat) :
    (account (s.setChain s.sel.chain d) stall n).chain? s.sel.chain = some (issuedChain s d stall n) ∧
    OnlyIssue s (account (s.setChain s.sel.chain d) stall n) n := by
  have hd : (s.setChain s.sel.chain d).chain? (s.setChain s.sel.chain d).sel.chain = some d := by simp
  rw [account_eq hd]
  refine ⟨by simp [issuedChain], ?_⟩
  exact {
    rest := rfl
    chains := fun j hj => by
      show ((s.setChain s.sel.chain d).modCore _ _ |>.setChain s.sel.chain _).chain? j = _
      rw [State.chain?_setChain_ne _ _ hj]
      simp only [State.chain?, State.modCore_chains, State.setChain_chains]
      rw [Tab.find_put_ne _ _ hj]
    cores := fun k hk => by
      have hk' : k ≠ s.selCore := hk
      simp only [State.coreAt, State.modCore, State.setChain_cores, State.setCore_cores]
      rw [Tab.get_put_ne _ _ _ (by simpa [State.selCore] using hk')]
    core := by simp [State.coreAt, State.modCore, State.selCore]
    bytes := fun _ => rfl }

theorem goTo_eq {s : State} {c : Chain} (hc : s.chain? s.sel.chain = some c) (m : Mask) (pc prio : Nat) :
    goTo s m pc prio = s.setChain s.sel.chain (c.move m pc prio (entryRot s)) := by
  unfold goTo State.modChain
  rw [hc]

@[simp] theorem goTo_sel (s : State) (m : Mask) (pc prio : Nat) : (goTo s m pc prio).sel = s.sel := by simp [goTo]

end Sys2Proof.Machine
end

