-- ==== Sys2Proof/Laws/Logged.lean ====
section
/-!
SUPPORT. Laws of updates that touch the performing chain and its core's monuments alone: they compose, and an issue that
ends with the accounting after them changes nothing else.
-/
namespace Sys2Proof.Machine

/-- Only the performing chain and the monuments of its core differ. -/
structure LogOnly (s t : State) : Prop where
  rest : t = { s with chains := t.chains, cores := t.cores }
  chains : ∀ j, j ≠ s.sel.chain → t.chain? j = s.chain? j
  cores : ∀ k, k ≠ s.selCore → t.coreAt k = s.coreAt k
  core : t.coreAt s.selCore = { s.coreAt s.selCore with mons := (t.coreAt s.selCore).mons }

theorem LogOnly.sel {s t : State} (h : LogOnly s t) : t.sel = s.sel := by rw [h.rest]

theorem LogOnly.refl (s : State) : LogOnly s s := ⟨rfl, fun _ _ => rfl, fun _ _ => rfl, rfl⟩

theorem LogOnly.trans {s t u : State} (h : LogOnly s t) (g : LogOnly t u) : LogOnly s u := by
  have hs := h.sel
  have hk : t.selCore = s.selCore := by simp [State.selCore, hs]
  refine ⟨?_, ?_, ?_, ?_⟩
  · rw [g.rest, h.rest]
  · intro j hj; rw [g.chains j (by rw [hs]; exact hj), h.chains j hj]
  · intro k hk'; rw [g.cores k (by rw [hk]; exact hk'), h.cores k hk']
  · have g' := g.core
    rw [hk, h.core] at g'
    exact g'

theorem LogOnly.setChain (s : State) (d : Chain) : LogOnly s (s.setChain s.sel.chain d) :=
  ⟨rfl, fun _ hj => State.chain?_setChain_ne _ _ hj, fun _ _ => rfl, rfl⟩

theorem LogOnly.logOld (s : State) (ctx : Nat) (e : LogEnt) : LogOnly s (logOld s s.selCore ctx e) := by
  unfold Machine.logOld
  simp only
  split
  · refine ⟨rfl, fun _ _ => rfl, fun k hk => State.coreAt_setCore_ne _ _ hk, ?_⟩
    rw [State.coreAt_setCore_self]
  · exact LogOnly.refl s

theorem logOld_chains (s : State) (core ctx : Nat) (e : LogEnt) : (logOld s core ctx e).chains = s.chains := by
  unfold logOld; simp only; split <;> rfl

theorem logOld_sel (s : State) (core ctx : Nat) (e : LogEnt) : (logOld s core ctx e).sel = s.sel := by
  unfold logOld; simp only; split <;> rfl

/-- After such updates, the accounting of the issue. -/
theorem LogOnly.account {s t : State} (h : LogOnly s t) {d : Chain} (hd : t.chain? s.sel.chain = some d) (stall n : Nat) :
    (account t stall n).chain? s.sel.chain = some (issuedChain s d stall n) ∧ OnlyIssueLog s (account t stall n) n := by
  have hs := h.sel
  have hk : t.selCore = s.selCore := by simp [State.selCore, hs]
  have hd' : t.chain? t.sel.chain = some d := by rw [hs]; exact hd
  rw [account_eq hd', hs]
  refine ⟨by simp [issuedChain, hs], ?_⟩
  exact {
    rest := by
      have := h.rest
      simp only [State.setChain, State.modCore, State.setCore]
      rw [this]
    chains := fun j hj => by
      rw [State.chain?_setChain_ne _ _ hj]
      simp only [State.chain?, State.modCore_chains]
      exact h.chains j hj
    cores := fun k hk' => by
      simp only [State.coreAt, State.setChain_cores, State.modCore, State.setCore_cores]
      rw [Tab.get_put_ne _ _ _ (by rw [hk]; exact hk')]
      exact h.cores k hk'
    core := by
      have hc := h.core
      rw [hk]
      simp only [State.coreAt, State.setChain_cores, State.modCore, State.setCore_cores, Tab.get_put_self]
      simp only [State.coreAt] at hc
      rw [hc]
    bytes := fun a => by
      have := h.rest
      simp only [byteAt, State.setChain_hbm, State.modCore_hbm]
      rw [this] }

/-- A write of a return stack (R185): the chain's stack of that lane, and perhaps the log. -/
theorem setStack_log {s : State} {c : Chain} (hc : s.chain? s.sel.chain = some c) (l : Nat) (st : List (Nat × Nat)) :
    LogOnly s (setStack s l st) ∧
    (setStack s l st).chain? s.sel.chain = some { c with callStacks := Cells.set [] c.callStacks l st } := by
  unfold setStack
  have h1 := LogOnly.logOld s s.selChain.ctx (.stack (slotOf s.sel.chain) l (stackOf s.selChain l))
  have hs := h1.sel
  have hc1 : (logOld s s.selCore s.selChain.ctx (.stack (slotOf s.sel.chain) l (stackOf s.selChain l))).chain? s.sel.chain = some c := by
    simp only [State.chain?, logOld_chains]; exact hc
  constructor
  · refine h1.trans ?_
    simp only
    rw [State.modChain_eq hc1]
    have := LogOnly.setChain (logOld s s.selCore s.selChain.ctx (.stack (slotOf s.sel.chain) l (stackOf s.selChain l)))
      { c with callStacks := Cells.set [] c.callStacks l st }
    rw [hs] at this
    exact this
  · simp only
    rw [State.chain?_modChain_self, hc1]; rfl

end Sys2Proof.Machine
end

