-- ==== Sys2Proof/Laws/Memory.lean ====
section
/-!
SUPPORT. Memory operations: they keep the canonical form, a write is read back, and other bytes stay.
-/
namespace Sys2Proof.Machine

/-- HBM and peer frames are both in canonical form. -/
abbrev State.memOk (s : State) : Prop := Memory.wf s.hbm = true ∧ Memory.wf s.peer = true

theorem reset_memOk : State.reset.memOk := ⟨rfl, rfl⟩

theorem cellsWrite_wf {m : Cells Byte} (a n v : Nat) (h : Cells.wf 0 m = true) : Cells.wf 0 (cellsWrite m a n v) = true :=
  Cells.wf_foldl 0 _ (fun i => a + i) (fun i => BitVec.ofNat 8 (v >>> (8 * i))) h

theorem physWrite_memOk {s : State} (pa n v : Nat) (h : s.memOk) : (physWrite s pa n v).memOk := by
  unfold physWrite; split
  · exact ⟨h.1, cellsWrite_wf _ n v h.2⟩
  · exact ⟨cellsWrite_wf _ n v h.1, h.2⟩

theorem physFill_memOk {s : State} (pa n : Nat) (l : List (Nat × Byte)) (h : s.memOk) : (physFill s pa n l).memOk := by
  unfold physFill
  dsimp only
  split
  · exact ⟨h.1, Cells.wf_foldl 0 l (fun e => _ + e.1) (fun e => e.2) (Cells.wf_filter 0 _ h.2)⟩
  · exact ⟨Cells.wf_foldl 0 l (fun e => _ + e.1) (fun e => e.2) (Cells.wf_filter 0 _ h.1), h.2⟩

theorem copyPage_memOk {s : State} (src dst : Nat) (h : s.memOk) : (copyPage s src dst).memOk :=
  physFill_memOk dst 4096 _ h

theorem setCBit_memOk {s : State} (pa : Nat) (b : Bool) (h : s.memOk) : (setCBit s pa b).memOk := h

/-- A fold of steps that each keep the form keeps it. -/
theorem foldl_memOk {α : Type} (l : List α) (f : State → α → State) (hf : ∀ s a, s.memOk → (f s a).memOk) {s : State} (h : s.memOk) :
    (l.foldl f s).memOk := by
  induction l generalizing s with
  | nil => exact h
  | cons a r ih => exact ih (hf s a h)

theorem retirePage_memOk {s t : State} (pa : Nat) (bad : List Nat) (h : s.memOk) (ht : retirePage s pa bad = some t) : t.memOk := by
  unfold retirePage at ht
  dsimp only at ht
  rw [Option.map_eq_some_iff] at ht
  obtain ⟨i, -, rfl⟩ := ht
  have h1 := copyPage_memOk (realPa s (pa / 4096 * 4096)) (sparePage (paSite pa) i) h
  exact foldl_memOk (((s.sliceAt (paSite pa)).secs).filter (fun e => decide (e.2.pa / 4096 = pa / 4096) && e.2.cmp.isNone))
    (fun s e => { s with hbm := cellsWrite s.hbm (sparePage (paSite pa) i + e.2.pa % 4096) 64 e.2.data.toNat })
    (fun s e hs => ⟨cellsWrite_wf _ 64 _ hs.1, hs.2⟩) h1

/-! ## Reads after writes -/

theorem cellsWrite_get {m : Cells Byte} (a n v b : Nat) :
    Cells.get 0 (cellsWrite m a n v) b = if a ≤ b ∧ b < a + n then BitVec.ofNat 8 (v >>> (8 * (b - a))) else Cells.get 0 m b := by
  unfold cellsWrite
  induction n with
  | zero =>
    rw [if_neg (by omega : ¬ (a ≤ b ∧ b < a + 0))]
    rfl
  | succ n ih =>
    rw [List.range_succ, List.foldl_append, List.foldl_cons, List.foldl_nil]
    by_cases hb : b = a + n
    · subst hb
      rw [Cells.get_set_self]
      simp
    · rw [Cells.get_set_ne 0 _ _ hb, ih]
      by_cases h1 : a ≤ b ∧ b < a + n
      · rw [if_pos h1, if_pos ⟨h1.1, by omega⟩]
      · rw [if_neg h1, if_neg (by omega)]

/-- A write to HBM: the bytes of its range read what was written, every other byte what it read before. -/
theorem physWrite_byteAt {s : State} (pa n v a : Nat) (hp : isPeer pa = false) :
    byteAt (physWrite s pa n v) a =
      if realPa s pa ≤ a ∧ a < realPa s pa + n then BitVec.ofNat 8 (v >>> (8 * (a - realPa s pa))) else byteAt s a := by
  simp only [physWrite, hp, byteAt, Bool.false_eq_true, if_false]
  exact cellsWrite_get _ _ _ _

end Sys2Proof.Machine
end

