-- ==== Sys2Proof/Laws/Results.lean ====
section
/-!
SUPPORT. What the three deliveries of results do: a lane result, a predicate result and a uniform result.
-/
namespace Sys2Proof.Machine

/-- A list with no repeats splits around each of its members. -/
theorem split_at {l : List Nat} (hn : l.Nodup) {x : Nat} (hx : x ∈ l) : ∃ b c, l = b ++ x :: c ∧ x ∉ b ∧ x ∉ c := by
  obtain ⟨b, c, rfl⟩ := List.append_of_mem hx
  rw [List.nodup_append, List.nodup_cons] at hn
  exact ⟨b, c, rfl, fun h => hn.2.2 x h x List.mem_cons_self rfl, hn.2.1.1⟩

@[simp] theorem pendOf_cell (s : State) (cell : CellId) (v st lat : Nat) : (pendOf s cell v st lat).cell = cell := rfl
@[simp] theorem pendOf_val (s : State) (cell : CellId) (v st lat : Nat) : (pendOf s cell v st lat).val = v := rfl
@[simp] theorem pendOf_land (s : State) (cell : CellId) (v st lat : Nat) : (pendOf s cell v st lat).land = st + lat := rfl

theorem flagWrite_cell {s : State} {fl : Flags} {land lat : Nat} {w : PendW} (h : w ∈ flagWrite s fl land lat) :
    w.cell = .fpst := by
  unfold flagWrite at h
  split at h
  · simp at h
  · simp at h; rw [h]

theorem gWrites_cell {s : State} {wide : Bool} {r lane v st lat : Nat} {w : PendW} (h : w ∈ gWrites s wide r lane v st lat) :
    w.cell = .g r lane ∨ (wide = true ∧ w.cell = .g (r + 1) lane) := by
  unfold gWrites at h
  cases wide <;> simp at h
  · exact .inl (by rw [h]; rfl)
  · rcases h with h | h
    · exact .inl (by rw [h]; rfl)
    · exact .inr ⟨rfl, by rw [h]; rfl⟩

theorem sWrites_cell {s : State} {wide : Bool} {r v st lat : Nat} {w : PendW} (h : w ∈ sWrites s wide r v st lat) :
    w.cell ∈ sCells wide r := by
  unfold sWrites at h
  unfold sCells
  cases wide <;> simp at h <;> simp
  · rw [h]; rfl
  · rcases h with h | h <;> rw [h]
    · exact .inl rfl
    · exact .inr rfl

theorem split64 (v : Nat) : v % 2 ^ 32 + 2 ^ 32 * (v / 2 ^ 32 % 2 ^ 32) = v % 2 ^ 64 := by omega

/-- A lane result completes: each active lane's register reads its value from the cycle it lands, and nothing else changes. -/
theorem laneResult_spec {s : State} {c : Chain} (hc : s.chain? s.sel.chain = some c) (h : Hdr) (lat : Nat) (wide : Bool)
    (d : BitVec 7) (f : Nat → Nat × Flags) :
    ∃ t, laneResult s h lat wide d f = .next t ∧
      RegFrame s t h (groupsOf s.sel.pack) (gCells s wide d.toNat) (orFlags ((lanesOf s.sel.act).map (fun l => (f l).2)))
        (lastGroup s + lat) ∧
      ∀ l ∈ lanesOf s.sel.act, ∀ k, laneCycle s l + lat ≤ k → NoLater c (.g d.toNat l) (laneCycle s l + lat) →
        (wide = true → NoLater c (.g (d.toNat + 1) l) (laneCycle s l + lat)) →
        gAfter t wide d.toNat l k = (f l).1 % 2 ^ (if wide then 64 else 32) := by
  let rs := (lanesOf s.sel.act).map (fun l => (l, f l))
  let ws := rs.flatMap (fun r => gWrites s wide d.toNat r.1 r.2.1 (laneCycle s r.1) lat)
  have hws : ws = (lanesOf s.sel.act).flatMap (fun l => gWrites s wide d.toNat l (f l).1 (laneCycle s l) lat) := by
    simp only [ws, rs, List.flatMap_map]
  have hfl : rs.map (fun r => r.2.2) = (lanesOf s.sel.act).map (fun l => (f l).2) := by simp [rs]
  refine ⟨advance (deliver s (ws ++ flagWrite s (orFlags (rs.map (fun r => r.2.2))) (lastGroup s + lat) lat)) h
    (groupsOf s.sel.pack), ?_, ?_, ?_⟩
  · rw [← advanceLanes_deliver]; rfl
  · rw [← hfl]
    apply deliver_frame hc
    · intro w hw
      rw [hws, List.mem_flatMap] at hw
      obtain ⟨l, hl, hw⟩ := hw
      unfold gCells
      rw [List.mem_flatMap]
      refine ⟨l, hl, ?_⟩
      rcases gWrites_cell hw with e | ⟨hw', e⟩ <;> simp [e]
      exact hw'
    · simp [gCells]
  · intro l hl k hk h0 h1
    obtain ⟨b, a, hsp, hb, ha⟩ := split_at (lanesOf_nodup s.sel.act) hl
    let fl := flagWrite s (orFlags (rs.map (fun r => r.2.2))) (lastGroup s + lat) lat
    let gw (x : Nat) := gWrites s wide d.toNat x (f x).1 (laneCycle s x) lat
    have hlist : ws ++ fl = b.flatMap gw ++ (gw l ++ (a.flatMap gw ++ fl)) := by
      rw [hws, hsp]; simp [gw]
    have hne (q : List Nat) (hq : l ∉ q) (r : Nat) : ∀ x ∈ q.flatMap gw, x.cell ≠ .g r l := by
      intro x hx e
      rw [List.mem_flatMap] at hx
      obtain ⟨y, hy, hx⟩ := hx
      have : y ≠ l := fun e' => hq (e' ▸ hy)
      rcases gWrites_cell hx with e' | ⟨-, e'⟩ <;> rw [e'] at e <;> injection e <;> omega
    have hfl' : ∀ x ∈ fl, ∀ r, x.cell ≠ .g r l := by
      intro x hx r e
      rw [flagWrite_cell hx] at e; cases e
    have lo : (advance (deliver s (ws ++ fl)) h (groupsOf s.sel.pack)).selChain.readAt (.g d.toNat l) k = (f l).1 % 2 ^ 32 := by
      rw [hlist]
      have e : b.flatMap gw ++ (gw l ++ (a.flatMap gw ++ fl)) =
          b.flatMap gw ++ (pendOf s (.g d.toNat l) ((f l).1 % 2 ^ 32) (laneCycle s l) lat ::
            ((if wide then [pendOf s (.g (d.toNat + 1) l) ((f l).1 / 2 ^ 32 % 2 ^ 32) (laneCycle s l) lat] else []) ++
              (a.flatMap gw ++ fl))) := by simp [gw, gWrites]
      rw [e]
      refine deliver_read hc h _ _ _ (pendOf s (.g d.toNat l) ((f l).1 % 2 ^ 32) (laneCycle s l) lat) k (hne b hb _) ?_ hk h0
      intro x hx
      rcases List.mem_append.1 hx with hx | hx
      · cases wide <;> simp at hx
        rw [hx]; simp
      · rcases List.mem_append.1 hx with hx | hx
        · exact hne a ha _ x hx
        · exact hfl' x hx _
    cases hwd : wide with
    | false =>
      subst hwd
      have lo' := congrArg (· % 2 ^ 32) lo
      simpa [gAfter, gVal, Chain.readG] using lo'
    | true =>
      have hi : (advance (deliver s (ws ++ fl)) h (groupsOf s.sel.pack)).selChain.readAt (.g (d.toNat + 1) l) k =
          (f l).1 / 2 ^ 32 % 2 ^ 32 := by
        rw [hlist]
        have e : b.flatMap gw ++ (gw l ++ (a.flatMap gw ++ fl)) =
            (b.flatMap gw ++ [pendOf s (.g d.toNat l) ((f l).1 % 2 ^ 32) (laneCycle s l) lat]) ++
              (pendOf s (.g (d.toNat + 1) l) ((f l).1 / 2 ^ 32 % 2 ^ 32) (laneCycle s l) lat :: (a.flatMap gw ++ fl)) := by
          simp [gw, gWrites, hwd]
        rw [e]
        refine deliver_read hc h _ _ _ (pendOf s (.g (d.toNat + 1) l) ((f l).1 / 2 ^ 32 % 2 ^ 32) (laneCycle s l) lat) k ?_ ?_ hk (h1 hwd)
        · intro x hx
          rcases List.mem_append.1 hx with hx | hx
          · exact hne b hb _ x hx
          · simp at hx; rw [hx]; simp
        · intro x hx
          rcases List.mem_append.1 hx with hx | hx
          · exact hne a ha _ x hx
          · exact hfl' x hx _
      subst hwd
      show gVal _ true d.toNat l k = _
      have e := split64 (f l).1
      have lo' := lo
      have hi' := hi
      simp only [gVal, Chain.readG, if_true]
      show Chain.readAt (advance (deliver s (ws ++ fl)) h (groupsOf s.sel.pack)).selChain _ _ % 2 ^ 32 +
        2 ^ 32 * (Chain.readAt (advance (deliver s (ws ++ fl)) h (groupsOf s.sel.pack)).selChain _ _ % 2 ^ 32) = _
      rw [lo', hi']; simp only [Nat.mod_mod]; exact e

/-- A predicate result completes: each active lane's predicate reads its value from the cycle it lands (p7 reads true). -/
theorem predResult_spec {s : State} {c : Chain} (hc : s.chain? s.sel.chain = some c) (h : Hdr) (lat : Nat)
    (d : BitVec 7) (f : Nat → Bool × Flags) :
    ∃ t, predResult s h lat d f = .next t ∧
      RegFrame s t h (groupsOf s.sel.pack) (pCells s d.toNat) (orFlags ((lanesOf s.sel.act).map (fun l => (f l).2)))
        (lastGroup s + lat) ∧
      ∀ l ∈ lanesOf s.sel.act, ∀ k, laneCycle s l + lat ≤ k → NoLater c (.p d.toNat l) (laneCycle s l + lat) →
        t.selChain.readP d.toNat l k = (d == 7 || (f l).1) := by
  let rs := (lanesOf s.sel.act).map (fun l => (l, f l))
  let pw (l : Nat) : PendW := pendOf s (.p d.toNat l) (if (f l).1 then 1 else 0) (laneCycle s l) lat
  let ws := (lanesOf s.sel.act).map pw
  have hws : rs.map (fun r => pendOf s (.p d.toNat r.1) (if r.2.1 then 1 else 0) (laneCycle s r.1) lat) = ws := by
    simp [rs, ws, pw]
  have hfl : rs.map (fun r => r.2.2) = (lanesOf s.sel.act).map (fun l => (f l).2) := by simp [rs]
  refine ⟨advance (deliver s (ws ++ flagWrite s (orFlags (rs.map (fun r => r.2.2))) (lastGroup s + lat) lat)) h
    (groupsOf s.sel.pack), ?_, ?_, ?_⟩
  · rw [← advanceLanes_deliver, ← hws]; rfl
  · rw [← hfl]
    apply deliver_frame hc
    · intro w hw
      rw [List.mem_map] at hw
      obtain ⟨l, hl, rfl⟩ := hw
      exact List.mem_map.2 ⟨l, hl, rfl⟩
    · simp [pCells]
  · intro l hl k hk h0
    obtain ⟨b, a, hsp, hb, ha⟩ := split_at (lanesOf_nodup s.sel.act) hl
    let fl := flagWrite s (orFlags (rs.map (fun r => r.2.2))) (lastGroup s + lat) lat
    have hlist : ws ++ fl = b.map pw ++ pw l :: (a.map pw ++ fl) := by
      simp only [ws, hsp]; simp
    have hne (q : List Nat) (hq : l ∉ q) : ∀ x ∈ q.map pw, x.cell ≠ (pw l).cell := by
      intro x hx e
      rw [List.mem_map] at hx
      obtain ⟨y, hy, rfl⟩ := hx
      have : y ≠ l := fun e' => hq (e' ▸ hy)
      have e : CellId.p d.toNat y = .p d.toNat l := e
      injection e; omega
    have r : (advance (deliver s (ws ++ fl)) h (groupsOf s.sel.pack)).selChain.readAt (.p d.toNat l) k =
        (if (f l).1 then 1 else 0) := by
      rw [hlist]
      refine deliver_read hc h _ _ _ (pw l) k (hne b hb) ?_ hk h0
      intro x hx
      rcases List.mem_append.1 hx with hx | hx
      · exact hne a ha x hx
      · intro e; rw [flagWrite_cell hx] at e; cases e
    show Chain.readP (advance (deliver s (_ ++ fl)) h (groupsOf s.sel.pack)).selChain d.toNat l k = _
    simp only [Chain.readP]
    rw [r]
    by_cases h7 : d = 7
    · subst h7; simp
    · have : d.toNat ≠ 7 := fun e => h7 (BitVec.eq_of_toNat_eq e)
      have h7' : (d == 7#7) = false := by simpa using h7
      cases (f l).1 <;> simp [h7', this]

/-- A uniform result completes: the s register, or pair, reads its value from the cycle it lands. -/
theorem uniResult_spec {s : State} {c : Chain} (hc : s.chain? s.sel.chain = some c) (h : Hdr) (lat : Nat) (wide : Bool)
    (d : BitVec 7) (r : Nat × Flags) :
    ∃ t, uniResult s h lat wide d r = .next t ∧
      RegFrame s t h 1 (sCells wide d.toNat) r.2 (s.sel.t0 + lat) ∧
      ∀ k, s.sel.t0 + lat ≤ k → NoLater c (.s d.toNat) (s.sel.t0 + lat) →
        (wide = true → NoLater c (.s (d.toNat + 1)) (s.sel.t0 + lat)) →
        sVal t.selChain wide d.toNat k = r.1 % 2 ^ (if wide then 64 else 32) := by
  refine ⟨_, rfl, ?_, ?_⟩
  · exact deliver_frame hc h 1 _ _ r.2 _ lat (fun w hw => sWrites_cell hw) (by cases wide <;> simp [sCells])
  · intro k hk h0 h1
    let fl := flagWrite s r.2 (s.sel.t0 + lat) lat
    have hfl' : ∀ x ∈ fl, ∀ q, x.cell ≠ .s q := by
      intro x hx q e
      rw [flagWrite_cell hx] at e; cases e
    have lo : (advance (deliver s (sWrites s wide d.toNat r.1 s.sel.t0 lat ++ fl)) h 1).selChain.readAt (.s d.toNat) k =
        r.1 % 2 ^ 32 := by
      refine deliver_read hc h _ [] _ (pendOf s (.s d.toNat) (r.1 % 2 ^ 32) s.sel.t0 lat) k (by simp) ?_ hk h0
      intro x hx
      rcases List.mem_append.1 hx with hx | hx
      · cases wide <;> simp at hx
        rw [hx]; simp
      · exact hfl' x hx _
    cases hwd : wide with
    | false =>
      subst hwd
      show sVal (advance (deliver s (sWrites s false d.toNat r.1 s.sel.t0 lat ++ fl)) h 1).selChain false d.toNat k = _
      have lo' := congrArg (· % 2 ^ 32) lo
      simpa [sVal, Chain.readS] using lo'
    | true =>
      have hi : (advance (deliver s (sWrites s wide d.toNat r.1 s.sel.t0 lat ++ fl)) h 1).selChain.readAt (.s (d.toNat + 1)) k =
          r.1 / 2 ^ 32 % 2 ^ 32 := by
        have e : sWrites s wide d.toNat r.1 s.sel.t0 lat ++ fl =
            [pendOf s (.s d.toNat) (r.1 % 2 ^ 32) s.sel.t0 lat] ++
              (pendOf s (.s (d.toNat + 1)) (r.1 / 2 ^ 32 % 2 ^ 32) s.sel.t0 lat :: fl) := by simp [sWrites, hwd]
        rw [e]
        refine deliver_read hc h _ _ _ (pendOf s (.s (d.toNat + 1)) (r.1 / 2 ^ 32 % 2 ^ 32) s.sel.t0 lat) k ?_ ?_ hk (h1 hwd)
        · intro x hx; simp at hx; rw [hx]; simp
        · intro x hx; exact hfl' x hx _
      subst hwd
      have e := split64 r.1
      simp only [sVal, Chain.readS, if_true]
      show Chain.readAt (advance (deliver s (sWrites s true d.toNat r.1 s.sel.t0 lat ++ fl)) h 1).selChain _ _ % 2 ^ 32 +
        2 ^ 32 * (Chain.readAt (advance (deliver s (sWrites s true d.toNat r.1 s.sel.t0 lat ++ fl)) h 1).selChain _ _ % 2 ^ 32) = _
      rw [lo, hi]; simp only [Nat.mod_mod]; exact e

end Sys2Proof.Machine
end

