-- ==== Sys2Proof/Laws/Traps.lean ====
section
/-!
SUPPORT. Laws of lane masks and of taking a trap: the lanes of a mask, the record that an instruction's faults make, and
where its lanes are afterwards (R159 to R161, R182).
-/
namespace Sys2Proof.Machine

/-! ## Masks -/

theorem laneBit_bit (i j : Nat) (hi : i < 32) : (laneBit i).getLsbD j = decide (i = j) := by
  unfold laneBit
  rw [BitVec.getLsbD_ofNat, Nat.testBit_two_pow]
  by_cases h : i = j
  · subst h; simp [hi]
  · simp [h]

theorem maskWhere_fold (f : Nat → Bool) (l : List Nat) (hl : ∀ x ∈ l, x < 32) (m : Mask) (j : Nat) :
    (l.foldl (fun m i => if f i then m ||| laneBit i else m) m).getLsbD j = (m.getLsbD j || (decide (j ∈ l) && f j)) := by
  induction l generalizing m with
  | nil => simp
  | cons x r ih =>
    rw [List.foldl_cons, ih (fun y hy => hl y (List.mem_cons_of_mem _ hy))]
    by_cases hx : f x = true
    · rw [if_pos hx, BitVec.getLsbD_or, laneBit_bit x j (hl x List.mem_cons_self)]
      by_cases e : x = j
      · subst e; simp [hx]
      · have : ¬ j = x := fun h => e h.symm
        simp [e, this]
    · rw [if_neg hx]
      by_cases e : j = x
      · subst e; simp [hx]
      · simp [e]

theorem maskWhere_bit (f : Nat → Bool) (j : Nat) : (maskWhere f).getLsbD j = (decide (j < 32) && f j) := by
  unfold maskWhere
  rw [maskWhere_fold f _ (fun x hx => List.mem_range.1 hx)]
  simp

theorem lanesOf_lt {m : Mask} {l : Nat} (h : l ∈ lanesOf m) : l < 32 := (mem_lanesOf.1 h).1

/-- Two masks with the same lanes are one. -/
theorem mask_ext {a b : Mask} (h : ∀ l, l < 32 → a.getLsbD l = b.getLsbD l) : a = b := BitVec.eq_of_getLsbD_eq h

theorem lanesOf_ne_nil {m : Mask} (h : m ≠ 0) : lanesOf m ≠ [] := by
  intro e
  apply h
  apply mask_ext
  intro l hl
  cases hb : m.getLsbD l
  · simp
  · have := mem_lanesOf.2 ⟨hl, hb⟩
    rw [e] at this; cases this

theorem faultMask_fold (fs : List LaneFault) (m : Mask) (j : Nat) (hf : ∀ f ∈ fs, f.lane < 32) :
    (fs.foldl (fun m f => m ||| laneBit f.lane) m).getLsbD j = (m.getLsbD j || fs.any (fun f => f.lane = j)) := by
  induction fs generalizing m with
  | nil => simp
  | cons x r ih =>
    rw [List.foldl_cons, ih _ (fun y hy => hf y (List.mem_cons_of_mem _ hy)), BitVec.getLsbD_or,
      laneBit_bit _ _ (hf x List.mem_cons_self)]
    simp [Bool.or_assoc]

/-- A fault of every lane of a mask: they are the lanes of the mask. -/
theorem faultMask_lanes (m : Mask) (g : Nat → LaneFault) (hg : ∀ l, (g l).lane = l) : faultMask ((lanesOf m).map g) = m := by
  apply mask_ext
  intro j hj
  unfold faultMask
  rw [faultMask_fold _ _ _ (by
    intro f hf
    obtain ⟨l, hl, rfl⟩ := List.mem_map.1 hf
    rw [hg]; exact lanesOf_lt hl)]
  rw [List.any_map]
  cases hb : m.getLsbD j
  · simp only [BitVec.ofNat_eq_ofNat, BitVec.getLsbD_zero, Bool.false_or]
    rw [List.any_eq_false]
    intro l hl
    simp only [Function.comp, hg, decide_eq_true_eq]
    rintro rfl
    rw [(mem_lanesOf.1 hl).2] at hb; cases hb
  · simp only [BitVec.ofNat_eq_ofNat, BitVec.getLsbD_zero, Bool.false_or]
    rw [List.any_eq_true]
    exact ⟨j, mem_lanesOf.2 ⟨hj, hb⟩, by simp [hg]⟩

theorem lowestLane_spec {m : Mask} (h : m ≠ 0) : lowestLane m ∈ lanesOf m ∧ ∀ j ∈ lanesOf m, lowestLane m ≤ j := by
  have hn := lanesOf_ne_nil h
  unfold lowestLane
  have hs : (lanesOf m).Pairwise (· < ·) := (List.pairwise_lt_range (n := 32)).filter _
  cases e : lanesOf m with
  | nil => exact absurd e hn
  | cons x r =>
    rw [e] at hs
    refine ⟨by simp, ?_⟩
    intro j hj
    simp only [List.head?_cons, Option.getD_some]
    rcases List.mem_cons.1 hj with hj | hj
    · omega
    · exact Nat.le_of_lt ((List.pairwise_cons.1 hs).1 j hj)

theorem worse_keep {a b : LaneFault} (hc : b.cause = a.cause) (hl : a.lane ≤ b.lane) : worse a b = a := by
  unfold worse
  rw [hc, if_neg]
  omega

/-- With one cause in every lane the lowest lane is reported (R183). -/
theorem reported_lanes {m : Mask} (h : m ≠ 0) (cause tval : Nat) :
    reported ((lanesOf m).map (fun l => ({ lane := l, cause, tval } : LaneFault))) = { lane := lowestLane m, cause, tval } := by
  obtain ⟨h1, h2⟩ := lowestLane_spec h
  cases e : lanesOf m with
  | nil => rw [e] at h1; cases h1
  | cons x r =>
    have hx : lowestLane m = x := by simp [lowestLane, e]
    rw [hx] at h2 ⊢
    rw [e] at h2
    show (r.map _).foldl worse _ = _
    have : ∀ (r : List Nat), (∀ j ∈ r, x ≤ j) →
        (r.map (fun l => ({ lane := l, cause, tval } : LaneFault))).foldl worse { lane := x, cause, tval } = { lane := x, cause, tval } := by
      intro r
      induction r with
      | nil => intro _; rfl
      | cons y q ih =>
        intro hr
        rw [List.map_cons, List.foldl_cons, worse_keep (a := { lane := x, cause, tval }) (b := { lane := y, cause, tval }) rfl (hr y List.mem_cons_self)]
        exact ih (fun j hj => hr j (List.mem_cons_of_mem _ hj))
    exact this r (fun j hj => h2 j (List.mem_cons_of_mem _ hj))

theorem countLanes_le (m : Mask) : countLanes m ≤ 32 := by
  unfold countLanes lanesOf
  have := List.length_filter_le (fun i => m.getLsbD i) (List.range 32)
  simpa using this

theorem causeWord_toNat (m : Mask) (l cause tval : Nat) (hl : l < 32) (hc : cause < 256) :
    (causeWord false m { lane := l, cause, tval }).toNat = 2 ^ 31 + countLanes m * 2 ^ 16 + l * 2 ^ 8 + cause := by
  have := countLanes_le m
  unfold causeWord
  simp only [Bool.false_eq_true, if_false, BitVec.toNat_ofNat, Nat.add_zero]
  exact Nat.mod_eq_of_lt (by omega)

theorem noteCauses_eq (c : Chain) (fs : List LaneFault) : noteCauses c fs = { c with lanecause := (noteCauses c fs).lanecause } := rfl

/-- Each lane keeps its first cause (R161). -/
theorem noteCauses_get (c : Chain) (fs : List LaneFault) (cause l : Nat) (hf : ∀ f ∈ fs, f.cause = cause) :
    Cells.get 0 (noteCauses c fs).lanecause l =
      if fs.any (fun f => f.lane = l) ∧ Cells.get 0 c.lanecause l = 0 then cause else Cells.get 0 c.lanecause l := by
  show Cells.get 0 (fs.foldl _ c.lanecause) l = _
  generalize c.lanecause = m
  induction fs generalizing m with
  | nil => simp
  | cons x r ih =>
    rw [List.foldl_cons, ih (fun f hf' => hf f (List.mem_cons_of_mem _ hf'))]
    have hx := hf x List.mem_cons_self
    by_cases h0 : Cells.get 0 m x.lane = 0
    · rw [if_pos h0, hx]
      by_cases e : x.lane = l
      · subst e
        simp only [Cells.get_set_self, List.any_cons, decide_true, Bool.true_or, h0, and_self, if_true]
        split <;> rfl
      · rw [Cells.get_set_ne _ _ _ (fun h => e h.symm)]
        simp [e]
    · rw [if_neg h0]
      by_cases e : x.lane = l
      · subst e; simp [h0]
      · simp [e]

/-! ## Taking a trap -/

/-- The record of one cause in every active lane. -/
def madeRec (s : State) (c : Chain) (cause tval : Nat) : Rec :=
  { ctx := c.ctx, part := c.part, chain := s.sel.chain, seq := s.sel.seq,
    cause := causeWord false s.sel.act { lane := lowestLane s.sel.act, cause, tval }, tpc := BitVec.ofNat 32 s.sel.pc,
    tval := BitVec.ofNat 64 tval, lanes := s.sel.act, detail := 0, log := false, startFrom := c.ctx }

/-- The chain after every active lane has taken a trap with one cause. -/
def trappedChain (s : State) (c : Chain) (cause tval : Nat) : Chain :=
  (setTrapRegs (noteCauses c ((lanesOf s.sel.act).map (fun l => { lane := l, cause, tval }))) (madeRec s c cause tval)).park
    s.sel.act (.trap s.nextId) s.sel.pc s.sel.prio

/-- What trapAll does: a new record, and the chain's lanes parked under it. -/
theorem trapAll_eq {s : State} {c : Chain} (hc : s.chain? s.sel.chain = some c) (ha : s.sel.act ≠ 0)
    (hj : joinable s s.sel.chain s.sel.seq false = none) (cause tval : Nat) :
    trapAll s cause tval = ({ s with nextId := s.nextId + 1, recs := Tab.put s.recs s.nextId (madeRec s c cause tval) }).setChain
      s.sel.chain (trappedChain s c cause tval) := by
  have hm := faultMask_lanes s.sel.act (fun l => { lane := l, cause, tval }) (fun _ => rfl)
  unfold trapAll trapLanes
  rw [if_neg (by simp [lanesOf_ne_nil ha])]
  unfold record
  simp only [hc, hj, reported_lanes ha, hm]
  rw [State.modChain_eq (State.chain?_setChain_self _ _ _), State.setChain_setChain]
  rfl

end Sys2Proof.Machine
end

