-- ==== Sys2Proof/Tests/Slice0.lean ====
section
/-!
SUPPORT. Small tests: ill-formed instructions, words of the spec and what they decode to, single steps against results worked
out from the spec, and a witness for the hypotheses of every statement.
-/
namespace Sys2Proof.Tests

set_option Elab.async false

open Sys2Proof Sys2Proof.Machine

/-! ## Builders -/

def hd : Hdr := { gneg := false, guard := 7, stall := 0 }

def q0 (d a b : BitVec 7) (ty : BitVec 4) (sub : BitVec 6 := 0) (c : BitVec 7 := 0) (ua ub : Bool := false) (rnd : BitVec 3 := 0) : F0 :=
  { rnd, sub, ty, ub, ua, c, b, a, d }

def q1 (d a : BitVec 7) (imm : BitVec 32) : F1 := { imm, a, d }

def q2 (data : BitVec 7) (ptr : BitVec 5) (lane : BitVec 7 := 0) (off : BitVec 20 := 0) (vc : BitVec 2 := 0) (loff : Bool := false)
    (udata : Bool := false) (dw : Bool := false) (nt : Bool := false) : F2 :=
  { nt, udata, loff, dw, vc, off, lane, ptr, data }

def q4 (hnd : BitVec 8 := 0) (pb : BitVec 5 := 0) (sop : BitVec 6 := 0) (imm : BitVec 17 := 0) (sub : BitVec 6 := 0) (nb : Bool := false)
    (pw : BitVec 3 := 0) : F4 :=
  { imm, nb, pw, sub, sop, pb, hnd }

def q5 (hnd : BitVec 8) (data : BitVec 7 := 0) (nb : Bool := false) (pw : BitVec 3 := 0) (ds : Bool := false) : F5 :=
  { nb, pw, ds, data, hnd }

/-! ## Ill-formed instructions, one for each check -/

def illFormed : List Instr :=
  [.nop hd (q0 1 0 0 0),                         -- a field outside the used ones (R55)
   .iadd hd (q0 1 2 3 15),                       -- TYPE 15 (R64)
   .fadd hd (q0 1 2 3 11 (rnd := 6)),            -- RND 6 (R65)
   .sadd hd (q0 64 2 3 1),                       -- an s register above 63 (R56)
   .iadd hd (q0 1 64 3 1 (ua := true)),          -- the same in a source (R56)
   .pset hd (q0 8 2 3 1),                        -- a predicate above 7 (R162)
   .pnarrow hd (q0 32 1 0 0),                    -- a k register above 31 (R216)
   .iadd hd (q0 1 2 4 3),                        -- an odd pair (R46)
   .imad hd (q0 2 2 4 3 (c := 5)),               -- an odd pair in C
   .iadd hd (q0 1 2 3 0),                        -- a TYPE that the entry does not take (R198)
   .imulh hd (q0 1 2 3 1 1),                     -- a SUB that the entry does not take (R198)
   .pset hd (q0 1 2 3 1 6),                      -- a comparison of PSET that is undefined (R169)
   .pset hd (q0 1 2 3 1 0 (c := 1)),             -- C without a combination (R169)
   .plogFroms hd (q0 1 2 0 0 17),                -- SUB[3:0] with .froms (R170)
   .elect hd (q0 1 3 0 0),                       -- A without .idx (R172)
   .cvt hd (q0 1 2 0 11 9),                      -- a pair of types that CVT does not convert (R207)
   .shfl hd (q0 1 2 3 0 4),                      -- SUB[5:2] (R210)
   .bcast hd (q0 1 2 3 0),                       -- UB = 0 without .first (R212)
   .trap hd (q1 0 1 0x7F),                       -- a code below 0x80 (R178)
   .sget hd (q1 1 0 64),                         -- a number of no special register (R48)
   .gacq hd (q1 1 0 0),                          -- no block asked for (R174)
   .barw hd (q5 1 5),                            -- DATA without a use (R175)
   .atom hd (q2 1 1 (vc := 1)),                  -- a count with an atomic (R236)
   .cpy hd (q4 (pb := 1) (nb := true)),          -- NB without a form of it (R256)
   .xwait hd (q4 (pw := 1)),                     -- PW without NB (R72)
   .cxrun hd (q4 (hnd := 1) (sub := 2))]         -- a SUB outside the entry (R437)

theorem test_ill_formed_refused : illFormed.all (fun i => !wellFormed i) = true := by decide

/-! ## Words that the spec writes out -/

def seqWords : List (W64 × Instr) :=
  [(0x0080FFFFFFF1C002, .bru hd { fp := 0, tp := 128, woff := -4 }),
   (0x002180090805C009, .pset hd (q0 1 4 9 1 2 (ub := true))),
   (0x000000000615C00B, .voteBallot hd (q0 5 3 0 0)),
   (0x000100040C19C00D, .sadd hd (q0 6 6 4 1)),
   (0x123456780011C018, .sldi hd (q1 4 0 0x12345678)),
   (0x00000002000DC01A, .gacq hd (q1 3 0 2)),
   (0x000000000009C01D, .barw hd (q5 2)),
   (0x0000002C3025C01F, .qrecv hd (q5 9 12 true 3)),
   (0x000000000021C021, .sget hd (q1 8 0 0)),
   (0x000000850601C023, .trap hd (q1 0 3 0x85)),
   (0x000000000401C024, .tretRetry hd (q0 0 2 0 0)),
   (0x000000000C01C027, .isync hd (q2 0 6)),
   (0x000000000001C008, .nop hd (q0 0 0 0 0)),
   (0x64C8FFFFFFEA8000, .bra { gneg := true, guard := 2, stall := 0 } { fp := 100, tp := 200, woff := -6 })]

def vecWords : List (W64 × Instr) :=
  [(0x001180070C15C900, .iadd { hd with stall := 2 } (q0 5 6 7 1 1 (ub := true))),
   (0x3F800000000DC114, .ldi hd (q1 3 0 0x3F800000)),
   (0x000B00040609C119, .fmin hd (q0 2 3 4 11)),
   (0x002B00050805C11B, .fcmp hd (q0 1 4 5 11 2)),
   (0x040C000C1421C11F, .fdiv hd (q0 8 10 12 12 (rnd := 1))),
   (0x04B10000120DC124, .cvti hd (q0 3 9 0 1 11 (rnd := 1))),
   (0x003080010C19C127, .shfl hd (q0 6 6 1 0 3 (ub := true))),
   (0x020B00000411C129, .lred hd (q0 4 2 0 11 32)),
   (0x000E000C1421C12C, .cmul hd (q0 8 10 12 14)),
   (0x000B01820211D118, .ffma { hd with stall := 4 } (q0 4 1 2 11 0 3))]

def lsuWords : List (W64 × Instr) :=
  [(0x001005060411C200, .pmake hd (q0 4 2 6 0 1 10)),
   (0x000000000A1DC201, .pnarrow hd (q0 7 5 0 0)),
   (0x012000000209C202, .pwiden hd (q0 2 1 0 0 18)),
   (0x000005080A19C203, .pslice hd (q0 6 5 8 0 0 10)),
   (0x009000000409C204, .ptype hd (q0 2 2 0 0 9)),
   (0x001000000211C205, .pget hd (q0 4 1 0 0 1)),
   (0x00100004020DC206, .pchk hd (q0 3 1 4 0 1)),
   (0x12000001C211C208, .st hd (q2 4 1 7 0 1 true)),
   (0x200000000629C207, .ld hd (q2 10 3 (udata := true))),
   (0x14000001C631C211, .ldprs hd (q2 12 3 7 0 2 true)),
   (0x100200614419C20B, .atom hd (q2 6 2 5 0x1003 (loff := true))),
   (0x10100001440DC20D, .amred hd (q2 3 2 5 0x8000 (loff := true))),
   (0x180000014429C20C, .acas hd (q2 10 2 5 0 (loff := true) (dw := true))),
   (0x000000000C01C20E, .pubopen hd (q2 0 6)),
   (0x000000000C01C20F, .publish hd (q2 0 6)),
   (0x000001010A01C210, .lcadv hd (q1 0 5 0x101))]

def engWords : List (W64 × Instr) :=
  [(0x000180011001C280, .cpy hd (q4 0 4 2 3)),
   (0x000000030001C284, .cpwait hd (q4 0 0 6)),
   (0x000050240015C285, .ringacqCons hd (q4 5 0 8 0 1 true 2)),
   (0x000048401C01C288, .easeqWait hd (q4 0 7 0 0 2 true 1)),
   (0x000000080801C2A0, .xhdrRd hd (q4 0 2 16)),
   (0x0000000A1805C2A1, .xexp hd (q4 1 6 20)),
   (0x00000003100DC2A3, .xdec hd (q4 3 4 6)),
   (0x00000006000DC2A4, .xstat hd (q4 3 0 12)),
   (0x000060000015C2A5, .xwait hd (q4 5 (nb := true) (pw := 4))),
   (0x000480000001C2C2, .arel hd (q4 (imm := 9))),
   (0x000180000001C2C5, .azero hd (q4 (imm := 3))),
   (0x000050200001C2C6, .mwait hd (q4 (sub := 1) (nb := true) (pw := 2))),
   (0x000000230001C2C7, .mstatAcc hd (q4 (sop := 6) (sub := 1))),
   (0x000300000001C2E0, .hclr hd (q4 (imm := 6))),
   (0x000000142401C2E1, .hacc hd (q4 0 9 40)),
   (0x000000152801C2E3, .sfold hd (q4 0 10 42)),
   (0x000200031001C2E5, .dqnt hd (q4 0 4 6 4)),
   (0x000000080005C300, .tbind hd (q4 1 0 16)),
   (0x000000251005C304, .thalo hd (q4 1 4 10 0 1)),
   (0x000000200005C305, .tdropDiscard hd (q4 1 (sub := 1))),
   (0x0000000C0001C307, .tqryGrp hd (q4 (sop := 24)))]

def cxWords : List (W64 × Instr) :=
  [(0x000048060805C320, .launch hd (q4 1 2 12 0 0 true 1)),
   (0x0000000A1801C321, .kreg hd (q4 0 6 20)),
   (0x000000060C01C323, .swait hd (q4 0 3 12)),
   (0x000000220001C326, .budgqCtx hd (q4 (sop := 4) (sub := 1))),
   (0x000000050815C340, .cxnew hd (q4 5 2 10)),
   (0x000000460015C341, .cxgrantHandle hd (q4 5 0 12 0 2)),
   (0x000000460C15C342, .cxrevokeAll hd (q4 5 3 12 0 2)),
   (0x000000240815C343, .cxrunLaunch hd (q4 5 2 8 0 1)),
   (0x000002240001C345, .cxstatFlags hd (q4 0 0 8 0 17)),
   (0x000000260C15C347, .frmap hd (q4 5 3 12 0 1)),
   (0x000000060015C349, .frqryChild hd (q4 5 0 12)),
   (0x000000240815C34B, .dtld hd (q4 5 2 8 0 1)),
   (0x000000260025C34C, .htset hd (q4 9 0 12 0 1)),
   (0x000000400419C34D, .trdlgRing hd (q4 6 1 0 0 2)),
   (0x000000260C15C350, .miglogTake hd (q4 5 3 12 0 1)),
   (0x000000040001C353, .invcxAll hd (q4 (sop := 8)))]

def reads (l : List (W64 × Instr)) : Bool := l.all (fun e => decide (decodeWord none e.1 = .instr e.2) && decide (encode e.2 = some e.1))

theorem test_decode_sequencer : reads seqWords = true := by decide
theorem test_decode_vector : reads vecWords = true := by decide
theorem test_decode_load_store : reads lsuWords = true := by decide
theorem test_decode_engines : reads engWords = true := by decide
theorem test_decode_contexts : reads cxWords = true := by decide

/-- R74, R78: an opcode that map 1 leaves empty. -/
theorem test_decode_empty : decodeWord none 0x28 = .empty := by decide
/-- R163, R83: FP of BRU must be zero, though the word that the spec writes out beside R163 has 128 there (log entry 15). -/
theorem test_decode_bru_fp : decodeWord none 0x8080FFFFFFF1C002 = .reserved (.bru hd { fp := 128, tp := 128, woff := -4 }) := by decide
/-- R79: reserved bits before an undefined SUB. -/
theorem test_decode_reserved : decodeWord none (0xA000000000000000 ||| 0x0FF0000000000100) = .reserved (.iadd { hd with guard := 0 } (q0 0 0 0 0 63 (rnd := 3))) := by
  decide

/-! ## A small state: one chain on core 0, lanes 0 and 1 in its entry, lane 0 active -/

def kern0 : Kern := { bareChain.kern with nwords := 8, it := [0, 1, 4], regs := 2 }

def regs0 : Cells W32 := [(32, 7), (33, 9), (64, 5), (65, 6), (96, 3), (97, 4), (384, 11), (385, 12)]

def chain0 : Chain :=
  { kern := kern0, g := regs0, s := [(1, 7), (2, 5), (4, 0xFFFFFFFF), (6, 8)], p := [(0, true), (32, true), (33, true)],
    frontier := [{ prio := 128, pc := 8, rot := false, lanes := 3 }], live := 3, active := true, started := true }

/-- A context whose plat is site 0 with one core. -/
def ctx0 : Ctx := { plat := [{ site := 0, cores := [0] }] }

def stOf (c : Chain) (act : Mask := 1) : State :=
  { State.reset with
    chains := [(0, c)], cores := [(0, { cc := 100, seq := 40 })], ctxs := [(0, ctx0)], clusters := [(0, {})]
    sel := { chain := 0, word := 0, pc := 8, prio := 128, entry := 3, act, pack := act, t0 := 100, seq := 40 } }

def st : State := stOf chain0

/-- The state after an instruction, if there is one. -/
def after (i : Instr) (s : State) : Option State :=
  match exec i s with
  | .next t => some t
  | _ => none

theorem noLater_nil {c : Chain} (h : c.pend = []) (cell : CellId) (n : Nat) : NoLater c cell n := by simp [NoLater, h]

theorem sFree_nil {c : Chain} (h : c.pend = []) (w : Bool) (r n : Nat) : SFree c w r n := ⟨noLater_nil h _ _, fun _ => noLater_nil h _ _⟩

theorem pFree_nil {s : State} (h : s.selChain.pend = []) (r : Nat) : PFree s r := fun _ _ => noLater_nil h _ _

theorem gFree_nil {s : State} (h : s.selChain.pend = []) (w : Bool) (r lat : Nat) : GFree s w r lat :=
  fun _ _ => ⟨noLater_nil h _ _, fun _ => noLater_nil h _ _⟩

theorem wf_of {i : Instr} (h : wellFormed i = true) : WellFormed i := by simpa [wellFormed, WellFormed] using h

theorem wf_all {α : Type} {l : List α} {g : α → Instr} (h : l.all (fun x => wellFormed (g x)) = true) : ∀ x ∈ l, WellFormed (g x) :=
  fun x hx => wf_of (List.all_eq_true.1 h x hx)

/-! ## Sequencer: single steps -/

/-- The s register that an instruction leaves in s3, read two cycles on. -/
def s3 (i : Instr) (n : Nat := 102) : Option Nat := (after i st).map (fun t => t.selChain.readS 3 n)

def uniCases : List (Instr × Nat) :=
  [(.sadd hd (q0 3 1 2 1), 12), (.ssub hd (q0 3 2 1 1), 0xFFFFFFFE), (.smul hd (q0 3 1 2 1), 35), (.smin hd (q0 3 1 4 1), 0xFFFFFFFF),
   (.smax hd (q0 3 1 4 1), 7), (.sadd hd (q0 3 1 4 2 1), 0xFFFFFFFF), (.sand hd (q0 3 1 2 0), 5), (.sor hd (q0 3 1 2 0), 7),
   (.sxor hd (q0 3 1 2 0), 2), (.sshl hd (q0 3 1 2 0), 0xE0), (.sshr hd (q0 3 4 2 0), 0x07FFFFFF), (.ssra hd (q0 3 4 2 0), 0xFFFFFFFF),
   (.smov hd (q0 3 1 0 0), 7), (.sldi hd (q1 3 0 0x12345678), 0x12345678)]

/-- R173, R93, R104: results of the uniform instructions on s1 = 7, s2 = 5, s4 = 0xFFFFFFFF. -/
theorem test_uniform_results : uniCases.all (fun e => s3 e.1 = some e.2 && wellFormed e.1) = true := by decide

/-- R106, R198: a saturated result raises SAT at its landing. -/
theorem test_uniform_sat : (after (.sadd hd (q0 3 1 4 2 1)) st).map (fun t => fpstAt t.selChain 200) = some 32 := by decide

def p1 (i : Instr) (l : Nat) : Option Bool := (after i st).map (fun t => t.selChain.readP 1 l 200)

/-- R169 to R172: predicates on g1 = 7, g2 = 5, p0 = true in lane 0; an inactive lane keeps p1. -/
theorem test_predicates :
    p1 (.pset hd (q0 1 1 2 1 2)) 0 = some false ∧ p1 (.pset hd (q0 1 1 2 1 4)) 0 = some true ∧ p1 (.pset hd (q0 1 1 2 1 2)) 1 = some true ∧
    p1 (.plogLut hd (q0 1 0 1 0 6)) 0 = some false ∧ p1 (.plogFroms hd (q0 1 6 0 0 16)) 0 = some false ∧ p1 (.voteAny hd (q0 1 2 0 0 1)) 0 = some false ∧
    p1 (.voteAll hd (q0 1 0 0 0 2)) 0 = some true ∧ p1 (.voteEq hd (q0 1 2 0 0 3)) 0 = some true ∧ p1 (.elect hd (q0 1 0 0 0)) 0 = some true := by
  decide

theorem test_ballot : s3 (.voteBallot hd (q0 3 0 0 0)) = some 1 := by decide

/-- The lanes that stand at each word after an instruction. -/
def stands (i : Instr) (s : State) : Option (List (Nat × Mask)) := (after i s).map (fun t => t.selChain.frontier.map (fun e => (e.pc, e.lanes)))

/-- R163: the active lane goes to the target, the other to the next word; BRU takes both. -/
theorem test_branches :
    stands (.bra hd { fp := 0, tp := 128, woff := 3 }) st = some [(32, 1), (16, 2)] ∧
    stands (.bru hd { fp := 0, tp := 128, woff := -1 }) st = some [(0, 3)] ∧
    stands (.call hd { fp := 128, tp := 128, woff := 3 }) st = some [(16, 2), (32, 1)] := by decide

/-- R164: a branch to word 4 through g12 of lane 0 is refused its trap; R168, R166, R167. -/
theorem test_moves :
    stands (.brx hd (q0 0 3 0 0)) (stOf { chain0 with g := [(96, 32)] }) = some [(16, 2), (32, 1)] ∧
    stands (.nop hd (q0 0 0 0 0)) st = some [(16, 3)] ∧ stands (.yield hd (q0 0 0 0 0)) st = some [(16, 3)] ∧
    stands (.exit hd (q0 0 0 0 0)) st = some [(16, 2)] ∧ stands (.join hd (q0 0 0 0 0)) (stOf chain0 3) = some [(16, 3)] ∧
    stands (.ret hd (q0 0 0 0 0)) (stOf { chain0 with callStacks := [(0, [(32, 7)])] }) = some [(16, 2), (32, 1)] := by decide

/-- R178: TRAP parks its lane under a record with its code. -/
theorem test_trap : (after (.trap hd (q1 0 1 0x85)) st).map (fun t => (t.recs.map (fun r => (r.2.cause.toNat, r.2.tval.toNat)), t.selChain.frontier.map (·.lanes))) =
    some ([(0x80010085, 7)], [2]) := by decide

/-! ## Sequencer: witnesses -/

theorem wit_uniformIntegerResults : ∀ p ∈ uniIntTable, ∃ (h : Hdr) (f : F0) (s : State) (c : Chain),
    s.chain? s.sel.chain = some c ∧ WellFormed (p.1 h f) ∧ SFree c (wide0 f) f.d.toNat (s.sel.t0 + 2) :=
  fun p hp => ⟨hd, q0 3 1 2 1, st, chain0, rfl, wf_all (l := uniIntTable) (g := fun p => p.1 hd (q0 3 1 2 1)) (by decide) p hp, sFree_nil rfl _ _ _⟩

theorem wit_uniformBitResults : ∀ p ∈ uniBitTable, ∃ (h : Hdr) (f : F0) (s : State) (c : Chain),
    s.chain? s.sel.chain = some c ∧ WellFormed (p.1 h f) ∧ SFree c (wide0 f) f.d.toNat (s.sel.t0 + 2) := by
  have w : ∀ p ∈ uniBitTable, ∃ f, WellFormed (p.1 hd f) := by
    simp only [uniBitTable, List.forall_mem_cons]
    refine ⟨⟨q0 3 1 2 0, wf_of (by decide)⟩, ⟨q0 3 1 2 0, wf_of (by decide)⟩, ⟨q0 3 1 2 0, wf_of (by decide)⟩, ⟨q0 3 1 2 0, wf_of (by decide)⟩,
      ⟨q0 3 1 2 0, wf_of (by decide)⟩, ⟨q0 3 1 2 0, wf_of (by decide)⟩, ⟨q0 3 1 0 0, wf_of (by decide)⟩, nofun⟩
  intro p hp
  obtain ⟨f, hf⟩ := w p hp
  exact ⟨hd, f, st, chain0, rfl, hf, sFree_nil rfl _ _ _⟩

theorem wit_predicateResults : ∀ p ∈ predTable, ∃ (h : Hdr) (f : F0) (s : State) (c : Chain),
    s.chain? s.sel.chain = some c ∧ WellFormed (p.1 h f) ∧ PFree s f.d.toNat := by
  have w : ∀ p ∈ predTable, ∃ f, WellFormed (p.1 hd f) := by
    simp only [predTable, List.forall_mem_cons]
    refine ⟨⟨q0 1 1 2 1 2, wf_of (by decide)⟩, ⟨q0 1 0 1 0 6, wf_of (by decide)⟩, ⟨q0 1 6 0 0 16, wf_of (by decide)⟩, ⟨q0 1 2 0 0 1, wf_of (by decide)⟩,
      ⟨q0 1 0 0 0 2, wf_of (by decide)⟩, ⟨q0 7 2 0 0 3, wf_of (by decide)⟩, nofun⟩
  intro p hp
  obtain ⟨f, hf⟩ := w p hp
  exact ⟨hd, f, st, chain0, rfl, hf, pFree_nil rfl _⟩

theorem wit_ballotAndElect : st.chain? st.sel.chain = some chain0 ∧ WellFormed (.voteBallot hd (q0 3 0 0 0)) ∧ NoLater chain0 (.s 3) (lastGroup st + 2) ∧
    WellFormed (.elect hd (q0 1 0 0 0)) ∧ WellFormed (.elect hd (q0 1 3 0 0 1)) ∧ st.sel.act ≠ 0 ∧ PFree st 1 ∧ NoLater chain0 (.s 3) (lastGroup st + 2) :=
  ⟨rfl, wf_of (by decide), noLater_nil rfl _ _, wf_of (by decide), wf_of (by decide), by decide, pFree_nil rfl _, noLater_nil rfl _ _⟩

theorem wit_specialReads_uniform : ∀ n : Nat, n < 18 → n ≠ 6 → ∃ f : F1, f.imm.toNat = n ∧ ((special st chain0)[f.imm.toNat]?).isSome = true ∧
    SFree chain0 (f.imm = 5) f.d.toNat (st.sel.t0 + 4) := by
  intro n hn h6
  refine ⟨q1 8 0 (BitVec.ofNat 32 n), by simp [q1]; omega, ?_, sFree_nil rfl _ _ _⟩
  have : (BitVec.ofNat 32 n).toNat = n := by simp; omega
  simp only [q1, this, special]
  simp; omega

theorem wit_specialReads_lanecause : (q1 8 0 6).imm.toNat = 6 ∧ ∀ l ∈ lanesOf st.sel.act, NoLater chain0 (.g 8 l) (st.sel.t0 + 4) :=
  ⟨rfl, fun _ _ => noLater_nil rfl _ _⟩

theorem wit_specialReads_topo : st.chain? st.sel.chain = some chain0 ∧ SFree chain0 false 3 (st.sel.t0 + 4) := ⟨rfl, sFree_nil rfl _ _ _⟩

theorem wit_specialWrites : st.chain? st.sel.chain = some chain0 ∧ Tab.find st.ctxs chain0.ctx = some ctx0 ∧ (q1 0 1 1).imm = 1 ∧ (q1 0 1 2).imm = 2 ∧
    (q1 0 1 7).imm = 7 ∧ (q1 0 1 0).imm.toNat ∉ [1, 2, 7] := ⟨rfl, rfl, rfl, rfl, rfl, by decide⟩

theorem wit_branches : st.chain? st.sel.chain = some chain0 ∧ st.sel.act &&& ~~~st.sel.entry = 0 ∧ st.sel.act ≠ 0 ∧
    (((32 : Nat) : Int) = ((st.sel.pc : Int) + 8 * (3 : BitVec 30).toInt) % 2 ^ 32) ∧
    (((2 ^ 32 - 8 : Nat) : Int) = ((st.sel.pc : Int) + 8 * (-2 : BitVec 30).toInt) % 2 ^ 32) := by
  refine ⟨rfl, ?_, ?_, ?_, ?_⟩ <;> decide

theorem wit_calls : ∀ l ∈ lanesOf st.sel.act, (Cells.get [] chain0.callStacks l).length < 8 := by decide

/-- A chain whose lanes hold a return address, and targets in g3 that start IT blocks. -/
def chainR : Chain := { chain0 with g := [(96, 32), (97, 8)], callStacks := [(0, [(32, 7)]), (1, [(0, 128)])] }

theorem wit_indirectBranches : (stOf chainR 3).chain? 0 = some chainR ∧ (stOf chainR 3).sel.act &&& ~~~(stOf chainR 3).sel.entry = 0 ∧
    (stOf chainR 3).sel.act ≠ 0 ∧ (∀ l ∈ lanesOf 3, ∃ w ∈ chainR.kern.it, srcVal (stOf chainR 3) false false 3 l = 8 * w) ∧
    ∃ ret : Nat → Nat × Nat, ∀ l ∈ lanesOf 3, (∃ w ∈ chainR.kern.it, (ret l).1 = 8 * w) ∧ (Cells.get [] chainR.callStacks l).head? = some (ret l) :=
  ⟨rfl, by decide, by decide, by decide, fun l => if l = 0 then (32, 7) else (0, 128), by decide⟩

theorem wit_joinAndExit : st.chain? st.sel.chain = some chain0 ∧ (∃ e, entryAt chain0.frontier st.sel.pc = some e ∧ st.sel.entry = e.lanes) ∧
    (stOf chain0 3).sel.act = (stOf chain0 3).sel.entry ∧ (∀ x ∈ chain0.frontier, x.lanes &&& ~~~(3 : Mask) ≠ 0 → 8 ≤ x.pc) ∧
    (∀ q ∈ chain0.parked, q.lanes &&& ~~~(3 : Mask) ≠ 0 → 8 ≤ q.pc) ∧ (st.sel.act ≠ chain0.live ∨ chainCmds st st.sel.chain = []) :=
  ⟨rfl, ⟨_, rfl, rfl⟩, rfl, by decide, by decide, by decide⟩

/-- A chain with a lane below the JOIN. -/
def chainJ : Chain := { chain0 with frontier := [{ prio := 128, pc := 8, rot := false, lanes := 3 }, { prio := 128, pc := 0, rot := false, lanes := 4 }], live := 7 }

theorem wit_joinWaits : (stOf chainJ).sel.act &&& ~~~(stOf chainJ).sel.entry = 0 ∧ (stOf chainJ).sel.act ≠ 0 ∧
    ∃ x ∈ chainJ.frontier, x.lanes &&& ~~~(stOf chainJ).sel.entry ≠ 0 ∧ x.pc < (stOf chainJ).sel.pc := by decide

theorem wit_frontierApart : chainJ.frontier.Pairwise (fun a b => a.pc ≠ b.pc) := by decide

/-! ## Traps: witnesses -/

theorem issues_of {s : State} {c : Chain} (h : s.chain? s.sel.chain = some c)
    (hf : c.frontier = [{ prio := s.sel.prio, pc := s.sel.pc, rot := false, lanes := s.sel.entry }]) (ha : s.sel.act &&& ~~~s.sel.entry = 0) : Issues s c :=
  ⟨h, ⟨_, by rw [hf]; exact List.mem_cons_self, rfl, rfl, fun x hx _ => by rw [hf] at hx; exact List.mem_singleton.1 hx⟩, ha⟩

theorem wit_issues : Issues st chain0 ∧ FirstFault st ∧ st.sel.act ≠ 0 := ⟨issues_of rfl rfl (by decide), nofun, by decide⟩

/-- Every return stack full, a target that starts no block, and blocks held. -/
def chainF : Chain := { chain0 with callStacks := [(0, List.replicate 8 (32, 7)), (1, List.replicate 8 (32, 7))], g := [(96, 16), (97, 13)], blocks := 1 }

theorem wit_sequencerTraps_stack : Issues (stOf chainF 3) chainF ∧ FirstFault (stOf chainF 3) ∧ (stOf chainF 3).sel.act = (stOf chainF 3).sel.entry ∧
    (∀ l ∈ lanesOf 3, 8 ≤ (Cells.get [] chainF.callStacks l).length) ∧ (∀ l ∈ lanesOf 3, ∀ w ∈ chainF.kern.it, srcVal (stOf chainF 3) false false 3 l ≠ 8 * w) ∧
    (∀ l ∈ lanesOf 3, Cells.get [] chain0.callStacks l = []) :=
  ⟨issues_of rfl rfl (by decide), nofun, rfl, by decide, by decide, by decide⟩

theorem wit_sequencerTraps_blocks : chainF.kern.regs < (q1 3 0 3).imm.toNat ∧ (q1 3 0 2).imm.toNat ≤ chainF.kern.regs ∧ chainF.blocks ≠ 0 ∧
    chainF.blocks < (q1 0 0 2).imm.toNat := by decide

theorem wit_sequencerTraps_handle : ∀ b o, handleObj st chain0.ctx (q5 9).hnd.toNat ≠ .barrier b o := by
  intro b o; rw [show handleObj st chain0.ctx (q5 9).hnd.toNat = .empty from by decide]; nofun

/-- A context whose handle 1 is a barrier of the team. -/
def stB (c : Chain := chain0) (act : Mask := 1) : State :=
  { stOf c act with ctxs := [(0, { ctx0 with handles := [(1, { obj := .barrier true 4 })] })] }

/-- A pending arrival at the next phase. -/
def chainB : Chain := { chain0 with bars := [(4, (1, true))] }

theorem wit_sequencerTraps_barrier : handleObj (stB chainB) chainB.ctx 1 = .barrier true 4 ∧
    (barOf (stB chainB) (stB chainB).sel.chain (barKey chainB true 4)).c < (arrival chainB 4).1 := by decide

/-- A chain of another core whose lane 0 is parked under a record that stands in context 0's ring, slot 2, token 9; s1 holds the token. -/
def chainP : Chain := { chain0 with frontier := [], live := 3, parked := [{ lanes := 3, why := .trap 5, pc := 8, prio := 128 }] }
def recP : Rec := { ctx := 0, part := 0, chain := 16, seq := 3, cause := 0x80020085, tpc := 8, tval := 0, lanes := 3, detail := 0, log := false, token := some 9, loc := .ring 0 2 }
def chainT : Chain := { chain0 with s := [(1, 9)] }
def stT : State := { stOf chainT with chains := [(0, chainT), (16, chainP)], recs := [(5, recP)], cores := [(0, { cc := 100, seq := 40 }), (1, {})] }

theorem wit_trapReturns : stT.chain? stT.sel.chain = some chainT ∧ PlainRecord stT 5 recP chainP { lanes := 3, why := .trap 5, pc := 8, prio := 128 } ∧
    recP.loc = .ring chainT.ctx 2 ∧ recP.token = some 9 ∧
    findToken stT chainT.part (chainT.readS (q0 0 1 0 0).a.toNat stT.sel.t0) (inRing chainT.ctx) = some (5, recP) :=
  ⟨rfl, ⟨rfl, rfl, by decide, rfl, fun e he => absurd (show e ∈ [] from he) List.not_mem_nil, ⟨rfl, rfl, rfl, rfl⟩, by decide, ⟨rfl, rfl⟩, rfl⟩, rfl, rfl, rfl⟩

/-- R179: TRET.retry sends the lanes back to the trapping word. -/
theorem test_tret_retry : (after (.tretRetry hd (q0 0 1 0 0)) stT).bind (fun t => (t.chain? 16).map (fun c => (c.frontier.map (fun e => (e.pc, e.lanes)), c.parked.length))) =
    some ([(8, 3)], 0) := by decide

/-- R179: TRET.skip sends them to the next word. -/
theorem test_tret_skip : (after (.tretSkip hd (q0 0 1 0 0 1)) stT).bind (fun t => (t.chain? 16).map (fun c => c.frontier.map (fun e => (e.pc, e.lanes)))) =
    some [(16, 3)] := by decide

/-! ## Register blocks, barriers, queues, ISYNC -/

/-- A pool of three blocks with one in use, for chain c's team. -/
def stG (c : Chain) (pool : Pool) : State := { stOf c with cores := [(0, { cc := 100, seq := 40, pools := [(poolKey c, pool)] })] }

def pool0 : Pool := { quota := 3, used := 1, wait := [] }

theorem wit_registerBlocks : Issues (stG chain0 pool0) chain0 ∧ chain0.pair = none ∧ Tab.find ((stG chain0 pool0).coreAt (stG chain0 pool0).selCore).pools (poolKey chain0) = some pool0 ∧
    pool0.wait = [] ∧ (q1 3 0 2).imm.toNat ≤ chain0.kern.regs ∧ chain0.blocks = 0 ∧ pool0.used + 2 ≤ pool0.quota ∧ NoLater chain0 (.s 3) 101 ∧ (q1 0 0 0).imm.toNat ≤ chainF.blocks :=
  ⟨issues_of rfl rfl (by decide), rfl, by decide, rfl, by decide, rfl, by decide, noLater_nil rfl _ _, by decide⟩

theorem wit_registerBlocksWait : (stG chain0 { pool0 with used := 2 }).sel.act ≠ 0 ∧ (2 : Nat) ≤ chain0.kern.regs ∧ chain0.blocks = 0 ∧ (3 : Nat) < 2 + 2 := by decide

/-- R174: GACQ of two blocks writes 2 to s3 and takes them from the pool. -/
theorem test_gacq : (after (.gacq hd (q1 3 0 2)) (stG chain0 pool0)).map (fun t => (t.selChain.blocks, t.selChain.readS 3 200, (t.coreAt 0).pools.map (fun e => e.2.used))) =
    some (2, 2, [3]) := by decide

theorem wit_barriers_arrive : Issues (stB) chain0 ∧ stB.sel.act ≠ 0 ∧ handleObj stB chain0.ctx 1 = .barrier true 4 ∧
    (barOf stB stB.sel.chain (barKey chain0 true 4)).c = 0 ∧ arrival chain0 4 = (0, false) ∧ NoShadow stB chain0 ∧ chain0.parked = [] ∧ chain0.latch = [] :=
  ⟨issues_of rfl rfl (by decide), by decide, rfl, by decide, by decide, ⟨rfl, by decide⟩, rfl, rfl⟩

theorem wit_barriers_pending : Issues (stB chainB) chainB ∧ arrival chainB 4 = (1, true) ∧ (∀ l ∈ lanesOf (stB chainB).sel.act, NoLater chainB (.p 3 l) 101) :=
  ⟨issues_of rfl rfl (by decide), by decide, fun _ _ => noLater_nil rfl _ _⟩

/-- R175: the last arrival completes the phase at once. -/
theorem test_bara : (after (.bara hd (q5 1)) stB).map (fun t => ((barOf t 0 (barKey chain0 true 4)).c, arrival t.selChain 4)) = some (1, (1, true)) := by decide

/-- A data queue of 16 entries, at cluster scope (R392). -/
def queue0 : Queue := { ctx := 0, vdie := 0, clu := 0, cfg := 0xF0010004 }

/-- A data queue that context 0 reaches from core 0, as handle 2. -/
def stQ : State :=
  { stOf chain0 with ctxs := [(0, { ctx0 with handles := [(2, { obj := .queue 7 })] })],
                     queues := [(7, queue0)] }

theorem wit_queueOperations : Issues stQ chain0 ∧ stQ.sel.act ≠ 0 ∧ handleObj stQ chain0.ctx (q5 2 3).hnd.toNat = .queue 7 ∧ queueAt stQ 7 = queue0 ∧
    queue0.reaches stQ stQ.selCore = true ∧ queue0.launch = false ∧ (queueCells stQ (q5 2 3)).length ≤ queue0.cap ∧ acquireOpen chain0 = false :=
  ⟨issues_of rfl rfl (by decide), by decide, rfl, rfl, by decide, by decide, by decide, rfl⟩

/-- A global read-shared pointer of 256 bytes at package scope, in k6. -/
def gp : Ptr := { (default : Ptr) with ver := 1, base := 2 ^ 30, len := 256, share := 1, scope := 3, space := 0 }
def stI : State := stOf { chain0 with k := [(6, gp.toBits)] }

theorem wit_isync : Issues stI stI.selChain ∧ Ptr.ofBits (stI.selChain.readK 6 stI.sel.t0) = gp ∧ globalCheck stI 6 gp false = none :=
  ⟨issues_of rfl rfl (by decide), by decide, by decide⟩

/-! ## Vector engine: single steps -/

/-- g3 in a lane, long after an instruction on a chain whose g1 and g2 hold given values in lane 0. -/
def g3 (i : Instr) (a b : W32) (c : W32 := 0) : Option Nat :=
  (after i (stOf { chain0 with g := [(32, a), (64, b), (96, 0xEE), (128, c)] })).map (fun t => t.selChain.readG 3 0 200)

/-- R198, R104: wraps, saturations, high halves. -/
theorem test_integer :
    g3 (.iadd hd (q0 3 1 2 1)) 0x7FFFFFFF 1 = some 0x80000000 ∧ g3 (.iadd hd (q0 3 1 2 1 1)) 0x7FFFFFFF 1 = some 0x7FFFFFFF ∧
    g3 (.isub hd (q0 3 1 2 2 1)) 1 2 = some 0 ∧ g3 (.imul hd (q0 3 1 2 1)) 0xFFFFFFFF 7 = some 0xFFFFFFF9 ∧
    g3 (.imulh hd (q0 3 1 2 1)) 0xFFFFFFFF 7 = some 0xFFFFFFFF ∧ g3 (.imulh hd (q0 3 1 2 2)) 0xFFFFFFFF 7 = some 6 ∧
    g3 (.imad hd (q0 3 1 2 1 0 4)) 3 5 100 = some 115 ∧ g3 (.imin hd (q0 3 1 2 1)) 0xFFFFFFFF 7 = some 0xFFFFFFFF ∧
    g3 (.imax hd (q0 3 1 2 1)) 0xFFFFFFFF 7 = some 7 ∧ g3 (.iabs hd (q0 3 1 0 1)) 0x80000000 0 = some 0x80000000 ∧
    g3 (.iabs hd (q0 3 1 0 1 1)) 0x80000000 0 = some 0x7FFFFFFF ∧ g3 (.iadd hd (q0 3 1 2 7 1)) 0x7F017FFF 0x01010101 = some 0x7F027F00 := by decide

/-- R199, R200: the spec's own examples of BFX and BFI, shifts by the width, counts. -/
theorem test_bits :
    g3 (.bfx hd (q0 3 1 2 0)) 0xF0A5 0x0804 = some 0x0A ∧ g3 (.bfx hd (q0 3 1 2 0 1)) 0xF0A5 0x0808 = some 0xFFFFFFF0 ∧
    g3 (.bfx hd (q0 3 1 2 0)) 0xF0A5 0x0808 = some 0xF0 ∧ g3 (.bfx hd (q0 3 1 2 0)) 0xF0A5 0x081C = some 0 ∧
    g3 (.bfi hd (q0 3 1 2 0 0 4)) 7 0x081C 0x12345678 = some 0x72345678 ∧ g3 (.and hd (q0 3 1 2 0 1)) 0xFF 0x0F = some 0xF0 ∧
    g3 (.or hd (q0 3 1 2 0)) 0xF0 0x0F = some 0xFF ∧ g3 (.xor hd (q0 3 1 2 0)) 0xFF 0x0F = some 0xF0 ∧ g3 (.shl hd (q0 3 1 2 0)) 1 32 = some 0 ∧
    g3 (.shr hd (q0 3 1 2 0)) 0x80000000 31 = some 1 ∧ g3 (.sra hd (q0 3 1 2 0)) 0x80000000 40 = some 0xFFFFFFFF ∧
    g3 (.popc hd (q0 3 1 0 0)) 0xF0F0 0 = some 8 ∧ g3 (.clz hd (q0 3 1 0 0)) 0x00F0 0 = some 24 ∧ g3 (.clz hd (q0 3 1 0 0)) 0 0 = some 32 := by decide

/-- R201, R210, R212: copies; R209: the spec's own example of PACK; R213: that of CMUL. -/
theorem test_copies :
    g3 (.sel hd (q0 3 1 2 0)) 7 9 = some 7 ∧ g3 (.mov hd (q0 3 1 0 0)) 7 9 = some 7 ∧ g3 (.ldi hd (q1 3 0 0x3F800000)) 7 9 = some 0x3F800000 ∧
    g3 (.shfl hd (q0 3 1 2 0 3)) 7 0 = some 7 ∧ g3 (.shflx hd (q0 3 1 2 0 0)) 7 0 = some 7 ∧ g3 (.bcast hd (q0 3 1 0 0 1)) 7 9 = some 7 ∧
    g3 (.pack hd (q0 3 1 2 10 11)) 0x3F808000 0x40400000 = some 0x40403F80 ∧ g3 (.cmul hd (q0 3 1 2 13)) 0x40003F80 0xBF804040 = some 0x40A040A0 ∧
    g3 (.cmul hd (q0 3 1 2 13 1)) 0x40003F80 0xBF804040 = some 0x40E03F80 := by decide

/-- R202, R203, R205 to R209, R211: 1.5 + 2.25, 1.5 - 2.25, products, quotients and roots that are exact in FP32. -/
theorem test_floats :
    g3 (.fadd hd (q0 3 1 2 11)) 0x3FC00000 0x40100000 = some 0x40700000 ∧ g3 (.fsub hd (q0 3 1 2 11)) 0x3FC00000 0x40100000 = some 0xBF400000 ∧
    g3 (.fmul hd (q0 3 1 2 11)) 0x3FC00000 0x40000000 = some 0x40400000 ∧ g3 (.ffma hd (q0 3 1 2 11 0 4)) 0x3FC00000 0x40000000 0x3F800000 = some 0x40800000 ∧
    g3 (.fdiv hd (q0 3 1 2 11)) 0x40400000 0x40000000 = some 0x3FC00000 ∧ g3 (.fsqrt hd (q0 3 1 0 11)) 0x40800000 0 = some 0x40000000 ∧
    g3 (.frcp hd (q0 3 1 0 11)) 0x40000000 0 = some 0x3F000000 ∧ g3 (.frsq hd (q0 3 1 0 11)) 0x40800000 0 = some 0x3F000000 ∧
    g3 (.fmin hd (q0 3 1 2 11)) 0x80000000 0 = some 0x80000000 ∧ g3 (.fmax hd (q0 3 1 2 11)) 0x80000000 0 = some 0 ∧
    g3 (.fclass hd (q0 3 1 0 11)) 0xFF800000 0 = some (1 <<< 0) ∧ g3 (.cvti hd (q0 3 1 0 1 11 (rnd := 1))) 0xC0200000 0 = some 0xFFFFFFFE ∧
    g3 (.cvt hd (q0 3 1 0 11 1)) 0xFFFFFFFE 0 = some 0xC0000000 ∧ g3 (.unpack hd (q0 3 1 0 11 10)) 0x40403F80 0 = some 0x3F800000 := by
  decide +kernel

theorem test_exp_log : g3 (.fexp2 hd (q0 3 1 0 11)) 0x40400000 0 = some 0x41000000 ∧ g3 (.flog2 hd (q0 3 1 0 11)) 0x41000000 0 = some 0x40400000 := by
  decide +kernel

theorem test_reductions : g3 (.lred hd (q0 3 1 0 1)) 7 0 = some 7 ∧ g3 (.lscan hd (q0 3 1 0 1 8)) 7 0 = some 0 := by decide

theorem test_fcmp : p1 (.fcmp hd (q0 1 1 2 11 2)) 0 = some false := by decide

/-! ## Vector engine: witnesses -/

theorem wit_laneIntegerResults : ∀ p ∈ intTable, ∃ (h : Hdr) (f : F0) (s : State) (c : Chain),
    s.chain? s.sel.chain = some c ∧ WellFormed (p.1 h f) ∧ GFree s (wide0 f) f.d.toNat 2 := by
  have w : ∀ p ∈ intTable, ∃ f, WellFormed (p.1 hd f) := by
    simp only [intTable, List.forall_mem_cons]
    refine ⟨⟨q0 3 1 2 1, wf_of (by decide)⟩, ⟨q0 3 1 2 1, wf_of (by decide)⟩, ⟨q0 3 1 2 1, wf_of (by decide)⟩, ⟨q0 3 1 2 1, wf_of (by decide)⟩,
      ⟨q0 3 1 2 1, wf_of (by decide)⟩, ⟨q0 3 1 2 1, wf_of (by decide)⟩, ⟨q0 3 1 2 1, wf_of (by decide)⟩, ⟨q0 3 1 0 1 1, wf_of (by decide)⟩, nofun⟩
  intro p hp
  obtain ⟨f, hf⟩ := w p hp
  exact ⟨hd, f, st, chain0, rfl, hf, gFree_nil rfl _ _ _⟩

theorem wit_laneBitResults : ∀ p ∈ bitTable, ∃ (h : Hdr) (f : F0) (s : State) (c : Chain),
    s.chain? s.sel.chain = some c ∧ WellFormed (p.1 h f) ∧ GFree s (wide0 f) f.d.toNat 2 := by
  have w : bitTable.all (fun p => wellFormed (p.1 hd (q0 2 4 6 4))) = true := by decide
  intro p hp
  exact ⟨hd, q0 2 4 6 4, st, chain0, rfl, wf_all w p hp, gFree_nil rfl _ _ _⟩

theorem wit_bitCounts : GFree st false 3 2 ∧ WellFormed (.popc hd (q0 3 4 0 4)) ∧ WellFormed (.clz hd (q0 3 4 0 4)) :=
  ⟨gFree_nil rfl _ _ _, wf_of (by decide), wf_of (by decide)⟩

theorem wit_laneCopies : GFree st true 2 2 ∧ WellFormed (.sel hd (q0 2 4 6 4)) ∧ WellFormed (.mov hd (q0 2 4 0 4)) ∧ WellFormed (.ldi hd (q1 2 0 5)) :=
  ⟨gFree_nil rfl _ _ _, wf_of (by decide), wf_of (by decide), wf_of (by decide)⟩

theorem wit_laneFloatResults : ∀ p ∈ fltTable, ∃ (h : Hdr) (f : F0) (s : State) (c : Chain),
    s.chain? s.sel.chain = some c ∧ WellFormed (p.1 h f) ∧ GFree s (wide0 f) f.d.toNat (p.2.1 f) := by
  have w : ∀ p ∈ fltTable, ∃ f, WellFormed (p.1 hd f) := by
    simp only [fltTable, List.forall_mem_cons]
    refine ⟨⟨q0 3 1 2 11, wf_of (by decide)⟩, ⟨q0 3 1 2 11, wf_of (by decide)⟩, ⟨q0 3 1 2 11, wf_of (by decide)⟩, ⟨q0 3 1 2 11, wf_of (by decide)⟩,
      ⟨q0 3 1 0 11, wf_of (by decide)⟩, ⟨q0 3 1 0 11, wf_of (by decide)⟩, ⟨q0 3 1 0 11, wf_of (by decide)⟩, ⟨q0 3 1 2 11, wf_of (by decide)⟩,
      ⟨q0 3 1 0 11, wf_of (by decide)⟩, ⟨q0 3 1 0 11, wf_of (by decide)⟩, nofun⟩
  intro p hp
  obtain ⟨f, hf⟩ := w p hp
  exact ⟨hd, f, st, chain0, rfl, hf, gFree_nil rfl _ _ _⟩

theorem wit_floatSelections : WellFormed (.fmin hd (q0 3 1 2 11)) ∧ WellFormed (.fmax hd (q0 3 1 2 11)) ∧ WellFormed (.fclass hd (q0 3 1 0 10)) ∧
    WellFormed (.fcmp hd (q0 1 1 2 11 2)) ∧ GFree st false 3 (l4 (q0 3 1 2 11)) ∧
    ∀ l ∈ lanesOf st.sel.act, NoLater chain0 (.p 1 l) (laneCycle st l + l4 (q0 1 1 2 11 2)) :=
  ⟨wf_of (by decide), wf_of (by decide), wf_of (by decide), wf_of (by decide), gFree_nil rfl _ _ _, fun _ _ => noLater_nil rfl _ _⟩

theorem wit_conversions : WellFormed (.cvti hd (q0 3 1 0 1 11 (rnd := 1))) ∧ WellFormed (.cvt hd (q0 3 1 0 11 1)) ∧ WellFormed (.pack hd (q0 3 1 2 10 11)) ∧
    WellFormed (.unpack hd (q0 3 1 0 11 10)) ∧ GFree st (wide0 (q0 3 1 0 11 1)) 3 (l4 (q0 3 1 0 11 1)) :=
  ⟨wf_of (by decide), wf_of (by decide), wf_of (by decide), wf_of (by decide), gFree_nil rfl _ _ _⟩

theorem wit_crossLaneCopies : WellFormed (.shfl hd (q0 3 1 2 0 3)) ∧ WellFormed (.shflx hd (q0 3 1 2 0 3)) ∧ WellFormed (.bcast hd (q0 3 1 0 0 1)) ∧
    WellFormed (.bcast hd (q0 3 1 2 0 2 (ub := true))) ∧ (q0 3 1 0 0 1).sub.getLsbD 1 = false ∧ (q0 3 1 2 0 2 (ub := true)).sub.getLsbD 1 = true ∧
    GFree st false 3 4 ∧ NoLater chain0 (.s 3) (lastGroup st + 4) :=
  ⟨wf_of (by decide), wf_of (by decide), wf_of (by decide), wf_of (by decide), rfl, rfl, gFree_nil rfl _ _ _, noLater_nil rfl _ _⟩

theorem wit_laneReductions : st.sel.act ≠ 0 ∧ WellFormed (.lred hd (q0 3 1 0 1)) ∧ (q0 3 1 0 1).sub.getLsbD 5 = false ∧ WellFormed (.lred hd (q0 3 1 0 11 32)) ∧
    (q0 3 1 0 11 32).sub.getLsbD 5 = true ∧ WellFormed (.lscan hd (q0 3 1 0 1 8)) ∧ GFree st false 3 8 ∧ NoLater chain0 (.s 3) (lastGroup st + 8) :=
  ⟨by decide, wf_of (by decide), rfl, wf_of (by decide), rfl, wf_of (by decide), gFree_nil rfl _ _ _, noLater_nil rfl _ _⟩

theorem wit_complexMultiply : WellFormed (.cmul hd (q0 2 4 6 14)) ∧ GFree st true 2 (l4 (q0 2 4 6 14)) := ⟨wf_of (by decide), gFree_nil rfl _ _ _⟩

/-! ## Pointers, loads, stores, atomics -/

/-- Private FP32 pointers: 256 bytes of the weight buffer in k1, 256 bytes of global memory at die scope in k2 (all valid: R114). -/
def wbPtr : Ptr := { ver := 1, hdie := 0, hclu := 0, hcore := 0, res := 0, cv := false, space := 1, scope := 0, len := 256, share := 0, fmt := 9, base := 512 }
def glPtr : Ptr := { wbPtr with space := 0, scope := 2, base := 2 ^ 30 }
/-- The same with UINT32 elements, synchronising. -/
def wbSync : Ptr := { wbPtr with share := 2, fmt := 5 }
def glSync : Ptr := { glPtr with share := 2, fmt := 5 }

/-- s12 to s14: a layout word of the weight buffer (R60, R61). -/
def chainM : Chain :=
  { chain0 with k := [(1, wbPtr.toBits), (2, glPtr.toBits), (3, wbSync.toBits), (4, glSync.toBits), (6, gp.toBits)], s := [(1, 7), (2, 5), (12, 0x01000010), (16, 64)] }
def stM : State := { stOf chainM with cores := [(0, { cc := 100, seq := 40, wb := [(512, 0), (514, 0x80), (515, 0x3F)].filter (fun e => e.2 ≠ 0) })] }

theorem issM : Issues stM chainM := issues_of rfl rfl (by decide)

theorem settledM : Settled stM chainM := ⟨rfl, rfl, fun x hx => by
  have h : stM.chain? (primaryOf stM stM.sel.chain) = some chainM := rfl
  rw [h] at hx; cases hx; rfl⟩

theorem wit_pointerResults : stM.chain? stM.sel.chain = some chainM ∧ NoLater chainM (.k 5) (stM.sel.t0 + 2) := ⟨rfl, noLater_nil rfl _ _⟩

/-- R217, R219, R222: k5 after an instruction that makes a pointer. -/
def k5 (i : Instr) : Option Ptr := (after i stM).map (fun t => Ptr.ofBits (t.selChain.readK 5 200))

theorem test_pointers :
    (k5 (.pnarrow hd (q0 5 2 0 0 0))).map (fun p => (p.scope, p.base, p.valid)) = some (0, 2 ^ 30, true) ∧
    (k5 (.pslice hd (q0 5 2 16 0 0 16))).map (fun p => (p.base, p.len)) = some (2 ^ 30 + 64, 64) ∧
    (k5 (.ptype hd (q0 5 2 0 0 2))).map (·.fmt) = some 2 ∧ k5 (.pnarrow hd (q0 5 1 0 0 3)) = some (Ptr.ofBits 0) := by decide

theorem test_pget_pchk : (after (.pget hd (q0 4 2 0 0 1)) stM).map (fun t => sVal t.selChain true 4 200) = some 256 ∧
    (after (.pchk hd (q0 3 1 1 0 0)) stM).map (fun t => t.selChain.readP 3 0 200) = some true ∧
    (after (.pchk hd (q0 3 1 16 0 0)) stM).map (fun t => t.selChain.readP 3 0 200) = some false := by decide

theorem wit_pointerInstructions : WellFormed (.pget hd (q0 4 2 0 0 1)) ∧ SFree chainM true 4 102 ∧
    (∀ l ∈ lanesOf stM.sel.act, NoLater chainM (.p 3 l) 102) ∧ NoLater chainM (.k 5) 102 ∧
    ((q0 5 2 0 0 1).sub.toNat % 8 < glPtr.scope ∨ ({ glPtr with scope := 1, share := 0 } : Ptr).valid = false) ∧
    (glPtr.scope ≤ (q0 5 2 0 0 3).sub.toNat % 8 ∧ ({ glPtr with scope := 3, share := 0 } : Ptr).valid = true ∧ chainM.outs = [] ∧ chainM.writes = [] ∧
      widenKeys stM stM.selCore (tagFor stM chainM.ctx glPtr.base) glPtr.base glPtr.len 3 = []) :=
  ⟨wf_of (by decide), sFree_nil rfl _ _ _, fun _ _ => noLater_nil rfl _ _, noLater_nil rfl _ _, by decide, by decide, by decide, rfl, rfl, by decide⟩

theorem test_pwiden : (k5 (.pwiden hd (q0 5 2 0 0 3))).map (fun p => (p.scope, p.base)) = some (3, 2 ^ 30) := by decide

/-- LD and LDX of the weight buffer. -/
theorem wit_localLoads : ∀ x ∈ accessTable, ∃ (f : F2) (p : Ptr), p = Ptr.ofBits (chainM.readK f.ptr.toNat stM.sel.t0) ∧ 1 ≤ p.space ∧ p.space ≤ 4 ∧
    x.2.2.2.2 stM f p = true ∧ Passes stM f p (x.2.2.2.1 stM f p) false (x.2.2.1 stM f p) ∧ acquireOpen chainM = false ∧
    (∀ l ∈ accLanes stM f, ∀ u ∈ x.2.2.1 stM f p l, localOpen stM stM.sel.chain p.space u.a.toNat u.size = false) ∧
    (∀ l ∈ accLanes stM f, anyAbsent stM p (x.2.2.1 stM f p l) = false) ∧
    ∀ l ∈ accLanes stM f, ∀ u ∈ x.2.2.1 stM f p l, ∀ cell ∈ u.cells, NoLater chainM cell (lastIssue stM f + 6) := by
  simp only [accessTable, List.forall_mem_cons]
  exact ⟨⟨q2 8 1 0 0 1, wbPtr, by decide, by decide, by decide, trivial, by unfold Passes; decide, rfl, by decide, by decide, fun _ _ _ _ _ _ => noLater_nil rfl _ _⟩,
    ⟨q2 8 1 12 3, wbPtr, by decide, by decide, by decide, by decide, by unfold Passes; decide, rfl, by decide, by decide, fun _ _ _ _ _ _ => noLater_nil rfl _ _⟩, nofun⟩

/-- R226, R228: LD of two FP32 elements at 512: 1.0 and 0. -/
theorem test_ld : (after (.ld hd (q2 8 1 0 0 1)) stM).map (fun t => (t.selChain.readG 8 0 200, t.selChain.readG 9 0 200, t.selChain.readG 8 0 105)) =
    some (0x3F800000, 0, 0) := by decide

theorem test_st : (after (.st hd (q2 1 1 0 3 0)) stM).map (fun t => localRead t 0 1 524 4) = some 7 := by decide

theorem wit_localStores : ∀ x ∈ accessTable, ∃ (f : F2) (p : Ptr), p = Ptr.ofBits (chainM.readK f.ptr.toNat stM.sel.t0) ∧ 1 ≤ p.space ∧ p.space ≤ 4 ∧
    x.2.2.2.2 stM f p = true ∧ StorePasses stM f p (x.2.2.2.1 stM f p) (x.2.2.1 stM f p) ∧ Settled stM chainM ∧
    anyAbsent stM p ((storeUnits stM f p (x.2.2.1 stM f p)).map (·.2)) = false := by
  simp only [accessTable, List.forall_mem_cons]
  exact ⟨⟨q2 1 1 0 3, wbPtr, by decide, by decide, by decide, trivial, ⟨by decide, by decide, by decide, by decide⟩, settledM, by decide⟩,
    ⟨q2 1 1 12 3, wbPtr, by decide, by decide, by decide, by decide, ⟨by decide, by decide, by decide, by decide⟩, settledM, by decide⟩, nofun⟩

theorem uncached_of {s : State} {key : Nat} (h1 : (l1Find s s.selCore key).isNone = true) (h2 : (l2Find s (clusterOf s.selCore) key).isNone = true)
    (h3 : cluOk s s.selCore = true) (h4 : (s.coreAt (coreOf s.sel.chain)).side = []) : Uncached s key :=
  ⟨Option.isNone_iff_eq_none.1 h1, Option.isNone_iff_eq_none.1 h2, h3, by unfold loggedStores; rw [h4]; rfl⟩

theorem wit_homeLoads : glPtr = Ptr.ofBits (chainM.readK 2 stM.sel.t0) ∧ glPtr.space = 0 ∧ Passes stM (q2 8 2) glPtr (noForm glPtr (q2 8 2)) false (lsUnits stM (q2 8 2) glPtr) ∧
    acquireOpen chainM = false ∧ (glPtr.share = 2 → 2 ≤ glPtr.scope) ∧ sectorsOf stM (q2 8 2) glPtr (lsUnits stM (q2 8 2) glPtr) ≠ [] ∧
    ∀ key ∈ sectorsOf stM (q2 8 2) glPtr (lsUnits stM (q2 8 2) glPtr), Uncached stM key ∧ sectorOpen stM stM.sel.chain key = false := by
  refine ⟨by decide, rfl, by unfold Passes; decide, rfl, by decide, by decide, fun key hk => ?_⟩
  have h : ∀ key ∈ sectorsOf stM (q2 8 2) glPtr (lsUnits stM (q2 8 2) glPtr), (l1Find stM stM.selCore key).isNone = true ∧
      (l2Find stM (clusterOf stM.selCore) key).isNone = true ∧ cluOk stM stM.selCore = true ∧ sectorOpen stM stM.sel.chain key = false := by decide
  exact ⟨uncached_of (h key hk).1 (h key hk).2.1 (h key hk).2.2.1 rfl, (h key hk).2.2.2⟩

/-- LDX of global memory, with a layout word of space 0. -/
theorem wit_homeLoads_layout : ∃ f : F2, (layoutOf stM f.lane.toNat).res = 0 ∧ (layoutOf stM f.lane.toNat).space = glPtr.space ∧
    Passes stM f glPtr (lxIll stM f glPtr) false (lxUnits stM f glPtr) := ⟨q2 8 2 20 3, by decide, by decide, by unfold Passes; decide⟩

/-- R125: a miss sends one read to the sector's home. -/
theorem test_ld_home : (after (.ld hd (q2 8 2)) stM).map (fun t => (t.msgs.length, t.selChain.outs.length, (t.msgs.map (·.cls)))) = some (1, 1, [0]) := by decide

/-- A compressed-view pointer to 256 bytes at package scope, read-shared. -/
def cvPtr : Ptr := { glPtr with cv := true, scope := 3, share := 1, fmt := 0 }
def stX : State := stOf { chain0 with k := [(2, cvPtr.toBits)] }

theorem wit_xhdrRd : Issues stX stX.selChain ∧ cvPtr = Ptr.ofBits (stX.selChain.readK 2 stX.sel.t0) ∧ compCheck stX 2 cvPtr 32 = none ∧
    easeBusy (stX.coreAt stX.selCore) (rngOf stX stX.selChain.ctx cvPtr cvPtr.base 32) [] = false ∧
    acquireOpen stX.selChain = false ∧ (cvPtr.share = 2 → 2 ≤ cvPtr.scope) ∧ Uncached stX (keyFor stX stX.selChain.ctx cvPtr.base) ∧
    sectorOpen stX stX.sel.chain (keyFor stX stX.selChain.ctx cvPtr.base) = false :=
  ⟨issues_of rfl rfl (by decide), by decide, by decide, by decide, rfl, by decide, uncached_of (by decide) (by decide) (by decide) rfl, by decide⟩

theorem wit_presenceLoads : glPtr.valid = true ∧ (∀ l ∈ lanesOf stM.sel.act, unitCheck stM chainM stM.selCore glPtr false false
      (misplaced glPtr false (unitAt glPtr false (elemIndex stM (q2 8 2) 0 20 l) 0).2.2)
      (unitAt glPtr false (elemIndex stM (q2 8 2) 0 20 l) 0).1 (unitAt glPtr false (elemIndex stM (q2 8 2) 0 20 l) 0).2.1 = none) ∧
    (∀ l ∈ lanesOf stM.sel.act, ∀ i, i < 4 → NoLater chainM (.g (8 + i) l) (lastGroup stM + 6)) ∧
    (∃ a w r lat, (a, w, r, lat) = probe stM chainM.ctx stM.selCore glPtr (accKey stM chainM.ctx glPtr (2 ^ 30))) :=
  ⟨by decide, by decide, fun _ _ _ _ => noLater_nil rfl _ _, ⟨_, _, _, _, rfl⟩⟩

/-- R234, R123: the fourth register is LCLK, and outside cached memory the others are 0. -/
theorem test_ldprs : (after (.ldprs hd (q2 8 1)) { stM with cores := [(0, { cc := 100, seq := 40, lclk := 77 })] }).map (fun t =>
    (List.range 4).map (fun i => t.selChain.readG (8 + i) 0 200)) = some [0, 0, 0, 77] := by decide

theorem wit_homeStores : StorePasses stM (q2 1 2) glPtr (noForm glPtr (q2 1 2)) (lsUnits stM (q2 1 2) glPtr) ∧ 2 ≤ glPtr.scope ∧
    (stM.coreAt stM.selCore).regions = [] ∧ (stM.coreAt stM.selCore).side = [] ∧
    ∀ b ∈ gatherBytes stM chainM.ctx glPtr ((storeUnits stM (q2 1 2) glPtr (lsUnits stM (q2 1 2) glPtr)).map (fun y =>
      (y.1, y.2.a.toNat, y.2.size, (storeVal stM (q2 1 2) glPtr y.1 y.2).1))), Uncached stM b.key ∧ b.mask ≠ 0 := by
  refine ⟨⟨by decide, by decide, by decide, by decide⟩, by decide, rfl, rfl, fun b hb => ?_⟩
  have h : ∀ b ∈ gatherBytes stM chainM.ctx glPtr ((storeUnits stM (q2 1 2) glPtr (lsUnits stM (q2 1 2) glPtr)).map (fun y =>
      (y.1, y.2.a.toNat, y.2.size, (storeVal stM (q2 1 2) glPtr y.1 y.2).1))), (l1Find stM stM.selCore b.key).isNone = true ∧
      (l2Find stM (clusterOf stM.selCore) b.key).isNone = true ∧ cluOk stM stM.selCore = true ∧ b.mask ≠ 0 := by decide
  exact ⟨uncached_of (h b hb).1 (h b hb).2.1 (h b hb).2.2.1 rfl, (h b hb).2.2.2⟩

theorem wit_homeStores_layout : ∃ f : F2, (layoutOf stM f.lane.toNat).res = 0 ∧ (layoutOf stM f.lane.toNat).space = glPtr.space ∧
    StorePasses stM f glPtr (lxIll stM f glPtr) (lxUnits stM f glPtr) := ⟨q2 1 2 20 3, by decide, by decide, ⟨by decide, by decide, by decide, by decide⟩⟩




theorem wit_localAtomics : ∀ x ∈ atomTable, wbSync = Ptr.ofBits (chainM.readK 3 stM.sel.t0) ∧ AtomPasses stM (q2 8 3) wbSync (x.2.2.1 (q2 8 3)) ∧
    Settled stM chainM ∧ (∀ l ∈ accLanes stM (q2 8 3), anyAbsent stM wbSync [atomUnit stM (q2 8 3) wbSync l] = false) ∧
    ∀ j ∈ atomParts (q2 8 3) x.2.1 (atomJobs stM (q2 8 3) wbSync x.2.1 (x.2.2.2 stM (q2 8 3) wbSync)), ∀ cell ∈ j.cells,
      NoLater chainM cell (lastIssue stM (q2 8 3) + 10) := by
  have a : ∀ x ∈ atomTable, AtomPasses stM (q2 8 3) wbSync (x.2.2.1 (q2 8 3)) := by
    simp only [atomTable, List.forall_mem_cons]
    exact ⟨by unfold AtomPasses; decide, by unfold AtomPasses; decide, by unfold AtomPasses; decide, nofun⟩
  exact fun x hx => ⟨by decide, a x hx, settledM, by decide, fun _ _ _ _ => noLater_nil rfl _ _⟩

/-- R236, R237: the old value comes back, the sum stays. -/
theorem test_atom : (after (.atom hd (q2 8 3)) { stM with chains := [(0, { chainM with g := [(256, 5)] })] }).map (fun t =>
    (t.selChain.readG 8 0 200, localRead t 0 1 512 4)) = some (0x3F800000, 0x3F800005) := by decide

theorem wit_homeAtomics : ∀ x ∈ atomTable, glSync = Ptr.ofBits (chainM.readK 4 stM.sel.t0) ∧ glSync.space = 0 ∧ 2 ≤ glSync.scope ∧
    AtomPasses stM (q2 8 4) glSync (x.2.2.1 (q2 8 4)) ∧
    ∀ j ∈ atomParts (q2 8 4) x.2.1 (atomJobs stM (q2 8 4) glSync x.2.1 (x.2.2.2 stM (q2 8 4) glSync)), Uncached stM (accKey stM chainM.ctx glSync j.va) := by
  have a : ∀ x ∈ atomTable, AtomPasses stM (q2 8 4) glSync (x.2.2.1 (q2 8 4)) ∧
      ∀ j ∈ atomParts (q2 8 4) x.2.1 (atomJobs stM (q2 8 4) glSync x.2.1 (x.2.2.2 stM (q2 8 4) glSync)),
        (l1Find stM stM.selCore (accKey stM chainM.ctx glSync j.va)).isNone = true ∧
        (l2Find stM (clusterOf stM.selCore) (accKey stM chainM.ctx glSync j.va)).isNone = true ∧ cluOk stM stM.selCore = true := by
    simp only [atomTable, List.forall_mem_cons]
    exact ⟨by unfold AtomPasses; decide, by unfold AtomPasses; decide, by unfold AtomPasses; decide, nofun⟩
  exact fun x hx => ⟨by decide, rfl, by decide, (a x hx).1, fun j hj => uncached_of ((a x hx).2 j hj).1 ((a x hx).2 j hj).2.1 ((a x hx).2 j hj).2.2 rfl⟩

/-- A core with a region over the range of k5, as the first of chain 0; in the second state the region holds a stored sector. -/
def puPtr : Ptr := { glPtr with len := 128 }
def region0 : Region := { id := 3, ctx := 0, tag := tagFor stM 0 puPtr.base, lo := puPtr.base, len := 128, chain := 0 }
def stU (l1 : Tab Copy) : State :=
  { stOf { chainM with k := [(2, puPtr.toBits)] } with cores := [(0, { cc := 100, seq := 40, regions := [region0], l1 })] }
def uSector : Tab Copy := [(keyFor stM 0 puPtr.base, { st := .U, data := 0, umask := 1, wts := 0, rts := 0 })]

theorem wit_clocks : max (stM.coreAt stM.selCore).lclk (if (q1 0 1 0x101).imm.getLsbD 8 then chainM.readS 1 100 % 2 ^ 24 else 0) + (q1 0 1 0x101).imm.toNat % 256 ≤ 0xFFFFFF := by
  decide

theorem wit_pubopen : pubCheck stM 2 glPtr = none ∧ acquireOpen chainM = false ∧ glPtr.space = 0 ∧ (glPtr.scope = 2 ∨ glPtr.scope = 3) ∧ 1 ≤ glPtr.len ∧ glPtr.len ≤ 8192 ∧
    (stM.coreAt stM.selCore).regions.length ≤ 1 ∧ ∀ g ∈ (stM.coreAt stM.selCore).regions, overlaps (tagFor stM 0 glPtr.base) glPtr.base glPtr.len g.tag g.lo g.len = false := by
  decide

theorem wit_publish : pubCheck (stU []) 2 puPtr = none ∧ loadsOpen (stU []).selChain 40 = false ∧
    ((stU []).coreAt 0).regions.find? (fun g => decide (puPtr.space = 0 ∧ g.tag = tagFor (stU []) 0 puPtr.base ∧ g.lo = puPtr.base ∧ g.len = puPtr.len ∧ g.ctx = 0) && g.pub.isNone) = some region0 ∧
    regionKeys ((stU []).coreAt 0) region0 = [] ∧ regionKeys ((stU uSector).coreAt 0) region0 ≠ [] := by decide

theorem test_lcadv : (after (.lcadv hd (q1 0 1 0x105)) stM).map (fun t => (t.coreAt 0).lclk) = some 12 := by decide
theorem test_pubopen : (after (.pubopen hd (q2 0 2)) stM).map (fun t => (t.coreAt 0).regions.map (fun g => (g.lo, g.len))) = some [(2 ^ 30, 256)] := by decide

/-! ## Engines: a chain with operands of every kind -/

def abPtr : Ptr := { wbPtr with space := 2, base := 0, len := 1024 }
def plainPtr : Ptr := { glPtr with base := 2 ^ 31, len := 4096 }
def cmpPtr : Ptr := { cvPtr with base := 2 ^ 32, len := 4096 }

/-- k registers: copies from k1 and k8, transforms from k12, quantise from k16, matrix from k22, THALO k26. -/
def kRegs : Cells W128 :=
  [(1, wbPtr.toBits), (8, wbPtr.toBits), (9, abPtr.toBits), (10, { wbPtr with fmt := 5, base := 4096 }.toBits),
   (12, cmpPtr.toBits), (13, plainPtr.toBits), (14, plainPtr.toBits), (15, cmpPtr.toBits),
   (16, { wbPtr with fmt := 11 }.toBits), (17, abPtr.toBits), (18, { wbPtr with base := 4096 }.toBits),
   (20, wbPtr.toBits), (21, { abPtr with fmt := 11 }.toBits),
   (22, { wbPtr with fmt := 11 }.toBits), (23, { abPtr with fmt := 11 }.toBits), (24, { wbPtr with fmt := 14 }.toBits), (25, { abPtr with fmt := 14 }.toBits),
   (26, wbPtr.toBits)]

/-- s registers: s20 a count of 4, s21 one of 16, s22 1.0, s24 to s27 a layout and a box of 4 elements, s28 and s29 1, s32 to s39 a
descriptor of 16 by 4 FP32 elements in one tile, s40 a matrix shape of K = 16; s44 to s46 zero. -/
def sRegs : Cells W32 :=
  [(20, 4), (21, 16), (22, 0x3F800000), (24, 0x02000000), (25, 4), (27, 0x00200804), (28, 1), (29, 1),
   (33, 1), (34, 0x00040010), (35, 0x14090001), (36, 64), (37, 256), (40, 16)]

/-- g3 and g4: format words of BS7 and of CBF16 operands. -/
def chainE : Chain := { chain0 with kern := { kern0 with acc := 2 }, k := kRegs, s := sRegs, g := [(96, 0x16B), (128, 0x1CE)], accs := [(1, 3)] }

def tdesc : TDesc := { base := 2 ^ 32, d1 := 16, d2 := 4, d3 := 1, fmt := 9, l1 := 4, l2 := 2, l3 := 0, p2 := 64, p3 := 256 }

/-- Handle 2 a queue, 3 an unbound tensor, 4 a bound one. -/
def stE : State :=
  { stOf chainE with
    ctxs := [(0, { ctx0 with handles := [(2, { obj := .queue 7 }), (3, { obj := .tensor 5 }), (4, { obj := .tensor 6 })], home := [0] })]
    queues := [(7, queue0)], tensors := [(5, { ctx := 0 }), (6, { ctx := 0, st := 2, desc := tdesc, tid := 1 })] }

def goes (o : Offer) : Bool := o.fault.isNone && offerReady stE o

theorem issE : Issues stE chainE := issues_of rfl rfl (by decide)

/-- The operands of each row of offerTable. -/
def offerFields : List F4 :=
  [q4 0 8 20, q4 0 8 24, q4 0 8 20, q4 0 8 20,
   q4 2 12 0 0 1, q4 2 12 0 0 2, q4 2 12 0 0 3, q4 2 12 28, q4 2 12 28, q4 2 14 28,
   q4 0 0 0, q4 0 8 20, q4 0 0 28, q4 0 1 22, q4 0 16 21, q4 0 20 21,
   q4 3 0 32, q4 4 0 0, q4 4 0 44, q4 4 26 44, q4 4 0 0, q4 4 0 0 0 1, q4 4 0 0]

theorem wit_engineCommands_rows : offerTable.length = offerFields.length ∧ (offerTable.zip offerFields).all (fun x =>
    goes (x.1.2 hd x.2 stE) && (decide ((x.1.2 hd x.2 stE).cmd.eng ≠ .copy) || decide ((x.1.2 hd x.2 stE).cmd.len ≠ 0))) = true := by decide

/-- A pointer that holds 0 (0x0C), an open write that CPY must wait for, and a CPY of nothing. -/
theorem wit_engineCommands_else : ((cpyOffer hd (q4 0 3 20) stE).fault).map (·.1) = some 0x0C ∧
    (let s := { stE with cores := [(0, { cc := 100, seq := 40, copyq := List.replicate 8 (newCmd stE .copy (.nop hd (q0 0 0 0 0)) 0 [] []) })] }
     (cpyOffer hd (q4 0 8 20) s).fault = none ∧ offerReady s (cpyOffer hd (q4 0 8 20) s) = false) ∧
    (let o := cpyOffer hd (q4 0 8 44) stE
     o.fault = none ∧ o.cmd.eng = .copy ∧ o.cmd.len = 0 ∧ o.held = false ∧ ordered chainE o.scope = true ∧ (stE.coreAt stE.selCore).copyq.length < 8) := by
  decide

theorem wit_commandEffects : Issues stE chainE ∧ goes (tbindOffer hd (q4 3 0 32) stE) = true ∧ goes (tfreeOffer hd (q4 4 0 0) stE) = true ∧
    goes (hpctOffer hd (q4 0 0 28) stE) = true := ⟨issE, by decide, by decide, by decide⟩

def matrixFields : List F4 := [q4 0 22 40 3, q4 0 24 40 4, q4 0 8 44 128, q4 0 8 44, q4 0 0 0 1]

theorem wit_matrixCommands : matrixTable.length = matrixFields.length ∧
    (matrixTable.zip matrixFields).all (fun x => goes (x.1.2 hd x.2 stE).2) = true ∧
    ((mmaOffer (q4 0 3 40 3) stE (.mma hd (q4 0 3 40 3)) false).fault).map (·.1) = some 0x0C ∧
    (let s := { stE with cores := [(0, { cc := 100, seq := 40, matq := List.replicate 8 (newCmd stE .matrix (.nop hd (q0 0 0 0 0)) 0 [] []) })] }
     (azeroOffer hd (q4 0 0 0 1) s).fault = none ∧ offerReady s (azeroOffer hd (q4 0 0 0 1) s) = false) := by decide

theorem wit_accumulatorRelease : (stE.coreAt stE.selCore).matq = [] ∧ offerReady stE (arelOffer hd (q4 0 0 0 2) stE) = true ∧ chainE.pair = none ∧
    (∀ q ∈ chainE.parked, q.why ≠ .exitWait) ∧ (stE.coreAt stE.selCore).ease.all (fun e => e.id ≠ stE.nextId) = true :=
  ⟨rfl, by decide, rfl, nofun, by decide⟩

/-- R331: the slot of accumulator 1 is to be cleared. -/
theorem test_arel : (after (.arel hd (q4 0 0 0 2)) stE).map (fun t => ((t.coreAt 0).clearing, t.selChain.accs)) = some ([3], []) := by decide

/-- R148, R149, R256: CPY of 16 bytes queues, with easements on its destination and its source. -/
theorem test_cpy : (after (.cpy hd (q4 0 8 20)) stE).map (fun t => ((t.coreAt 0).copyq.length, (t.coreAt 0).ease.map (fun e => (e.space, e.lo, e.hi, e.dst)))) =
    some (1, [(1, 512, 527, true), (2, 0, 15, false)]) := by decide

/-- R264, R266: a unit of the copy lands. -/
theorem test_copy_unit : ((after (.cpy hd (q4 0 8 20)) { stE with cores := [(0, { cc := 100, seq := 40, ab := [(0, 9), (15, 7)] })] }).bind (after (.copyUnitLanding 0))).map (fun t =>
    (localRead t 0 1 512 1, localRead t 0 1 527 1, (t.coreAt 0).copyq.length, (t.coreAt 0).ease.length)) = some (9, 7, 0, 0) := by
  decide +kernel

/-- A chain with a command outstanding in every engine, in group or stream 0. -/
def cmdOf (e : Eng) (g : Nat) (i : Instr) : Cmd := newCmd stE e i g [] []
def stW : State :=
  { stE with cores := [(0, { cc := 100, seq := 40, copyq := [cmdOf .copy 0 (.cpy hd (q4 0 8 20))], qntq := [cmdOf .quant 0 (.hclr hd (q4 0 0 0))],
                             tenq := [cmdOf .tensor 0 (.tfree hd (q4 4 0 0))] })]
             sel := { stE.sel with seq := 41 } }

theorem wit_engineWaits_rows : ∀ p ∈ waitTable, ∀ f : F4, waitsFor stE p.2.1 (fun g => (p.2.2.1 f).contains g) = [] := by
  intro p _ f
  have : ∀ e : Eng, engQueue stE e stE.selCore = [] := fun e => by cases e <;> rfl
  simp [waitsFor, this]

theorem wit_engineWaits_busy : ∀ p ∈ waitTable, waitsFor stW p.2.1 (fun g => (p.2.2.1 (q4 0 0 0 0 0 true)).contains g) ≠ [] ∧
    stoppedBefore stW p.2.1 (fun g => (p.2.2.1 (q4 0 0 0 0 0 true)).contains g) = none := by decide

theorem wit_engineWaits_free : (∀ i, i < 3 → NoLater chainE (.s (50 + i)) 102) ∧ (∀ l ∈ lanesOf stE.sel.act, NoLater chainE (.p 1 l) 102) ∧
    handleObj stE chainE.ctx 2 = .queue 7 ∧ stoppedOf stE .xform (fun x => x = 2) = none ∧ waitsFor stE .xform (fun x => x = 2) = [] ∧
    stoppedOf stE .matrix (fun g => [0].contains g) = none ∧ waitsFor stE .matrix (fun g => [0].contains g) = [] :=
  ⟨fun _ _ => noLater_nil rfl _ _, fun _ _ => noLater_nil rfl _ _, rfl, rfl, rfl, rfl, rfl⟩

def queryFields : List F4 := [q4 2 0 50, q4 0 0 50, q4 0 0 50, q4 0 0 50, q4 4 0 44, q4 0 0 50, q4 0 0 50, q4 0 0 50]

theorem wit_queries : queryTable.length = queryFields.length ∧ (queryTable.zip queryFields).all (fun x => x.1.2.1 stE x.2) = true ∧ chainE.pend = [] :=
  ⟨rfl, by decide, rfl⟩

theorem wit_engineStatus : Issues stE chainE ∧ (Ptr.ofBits (chainE.readK 8 100)).valid = true ∧ ptrEases stE (Ptr.ofBits (chainE.readK 8 100)) = [] ∧
    ptrEases { stE with cores := [(0, { ease := [{ id := 9, tag := 0, space := 1, lo := 512, hi := 600, dst := true }] })] } (Ptr.ofBits (chainE.readK 8 100)) ≠ [] ∧
    handleObj stE chainE.ctx 4 = .tensor 6 := ⟨issE, by decide, by decide, by decide, rfl⟩

/-- A ring of four slots (the spec's own descriptor) in three conditions: fresh, with slot 0 acquired by its producer, and with
slot 0 full and acquired by its consumer. -/
def ring0 : StageRing := { desc := 0x0002478000008000, ctx := 0 }
def ring1 : StageRing := { ring0 with acqp := 1 }
def ring2 : StageRing := { ring1 with acqc := 1, v := [(0, true)] }
def stR (r : StageRing) : State := { stOf chain0 with ctxs := [(0, { ctx0 with handles := [(1, { obj := .ring 3 })] })], rings := [(3, r)] }

theorem wit_ringFor : RingFor (stR ring0) chain0 (q4 1 0 10) 3 ring0 ∧ RingFor (stR ring1) chain0 (q4 1 0 10) 3 ring1 ∧
    RingFor (stR ring2) chain0 (q4 1 0 10) 3 ring2 :=
  ⟨⟨rfl, rfl, by decide, by decide⟩, ⟨rfl, rfl, by decide, by decide⟩, ⟨rfl, rfl, by decide, by decide⟩⟩

/-- R274, R275: what is ready in each condition: a slot for the producer, one for the consumer, and the waits. -/
theorem wit_ringAcquires :
    ringReady (stR ring0) 0 0 ring0 0 = true ∧ ringReady (stR ring0) 0 1 ring0 0 = false ∧ ringReady (stR ring2) 0 1 ring2 0 = true ∧
    ringReady (stR ring2) 0 0 ring2 0 = false ∧ StageRing.issued ring1.acqp 0 = true ∧ ringReady (stR ring2) 0 2 ring2 0 = true ∧
    ringReady (stR ring1) 0 2 ring1 0 = false ∧ ringReady (stR ring1) 0 3 ring1 0 = true ∧ ringReady (stR ring2) 0 3 ring2 0 = false ∧
    sOp (stR ring1) (q4 1 0 10) 0 = 0 := by decide

theorem wit_ringReleases : prodOk ring1 0 = true ∧ prodOk ring0 0 = false ∧ earlierWrites chain0 ring1.scope = [] ∧
    stoppedOf (stR ring1) .copy (fun x => x = copyGrp (q4 1 0 10)) = none ∧ ring1.after = [] ∧ engQueue (stR ring1) .copy 0 = [] ∧
    StageRing.issued ring2.acqc 0 = true ∧ ring2.ready 0 true = true ∧ (StageRing.issued ring1.acqc 0 && ring1.ready 0 true) = false ∧
    chain0.outs = [] ∧ (∀ q ∈ chain0.parked, q.why ≠ .line) ∧ ((stR ring2).coreAt (stR ring2).selCore).ease = [] :=
  ⟨by decide, by decide, by decide, rfl, rfl, rfl, by decide, by decide, by decide, rfl, by decide, rfl⟩

/-- R275: RINGACQ.prod of a fresh ring writes 0x8000 and sequence 0. -/
theorem test_ringacq : (after (.ringacqProd hd (q4 1 0 10)) (stR ring0)).map (fun t => (t.selChain.readS 10 200, t.selChain.readS 11 200)) = some (0x8000, 0) := by
  decide

/-! ## Dispatch -/

/-- The sector at 2^30 in core 0's L1 with given data, k2 pointing to it (64 bytes and more), and handle 1 a launch queue of one
entry; kernel 0 is registered. -/
def ctxD : Ctx := { ctx0 with handles := [(1, { obj := .queue 7 }), (2, { obj := .queue 8 })], reg := [(0, { gen := 0, kern := some kern0, gone := false })], surv := 4, parc := 4 }
def lineOf (d : BitVec 512) : Tab Copy := [(keyFor stM 0 (2 ^ 30), { st := .L, data := d, wts := 0, rts := 1000 })]
def chainD : Chain := { chain0 with k := [(2, glPtr.toBits), (3, { glPtr with base := 2 ^ 30 + 32 }.toBits), (4, { glSync with fmt := 6, scope := 3 }.toBits)], s := [(12, 1), (14, 0xF0010004)] }
def stD (d : BitVec 512) (ss : List Nat) : State :=
  { stOf chainD with
    ctxs := [(0, ctxD)], cores := [(0, { cc := 100, seq := 40, l1 := lineOf d })], parts := [(0, { clusters := [0], memory := [0], ylimit := 20000, surv := 4, parc := 4, nchild := 0, port := 0, root := some 0 })]
    queues := [(7, { queue0 with cfg := 0xF8030000, surveys := ss }), (8, queue0)] }

/-- A record of kernel 0 with a grid of one team. -/
def rec1 : BitVec 512 := 1 <<< 32 ||| 1 <<< 48 ||| 1 <<< 64

def fl : F4 := q4 1 2 20
def launchCheck (s : State) (k : BitVec 5) : Option (Nat × Nat) :=
  let f := q4 1 k 20
  operandCheck s f.pb.toNat (ptrPB s chainD f) (if (ptrPB s chainD f).space ≠ 0 ∨ (ptrPB s chainD f).base % 64 ≠ 0 then some (0x72, f.pb.toNat) else none)
    false (ptrPB s chainD f).base 0 true

def accepts (x : EngRes (Nat ⊕ Nat)) : Option (Option Nat) :=
  match x with
  | .ok _ (.inr n) => some (some n)
  | .ok _ (.inl _) => some none
  | _ => none

theorem accepts_some {x : EngRes (Nat ⊕ Nat)} {n : Nat} (h : accepts x = some (some n)) : ∃ u, x = .ok u (.inr n) := by
  unfold accepts at h; split at h <;> simp_all

theorem accepts_none {x : EngRes (Nat ⊕ Nat)} (h : accepts x = some none) : ∃ u r, x = .ok u (.inl r) := by
  unfold accepts at h; split at h <;> simp_all

theorem wit_launches : Issues (stD rec1 []) chainD ∧ (∀ o, handleObj (stD rec1 []) chainD.ctx 9 ≠ .queue o) ∧
    handleObj (stD rec1 []) chainD.ctx 1 = .queue 7 ∧ (launchCheck (stD rec1 []) 3).map (·.1) = some 0x72 ∧ launchCheck (stD rec1 []) 2 = none ∧
    (queueAt (stD rec1 []) 8).launch = false ∧ (queueAt (stD rec1 []) 7).launch = true ∧ survStop (stD rec1 []) chainD.ctx = none ∧
    survStop { stD rec1 [] with ctxs := [(0, { ctxD with surv := 0 })] } chainD.ctx = some 0 ∧ ordered chainD (min 2 (ptrPB (stD rec1 []) chainD fl).scope) = true ∧
    (queueAt (stD rec1 [9]) 7).cap ≤ (queueAt (stD rec1 [9]) 7).surveys.length ∧ (queueAt (stD rec1 []) 7).surveys.length < (queueAt (stD rec1 []) 7).cap :=
  ⟨issues_of rfl rfl (by decide), by intro o; rw [show handleObj (stD rec1 []) chainD.ctx 9 = .empty from by decide]; nofun, rfl, by decide, by decide, by decide,
    by decide, by decide, by decide, rfl, by decide, by decide⟩

theorem wit_launches_accepted : ∃ u, launchAnswer (stD rec1 []) chainD fl 7 = .ok u (.inr 1) := accepts_some (by decide +kernel)
theorem wit_launches_rejected : ∃ u r, launchAnswer (stD 0 []) chainD fl 7 = .ok u (.inl r) := accepts_none (by decide +kernel)

/-- R402, R389: the SURVEYID, or the reason of a record with no grid. -/
theorem test_launch : (after (.launch hd fl) (stD rec1 [])).map (fun t => (t.selChain.readS 20 1000, t.selChain.readS 21 1000, t.surveys.length)) = some (1, 0, 1) ∧
    (after (.launch hd fl) (stD 0 [])).map (fun t => (t.selChain.readS 20 1000, t.selChain.readS 21 1000, t.surveys.length)) = some (0, 2, 0) := by
  decide +kernel

/-- An image of one word, EXIT, in one block of cost 1, laid out and summed as R87 and R88 say. -/
def image1 : Nat :=
  0x6b00000001000000010000000100000000000000000001c00679a6d9ee00000000000000000000005a0000005800000048000000400000000000000000000000000000800000010103000000010000000100000001314b4746

/-- The image at 2^30 in core 0's L1 (two sectors). -/
def stK (x : Nat) : State :=
  { stD rec1 [] with cores := [(0, { cc := 100, seq := 40, l1 := [(keyFor stM 0 (2 ^ 30), { st := .L, data := BitVec.ofNat 512 x, wts := 0, rts := 1000 }),
      (keyFor stM 0 (2 ^ 30 + 64), { st := .L, data := BitVec.ofNat 512 (x / 2 ^ 512), wts := 0, rts := 1000 })] })] }

def fk : F4 := q4 0 2 20
def hdrRead (x : Nat) : EngRes Nat := rdBytes (stK x) 0 0 0 glPtr (2 ^ 30) 64

def okVal {α : Type} (x : EngRes α) : Option (State × α) :=
  match x with
  | .ok s a => some (s, a)
  | _ => none

theorem okVal_some {α : Type} {x : EngRes α} {p : α → Bool} (h : (okVal x).map (fun y => p y.2) = some true) : ∃ u a, x = .ok u a ∧ p a = true := by
  cases x with
  | ok s a => exact ⟨s, a, rfl, by simpa [okVal] using h⟩
  | fault s c v d => simp [okVal] at h
  | wait => simp [okVal] at h

theorem wit_kernelRegistry_pointer : ptrPB (stK 0) chainD fk = glPtr ∧ operandCheck (stK 0) 2 glPtr none false glPtr.base 0 (decide (glPtr.base % 8 = 0)) = none ∧
    ordered chainD glPtr.scope = true ∧ glPtr.space = 0 ∧ 64 ≤ glPtr.len ∧ (({ glPtr with len := 32 } : Ptr).space ≠ 0 ∨ ({ glPtr with len := 32 } : Ptr).len < 64) ∧
    ordered chainD 0 = true := ⟨by decide, by decide, rfl, rfl, by decide, by decide, rfl⟩

/-- An image longer than the pointer, one that fails R91, and one that passes it. -/
theorem wit_kernelRegistry_image : (∃ u x, hdrRead (1000 * 2 ^ 384) = .ok u x ∧ decide (glPtr.len < x / 2 ^ 384 % 2 ^ 32) = true) ∧
    (∃ u x, hdrRead image1 = .ok u x ∧ decide (x / 2 ^ 384 % 2 ^ 32 = 90) = true) :=
  ⟨okVal_some (by decide +kernel), okVal_some (by decide +kernel)⟩

theorem wit_kernelRegistry_verdict : (checkImage none 20000 (2 ^ 30) (toBytes 90 image1)).getRight?.isSome = true ∧
    (checkImage none 20000 (2 ^ 30) (toBytes 64 0)).getLeft? = some 1 ∧ freeReg ctxD = some (1, 1) := by decide +kernel

/-- R403, R87: KREG of the image gives the KID of slot 1 in its first generation. -/
theorem test_kreg : (after (.kreg hd fk) (stK image1)).map (fun t => (t.selChain.readS 20 1000, t.selChain.readS 21 1000)) = some (1025, 0) := by decide +kernel

theorem wit_kernelRegistry_kdereg : kernOf (stK 0) 0 5 = none ∧ (kernOf (stK 0) 0 0).map (·.1) = some 0 ∧
    (stK 0).surveys.all (fun e => decide (e.2.ctx ≠ 0 ∨ e.2.slot ≠ 0)) = true := by decide

theorem find_map {α : Type} (e : α) : ∀ (l : List Nat) (i : Nat), i ∈ l → Tab.find (l.map (fun j => (j, e))) i = some e := by
  intro l
  induction l with
  | nil => simp
  | cons a r ih =>
    intro i hi
    by_cases h : a = i
    · simp [Tab.find, h]
    · simp only [List.map_cons, Tab.find, if_neg h]
      exact ih i ((List.mem_cons.1 hi).resolve_left (fun e => h e.symm))

/-- A context whose every slot holds a kernel. -/
def fullReg : Ctx := { reg := (List.range 1024).map (fun i => (i, ({ gen := 0, kern := some kern0, gone := false } : RegEnt))) }

theorem wit_kernelRegistry_full : freeReg fullReg = none := by
  unfold freeReg
  rw [Option.map_eq_none_iff, firstBelow, List.find?_eq_none]
  intro i hi
  rw [fullReg, find_map _ _ _ hi]
  simp

def survey0 : Survey :=
  { part := 0, ctx := 0, slot := 0, kern := kern0, gx := 1, gy := 1, gz := 1, prio := 0, pairs := false, chksb := false, rm := 0, dep := 2, die0 := 0, ndie := 0,
    sregs := [], kregs := [], xbind := [], done := 0, queue := 7, accept := 0 }

/-- A completion word at 2^30 of survey 1 (R407), through k4. -/
def stS (d : BitVec 512) : State := { stD d [] with surveys := [(surveyKey 0 1, survey0), (surveyKey 0 2, survey0)] }
def fw : F4 := q4 1 4 12

def readVal (x : Res Read) : Option Nat :=
  match x with
  | .ok _ r => some (sectorBytes r.data 0 8)
  | _ => none

theorem readVal_some {x : Res Read} {n : Nat} (h : readVal x = some n) : ∃ u r, x = .ok u r ∧ sectorBytes r.data 0 8 = n := by
  cases x with
  | ok u r => exact ⟨u, r, rfl, by simpa [readVal] using h⟩
  | fault => simp [readVal] at h
  | wait => simp [readVal] at h

theorem wit_dispatch_swait : (swaitFault (stS 0) chainD (q4 1 2 12)).map (·.1) = some 0x72 ∧ swaitFault (stS 0) chainD fw = none ∧ acquireOpen chainD = false ∧
    (∃ u r, swaitRead (stS (1 ||| 1 <<< 63)) chainD fw = .ok u r ∧ sectorBytes r.data 0 8 = 1 + 2 ^ 63) ∧
    (∃ u r, swaitRead (stS 0) chainD fw = .ok u r ∧ sectorBytes r.data 0 8 = 0) ∧ sWord (stS 0) chainD fw 0 = 1 :=
  ⟨by decide, by decide, rfl, readVal_some (by decide +kernel), readVal_some (by decide +kernel), by decide⟩

theorem test_swait : (after (.swait hd fw) (stS (1 ||| 5 <<< 32 ||| 1 <<< 63))).map (fun t => t.selChain.readS 13 1000) = some (5 + 2 ^ 31) := by decide +kernel

theorem wit_dispatch_qcfg : handleObj (stS 0) 0 2 = .queue 8 ∧ cfgOk (sWord (stS 0) chainD (q4 2 0 12) 0) = false ∧ cfgOk (sWord (stS 0) chainD (q4 2 0 14) 0) = true ∧
    (queueAt (stS 0) 8).surveys = [] ∧ (queueAt (stS 0) 8).parked = [] := ⟨rfl, by decide, by decide, rfl, rfl⟩

theorem wit_dispatch_depadd : (Tab.find (stS 0).surveys (surveyKey 0 5)).isNone = true ∧ Tab.find (stS 0).surveys (surveyKey 0 1) = some survey0 ∧ survey0.ctx = 0 ∧
    survey0.deps.length + survey0.metDeps < survey0.dep ∧ sWord (stS 0) { chainD with s := [(12, 1), (13, 2)] } fw 1 ≠ 1 ∧
    ({ survey0 with dep := 0 } : Survey).dep ≤ survey0.deps.length + survey0.metDeps := by decide

theorem test_depadd : (after (.depadd hd (q4 0 0 12)) (stOf { chainD with s := [(12, 1), (13, 2)] } |> fun s => { s with surveys := (stS 0).surveys })).map (fun t =>
    (Tab.find t.surveys (surveyKey 0 1)).map (·.deps)) = some (some [surveyKey 0 2]) := by decide


/-! ## Contexts -/

/-- Handle 1 a child (context 1) in a given state, 2 a launch queue, 3 a data queue of package scope, 4 the context's root child of
none; k2 a completion pointer, k3 a plain page, k4 a log's buffer, k5 a table of 64 bytes; s20 to s22 zero, s24 a port word, s26 a
grant of handle 3 as handle 5, s28 a mask of one core, s30 one frame. -/
def chainC : Chain :=
  { chain0 with
    k := [(2, { glSync with fmt := 6, scope := 3 }.toBits), (3, { plainPtr with base := 2 ^ 30, fmt := 0 }.toBits),
          (4, { glPtr with fmt := 0, base := 2 ^ 30, len := 128 }.toBits), (5, glPtr.toBits)]
    s := [(24, 0x00010040), (26, 0x503), (28, 1), (31, 1)] }
def child1 (st : CSt) : Ctx := { parent := 0, depth := 1, st, frlim := 4, plat := [{ site := 0, cores := [0] }], frames := [(0, 0xC000000000000000)] }
def pageLines : Tab Copy := (List.range 64).map (fun i => (keyFor stM 0 (2 ^ 30 + 64 * i), { st := .L, data := 0, wts := 0, rts := 1000 }))
def stC (st : CSt) : State :=
  { stOf chainC with
    ctxs := [(0, { ctxD with handles := [(1, { obj := .child 1 }), (2, { obj := .queue 7 }), (3, { obj := .queue 8 })], st := .running, frlim := 4, nchild := 4, home := [0],
                             frames := [(0, 0xC000000000000005), (1, 0xC000000000000006)] }), (1, child1 st)]
    cores := [(0, { cc := 100, seq := 40, l1 := pageLines })]
    parts := (stD rec1 []).parts, queues := [(7, { queue0 with cfg := 0xF8030000 }), (8, { queue0 with cfg := 0xF0030004 })] }

/-- The same with the child's migration log on. -/
def stCG (st : CSt) : State :=
  { stC st with ctxs := [(0, (stC st).ctxAt 0), (1, { child1 st with mig := some { ptr := chainC.readK 4 100, m := 8, count := 0, mode := 0, pages := [] } })] }

/-- A command that would perform. -/
def performs (p : CxRow) (s : State) (f : F4) : Bool :=
  let x := if p.child f then 1 else 0
  (!(p.child f) || decide (handleObj s chainC.ctx f.hnd.toNat = .child 1)) && (firstFault (p.checks s chainC f x)).isNone && ordered chainC (p.scope s chainC f) &&
    (p.act s chainC f x).isSome

def cxFields : List (State × F4) :=
  [(stC .stopped, q4 1), (stC .running, q4 1), (stC .stopped, q4 1 0 20), (stC .stopped, q4 1 0 24), (stC .stopped, q4 1 0 26), (stC .stopped, q4 1 0 20),
   (stC .stopped, q4 1 0 28), (stC .running, q4 9 0 20 0 1), (stC .running, q4 0 0 20), (stC .running, q4 1 0 20), (stC .running, q4), (stC .running, q4 0 0 20),
   (stC .running, q4 0 3), (stC .running, q4 1 0 0 0 8), (stC .running, q4 1 0 20 0 9)]
def sweepFields : List (State × F4) :=
  [(stC .running, q4 1 2 20), (stC .running, q4 1 2 20), (stC .stopped, q4 1 2 20), (stC .running, q4 1 2 20), (stC .running, q4 1 2 30), (stC .running, q4 1 2 30)]
def cxMemFields : List (State × F4) :=
  [(stC .stopped, q4 1), (stC .running, q4 1 4), (stCG .running, q4 1 4), (stCG .stopped, q4 1), (stC .running, q4 0 3), (stC .running, q4 1 0 0 0 8),
   (stC .running, q4 9 3), (stC .running, q4 1 3 0 0 1)]
def cxReadFields : List (State × F4) :=
  [(stC .running, q4 1 0 20), (stC .running, q4 1 0 20), (stC .running, q4 0 0 20), (stC .running, q4 1 0 20), (stC .running, q4 1 0 20), (stC .running, q4 1 0 20),
   (stC .running, q4 1 0 20), (stC .running, q4 1 0 20)]

theorem issC (st : CSt) : Issues (stC st) chainC := issues_of rfl rfl (by cases st <;> decide)

theorem wit_contextCommands_rows : cxTable.length = cxFields.length ∧ (cxTable.zip cxFields).all (fun x => performs x.1 x.2.1 x.2.2) = true := by
  decide +kernel

/-- A handle that names no child, a child that is not stopped, and a chain with a write on its way. -/
theorem wit_contextCommands_else : (∀ y, handleObj (stC .running) 0 (q4 2).hnd.toNat ≠ .child y) ∧ notIn (stC .running) (q4 1) 1 [.stopped] = some (0x78, 257) ∧
    ordered { chainC with writes := [{ id := 1, seq := 3, scope := 3, key := 0 }] } 0 = false :=
  ⟨nofun, by decide, by decide⟩

theorem wit_contextCommands_runs : ordered chainC 0 = true ∧ handleObj (stC .stopped) 0 1 = .child 1 ∧ (Tab.find (stC .stopped).ctxs 1).isSome = true ∧
    ((stC .stopped).ctxAt 1).st = .stopped ∧ ((stC .running).ctxAt 1).st = .running := ⟨rfl, rfl, by decide, rfl, rfl⟩

/-- What a deletion leaves of the state: the deleting chain goes on at its word. -/
def stDel : State := (deleteAll 0 (deepestFirst (stC .stopped) 1) (stC .stopped)).getD (stC .stopped)
theorem wit_contextCommands_delete : deleteAll ((stC .stopped).coreAt (stC .stopped).selCore).lclk (deepestFirst (stC .stopped) 1) (stC .stopped) = some stDel ∧
    stDel.sel = (stC .stopped).sel ∧ Issues stDel chainC := by
  have h : (deleteAll 0 (deepestFirst (stC .stopped) 1) (stC .stopped)).isSome = true := by decide +kernel
  obtain ⟨u, hu⟩ := Option.isSome_iff_exists.1 h
  have hd : stDel = u := by unfold stDel; rw [hu]; rfl
  have hc : stDel.chain? stDel.sel.chain = some chainC := by decide +kernel
  exact ⟨by rw [hd]; exact hu, by decide +kernel, issues_of hc (by decide +kernel) (by decide +kernel)⟩

/-- R437, R413: CXRUN, and CXRUN.stop. -/
theorem test_cxrun : (after (.cxrun hd (q4 1)) (stC .stopped)).map (fun t => (t.ctxAt 1).st) = some .running ∧
    (after (.cxstop hd (q4 1)) (stC .running)).map (fun t => (t.ctxAt 1).st) = some .stopping := by decide +kernel

/-- R439, R442: the granted handle is the child's handle 5, and the budget its surveys. -/
theorem test_cxgrant : (after (.cxgrantHandle hd (q4 1 0 26)) (stC .stopped)).map (fun t => handleObj t 1 5) = some (.queue 8) ∧
    (after (.cxgrantPort hd (q4 1 0 24)) (stC .stopped)).map (fun t => (t.ctxAt 1).port) = some 0x00010040 := by decide +kernel

def ringPtr : Ptr := { glPtr with fmt := 0, scope := 3, len := 64 }
def chainG : Chain := { chainC with k := [(6, ringPtr.toBits), (7, { ringPtr with fmt := 5 }.toBits)], s := [(20, 3), (21, 9)] }
def ringRec (r : Option Nat) : Rec := { ctx := 1, part := 0, chain := 4, seq := 3, cause := 0x20, tpc := 8, tval := 0, lanes := 1, detail := 0, log := false, token := some 3, loc := .ring 0 0, routed := r }
def stCR (r : Option Nat) (busy : List (Nat × Nat)) : State :=
  { stC .running with
    chains := [(0, chainG)], recs := [(1, ringRec r)]
    ctxs := [(0, { (stC .running).ctxAt 0 with ring := some { ptr := ringPtr.toBits, n := 2, next := 0, busy, queue := 8 } }), (1, child1 .running)] }

theorem issCR (r : Option Nat) (b : List (Nat × Nat)) : Issues (stCR r b) chainG := issues_of rfl rfl (show (1 : Mask) &&& ~~~3 = 0 by decide)

theorem wit_contextCommands_ring : handleObj (stCR none []) 0 2 = .queue 7 ∧ (queueAt (stCR none []) 7).launch = true ∧ handleObj (stCR none []) 0 3 = .queue 8 ∧
    (queueAt (stCR none []) 8).launch = false ∧ (queueAt (stCR none []) 8).scope = 3 ∧ (ptrPB (stCR none []) chainG (q4 3 7)).fmt ≠ 0 ∧
    (let p := ptrPB (stCR none []) chainG (q4 3 6)
     operandCheck (stCR none []) 6 p (faultIf (!(ringOk p)) 0x7E 6) true p.base p.len true = none ∧ ordered chainG p.scope = true) ∧
    ((stCR none [(0, 3)]).ctxAt 0).ring.any (fun g => !g.busy.isEmpty) = true ∧ ((stCR none []).ctxAt 0).ring.all (fun g => g.busy.isEmpty) = true := by
  decide

theorem wit_contextCommands_trflt : (findToken (stCR none []) 0 9 (inRing 0)).isNone = true ∧ (findToken (stCR none []) 0 3 (inRing 0)).map (·.2.routed) = some none ∧
    findToken (stCR (some 0) []) 0 (sWord (stCR (some 0) []) chainG (q4 0 0 20) 0) (inRing 0) = some (1, ringRec (some 0)) := by decide

def stays (p : CxRow) (s : State) (f : F4) : Bool :=
  match p.act s chainC f 1 with
  | some (u, _, _) => decide (u.sel = s.sel) && decide (u.chain? 0 = some chainC)
  | none => false

theorem issues_stays {p : CxRow} {s : State} {f : F4} (hs : s.sel = (stC .running).sel) (h : stays p s f = true) :
    ∃ u n ws, p.act s chainC f 1 = some (u, n, ws) ∧ u.sel = s.sel ∧ Issues u chainC := by
  unfold stays at h
  split at h
  · rename_i u n ws e
    simp only [Bool.and_eq_true, decide_eq_true_eq] at h
    exact ⟨u, n, ws, e, h.1, issues_of (by rw [h.1, hs]; exact h.2) (by rw [h.1, hs]; rfl) (by rw [h.1, hs]; decide)⟩
  · simp at h

theorem wit_sweeping_rows : sweepTable.length = sweepFields.length ∧ ((sweepTable.zip sweepFields).take 5).all (fun x =>
    performs x.1 x.2.1 x.2.2 && stays x.1 x.2.1 x.2.2) = true := by decide +kernel

theorem sweeping_later (s u : State) (c : Chain) (f : F4) (n k : Nat) : (sweeping s u c f n k false).isSome = true := by
  simp [sweeping, sweepWord]

/-- MIGMOV of the child's frame 0 to the parent's frame 1: its checks pass, and what it holds is written back. -/
theorem wit_sweeping_migmov : sweepTable[5]?.map (fun p => firstFault (p.checks (stC .running) chainC (q4 1 2 30) 1)) = some none ∧
    (sweepTwo (stC .running) 1 [0]).isSome = true := by decide +kernel

/-- R439: the child's frame 0 is mapped anew, and the sweep's number is 1. -/
theorem test_frmap : (after (.frmap hd (q4 1 2 20)) (stC .running)).map (fun t => (Cells.get 0 (t.ctxAt 1).frames 0, t.selChain.readS 22 1000)) =
    some (0x8000000000000000, 1) := by decide +kernel

theorem wit_contextMemory_rows : cxMemTable.length = cxMemFields.length ∧ (cxMemTable.zip cxMemFields).all (fun x => performs x.1 x.2.1 x.2.2) = true := by
  decide +kernel

theorem wit_contextMemory_reads : cxReadTable.length = cxReadFields.length ∧ (cxReadTable.zip cxReadFields).all (fun x => performs x.1 x.2.1 x.2.2) = true := by
  decide +kernel

/-- R441: the state of a running child at depth 1. -/
theorem test_cxstat : (after (.cxstatState hd (q4 1 0 20)) (stC .running)).map (fun t => t.selChain.readS 20 1000) = some (2 ^ 30 + 2 ^ 26 + 1) := by decide +kernel

/-- A record at k5 of a kernel of the common half, for a child with surveys left. -/
def stCL : State :=
  { stC .running with
    ctxs := [(0, { (stC .running).ctxAt 0 with reg := [(0, { gen := 0, kern := some { kern0 with base := 2 ^ 56, image := 2 ^ 56 }, gone := false })] }),
             (1, { child1 .running with surv := 4, parc := 4, common := true })]
    cores := [(0, { cc := 100, seq := 40, l1 := lineOf rec1 })] }

theorem wit_contextMemory_launch :
    (let p := ptrPB stCL chainC (q4 1 5 20)
     let q := startQueue stCL 1
     (operandCheck stCL 5 p (if p.space ≠ 0 ∨ p.base % 64 ≠ 0 then some (0x72, 5) else none) false p.base 0 true).isNone &&
      decide ((stCL.ctxAt 1).st ≠ .stopping) && (survStop stCL 1).isNone && ordered chainC (min 2 p.scope) && decide ((queueAt q.2 q.1).surveys.length < (queueAt q.2 q.1).cap) &&
      decide (accepts (submit q.2 { kctx := 0, ctx := 1, obj := q.1, lim := some p.len, clk := 0, rel := 0, cx := true }
        (fun v a n => rdBytes v 0 0 0 p (p.base + a) n)) = some (some 1))) = true := by decide +kernel

/-! ## Events of chains, parcels and contexts -/

/-- Chain 0 waits, chain 1 is pending and may issue; both on core 0 at cycle 1000. -/
def stP (c d : Chain) : State := { st with chains := [(0, c), (1, d)], cores := [(0, { cc := 1000, seq := 40 })] }
def pend0 : Chain := { chain0 with active := false }

theorem wit_chainEvents_exchange : ∀ p ∈ exchangeTable, (let s := stP { chain0 with waiting := true } pend0
    decide (oldest (p.2.1 s 0) = some 0) && decide (longest (p.2.2 s 0) = some 1)) = true := by decide

/-- R37: the pending chain becomes active. -/
theorem test_exchange : (after (.chainSetExchange 0) (stP { chain0 with waiting := true } pend0)).map (fun t => t.chains.map (·.2.active)) = some [false, true] := by
  decide

/-- The one message of a state, and that state once it is taken. -/
def msgOf (b : Body) : Msg := { id := 5, cls := 0, line := 0, src := 0, dst := 0, ep := false, body := b }
def stMsg (s : State) (b : Body) : State := { s with msgs := [msgOf b] }
def stGot (s : State) (b : Body) : State := received (stMsg s b) (msgOf b)

theorem due (s : State) (b : Body) (h : (0, 0, 0) ∉ s.fencedPairs) : MsgDue (stMsg s b) (stGot s b) 5 (msgOf b) where
  sent := ⟨List.mem_singleton.2 rfl, rfl, fun y hy _ => List.mem_singleton.1 hy⟩
  first := fun y hy hlt => by rw [List.mem_singleton.1 hy] at hlt; exact absurd hlt (Nat.lt_irrefl _)
  ports := rfl
  joined := h
  rest := rfl

/-- Chain 0 polls a word with a synchronising load at die scope. -/
def spinUnit : LUnit := { lane := 0, cells := [.g 8 0], fmt := 5, dw := false, va := 2 ^ 30, size := 4, sub := 0, data := 0, keys := [] }
def spin0 : SpinLoad :=
  { key := keyFor st 0 (2 ^ 30), since := 10, acc := { ctx := 0, core := 0, share := 2, scope := 2 }, pc := 8, lanes := 1, units := [spinUnit], seq := 39 }
def parkS : Chain := { chain0 with spinPark := some spin0 }
def stLate : State := { stP parkS pend0 with cores := [(0, { cc := 5000, seq := 40 })] }

theorem polls (s : State) (h : (s.coreAt 0).side = [] ∧ (s.coreAt 0).l1 = [] ∧ (s.clusterAt 0).epoch = (s.coreAt 0).epoch)
    (hk : spin0.key = keyFor s 0 (2 ^ 30)) : Polls s 0 parkS spin0 spinUnit where
  load := by decide
  sector := ⟨hk, by decide, by decide⟩
  alone := ⟨rfl, rfl, nofun, h.1⟩
  misses := fun y hy => by
    rw [show l1Find s (coreOf 0) spin0.key = Tab.find (s.coreAt 0).l1 spin0.key from rfl, h.2.1] at hy; cases hy
  epoch := h.2.2

theorem wit_chainEvents_spin : (stMsg (stP parkS pend0) (.spinWake 0 spin0.key)).chain? 0 = some parkS ∧
    MsgDue (stMsg (stP parkS pend0) (.spinWake 0 spin0.key)) (stGot (stP parkS pend0) (.spinWake 0 spin0.key)) 5 (msgOf (.spinWake 0 spin0.key)) ∧
    Polls (stGot (stP parkS pend0) (.spinWake 0 spin0.key)) 0 parkS spin0 spinUnit ∧
    spin0.since + 4096 ≤ (stLate.coreAt 0).cc ∧ Polls stLate 0 parkS spin0 spinUnit ∧ ((stP parkS pend0).coreAt 0).cc < spin0.since + 4096 ∧
    (∀ c p, (stP parkS pend0).chain? 0 = some c → c.spinPark = some p → p.key ≠ 77) :=
  ⟨rfl, due _ _ (by decide), polls _ (by decide) (by decide), by decide, polls _ (by decide) (by decide), by decide,
    fun c p hc hp => by cases (show some parkS = some c from hc); cases (show some spin0 = some p from hp); decide⟩

/-- R39: the wake issues the load again, as a read that renews. -/
theorem test_spin : (after (.spinParkWake 5) (stMsg (stP parkS pend0) (.spinWake 0 spin0.key))).map (fun t =>
    ((t.chain? 0).map (fun c => (c.spinPark, c.renew == some spin0.key, c.outs.length)), t.msgs.length)) = some (some (none, true, 1), 1) := by decide

/-- All live lanes wait at a JOIN. -/
def joinC : Chain := { chain0 with frontier := [], parked := [{ lanes := 3, why := .join, pc := 8, prio := 128 }] }

theorem not_stands {c : Chain} (h : c.frontier = []) (l x : Nat) : ¬ Stands c l x := by rintro ⟨e, he, _⟩; rw [h] at he; simp at he

theorem wit_chainEvents_join : (stP joinC pend0).chain? 0 = some joinC ∧ lowerLane joinC 0 8 = false ∧ joinC.pair = none ∧ joinC.latch = [] ∧
    (∀ l x, ¬ Stands joinC l x) := ⟨rfl, by decide, rfl, rfl, fun l x => not_stands rfl l x⟩

theorem test_join : (after (.joinRelease 0 0) (stP joinC pend0)).map (fun t => (t.chain? 0).map (fun c => c.frontier.map (fun e => (e.pc, e.lanes)))) =
    some (some [(16, 3)]) := by decide

def endC : Chain := { chain0 with frontier := [], live := 0 }
def pairC (p : Nat) : Chain := { chain0 with pair := some p, held := some (9, 100) }
def stPair (cc : Nat) : State := { stP (pairC 8) pend0 with chains := [(0, pairC 8), (8, { pairC 0 with shadow := true, held := none })], cores := [(0, { cc, seq := 40 })] }

theorem wit_chainEvents_ends : (stP endC pend0).chain? 0 = some endC ∧ endC.live = 0 ∧ endC.shadow = false ∧ endC.pair = none ∧ endC.outs = [] ∧ endC.pend = [] ∧
    endC.writes = [] ∧ (pairC 8).held = some (9, 100) ∧ (pairC 8).pair = some 8 ∧ coreOf 8 = 0 ∧ (∀ e ∈ (stPair 100).recs, e.2.seq ≠ ((stPair 100).coreAt 0).seq) ∧
    (pairC 8).live ≠ 0 ∧ ((stPair 200).coreAt 0).cc < 100 + 65536 ∧ 100 + 65536 ≤ ((stPair 70000).coreAt 0).cc := by decide

theorem test_chain_ends : (after (.chainEnd 0 0) (stP endC pend0)).map (fun t => t.chains.length) = some 1 ∧
    (after (.redundantPairTimeout 0 0) (stPair 70000)).map (fun t => t.chains.map (fun e => e.2.cause.toNat % 256)) = some [0x1C, 0x1C] := by decide +kernel

/-! ### Parcels -/

/-- A survey of two parcels at the head of queue 7. -/
def survey1 : Survey := { survey0 with dep := 0, gx := 2, kern := { kern0 with team := 1, parcel := 1 } }
def stPl : State :=
  { stD rec1 [surveyKey 0 1] with chains := [], surveys := [(surveyKey 0 1, survey1)], ctxs := [(0, { ctxD with st := .running, plat := [{ site := 0, cores := [0] }] })] }
def parcel0 : Parcel := { sid := surveyKey 0 1, pid := 0, cluster := 0, teams := [(0, [0])] }

theorem wit_parcels_placement : Tab.find stPl.surveys (surveyKey 0 1) = some survey1 ∧
    ((rankedHeads stPl 0).findSome? (fun e => (fitOf { stPl with tick := stPl.tick + (headsOf stPl 0).length } e.2.2).map (fun y => (e.2, y)))).map (fun z => (z.1.1, z.2.cores)) =
      some (surveyKey 0 1, [0]) ∧ peerEpoch stPl 0 = true := by decide +kernel

/-- R396, R398: its first parcel stands on core 0, and one parcel is left. -/
theorem test_placement : (after (.parcelPlacement 0) stPl).map (fun t => (t.parcels.map (fun p => (p.pid, p.teams)), (Tab.find t.surveys 1).map (·.next))) =
    some ([(0, [(0, [0])])], some 1) := by decide +kernel

def stPro (b : List (List Nat)) : State := { stPl with parcels := [{ parcel0 with bind := b }] }

theorem wit_parcels_prologue : (stPro [[]]).parcels.find? (fun q => decide (q.sid = 1) && decide (q.pid = 0) && !q.started) = some { parcel0 with bind := [[]] } ∧
    prologueOf parcel0 = [] ∧ (∃ u i r k, runPrologue (prologueOf { parcel0 with bind := [[]] }) (stPro [[]]) 0 = .fail u i r k) ∧
    Tab.find (stPro []).surveys 1 = some survey1 := by
  refine ⟨by decide, by decide, ?_, by decide⟩
  have h : (match runPrologue (prologueOf { parcel0 with bind := [[]] }) (stPro [[]]) 0 with
    | .fail _ _ _ _ => true
    | _ => false) = true := by decide +kernel
  split at h
  · exact ⟨_, _, _, _, by assumption⟩
  · simp at h

/-! ### A home with one sector: that of key 2^24, at die 0 -/

def hkey : Nat := keyFor stM 0 (2 ^ 30)
def sec0 : HomeSec := { st := .L, data := 77, wts := 5, rts := 9 }
def stHm (h : HomeSec) (mark : PMark) : State :=
  { stD rec1 [] with cores := [(0, { cc := 100, seq := 40, lclk := 7 })], slices := [(0, { secs := [(hkey, h)], marks := [(pageOfKey hkey, mark)] })] }

/-- The same with every island up, so that the host's ports are there (R466). -/
def upAll : Cells Island := (List.range 16).map (fun i => (i, { up := true }))
def stUp (h : HomeSec) (mark : PMark) : State := { stHm h mark with islands := upAll }

def survD (n : Nat) : Survey := { survey1 with done := n, ended := 2 }
def stDn (n : Nat) : State := { stHm sec0 .shared with surveys := [(1, survD n), (2, survey1)] }

def okNat (x : EngRes Nat) : Bool :=
  match x with
  | .ok _ _ => true
  | _ => false

theorem okNat_some {x : EngRes Nat} (h : okNat x = true) : ∃ u n, x = .ok u n := by
  cases x with
  | ok u n => exact ⟨u, n, rfl⟩
  | fault => simp [okNat] at h
  | wait => simp [okNat] at h

theorem wit_parcels_completion : survey1.ended < survey1.gx * survey1.gy * survey1.gz ∧ surveyCmds (stDn 0) 0 1 = [] ∧ surveySide (stDn 0) 0 1 = false ∧
    (survD 0).gx * (survD 0).gy * (survD 0).gz ≤ (survD 0).ended ∧ (∃ u x, portPut (stDn (2 ^ 30)) 0 (2 ^ 30) 8 (2 ^ 63 + 2 * 2 ^ 32 + 1) 1 = .ok u x) :=
  ⟨by decide, by decide, by decide, by decide, okNat_some (by decide +kernel)⟩

/-- R400: the completion word of survey 1 stands at its address, at the home. -/
theorem test_completion : (after (.surveyCompletion 1) (stDn (2 ^ 30))).map (fun t => ((homeFind t 0 hkey).map (fun h => sectorBytes h.data 0 8), t.surveys.length)) =
    some (some (2 ^ 63 + 2 * 2 ^ 32 + 1), 1) := by decide +kernel

/-! ### Queue operations at their home -/

def qop (kind n : Nat) (vals : List W32) (nb : Option Nat) : Body := .queueOp 0 0 39 8 128 7 kind n vals [.s 20] 1 nb 2 []
def stQo (kind n : Nat) (data : List (W32 × Nat)) (nb : Option Nat) : State :=
  stMsg { stHm sec0 .shared with queues := [(7, { queue0 with cfg := 0xF0010002, data })], ctxs := [(0, { ctx0 with handles := [(2, { obj := .queue 7 })] })] } (qop kind n [9] nb)

theorem wit_queueOps_due : MsgDue (stQo 0 1 [] none) (received (stQo 0 1 [] none) (msgOf (qop 0 1 [9] none))) 5 (msgOf (qop 0 1 [9] none)) ∧
    (received (stQo 0 1 [] none) (msgOf (qop 0 1 [9] none))).chain? 0 = (stQo 0 1 [] none).chain? 0 ∧ ((stQo 0 1 [] none).chain? 0).isSome = true ∧
    (∀ c, (stQo 0 1 [] none).chain? 0 = some c → c.writes = [] ∧ c.outs = [] ∧ c.pair = none ∧ c.latch = []) ∧
    queueAt (received (stQo 0 1 [] none) (msgOf (qop 0 1 [9] none))) 7 = queueAt (stQo 0 1 [] none) 7 ∧
    ((received (stQo 0 1 [] none) (msgOf (qop 0 1 [9] none))).coreAt 0).epoch = (received (stQo 0 1 [] none) (msgOf (qop 0 1 [9] none))).rebase.epoch :=
  ⟨due _ _ (by decide), by decide, by decide, fun c hc => by cases hc; decide, by decide, by decide⟩

theorem wit_queueOps : (queueAt (stQo 0 1 [] none) 7).parked = [] ∧ peerEpoch (stQo 0 1 [] none) 0 = true ∧ writesOpen (stQo 0 1 [] none) 0 [] = false ∧
    loadsOpen (Tab.get {} (stQo 0 1 [] none).chains 0) 39 = false ∧ (queueAt (stQo 0 1 [] none) 7).launch = false ∧ 1 ≤ (queueAt (stQo 0 1 [] none) 7).cap ∧
    (queueAt (stQo 0 1 [] none) 7).fits 0 1 = true ∧ (queueAt (stQo 0 1 [] none) 7).fits 1 1 = false := by decide

/-- R393, R135: the entry carries the clock of its core; a receive of an empty queue waits there. -/
theorem test_queue_ops : (after (.queueOpAtHome 5) (stQo 0 1 [] none)).map (fun t => (queueAt t 7).data) = some [(9, 7)] ∧
    (after (.queueOpAtHome 5) (stQo 1 1 [] none)).map (fun t => (queueAt t 7).parked.length) = some 1 := by decide +kernel

/-! ### Records, pre-emption and slices -/

def rec0 : Rec := { ctx := 0, part := 0, chain := 0, seq := 3, cause := 0x20, tpc := 8, tval := 0, lanes := 1, detail := 0, log := false }
def stRc (on : Bool) : State :=
  { stHm sec0 .shared with
    recs := [(1, rec0)], fns := [(3, { part := some 0, mboxbase := 4096 })]
    ctxs := [(0, { ctxD with ring := if on then some { ptr := ringPtr.toBits, n := 2, next := 0, busy := [], queue := 8 } else none })] }

theorem wit_records : Tab.find (stRc false).recs 1 = some rec0 ∧ rec0.loc = .engine ∧ routeOf (stRc false) rec0 = none ∧ mailFn (stRc false) 0 = some 3 ∧
    ((Tab.get {} (stRc false).fns 3).mboxtail + 1) % 64 ≠ (Tab.get {} (stRc false).fns 3).mboxhead % 64 ∧ routeOf (stRc true) rec0 = some 0 ∧
    ((((stRc true).ctxAt 0).ring.bind (deliverRing (stRc true) 1 rec0 0)).isSome = true) ∧
    (deliverRing (stRc false) 1 rec0 0 { ptr := ringPtr.toBits, n := 2, next := 0, busy := [(0, 4)], queue := 8 }).isNone = true := by decide +kernel

/-- R429, R456: the mailbox's first slot, and the context's ring. -/
theorem test_records : (after (.trapRecordDelivery 1) (stRc false)).map (fun t => ((Tab.get {} t.fns 3).mboxtail, (Tab.get {} t.fns 3).msix)) = some (1, [0]) ∧
    (after (.trapRecordDelivery 1) (stRc true)).map (fun t => (((t.ctxAt 0).ring.map (·.busy)), (queueAt t 8).data.map (·.1))) = some (some [(0, 1)], [0]) := by
  decide +kernel

def stOut : State := { st with ctxs := [(0, { ctx0 with st := .running, out := true })], chains := [(0, { chain0 with writes := [], outs := [] })] }

theorem wit_preemption : (stOut.ctxAt 0).out = true ∧ (Tab.find stOut.saved 0).isNone = true ∧ (coresUsed stOut 0).all (fun k => canStop stOut 0 k) = true ∧
    ((subtree { stOut with saved := [(0, [])] } 0).filter (fun c => (({ stOut with saved := [(0, [])] } : State).ctxAt c).out)).all (fun c =>
      (Tab.find ({ stOut with saved := [(0, [])] } : State).saved c).isSome) = true := by decide

/-- What a stop has saved, its context to come back. -/
def stBack : State :=
  match after (.preemptStop 0) stOut with
  | some t => { t with ctxs := [(0, { ctx0 with st := .running })] }
  | none => stOut

theorem wit_restore : (Tab.find stBack.saved 0).isSome = true ∧ (stBack.ctxAt 0).out = false ∧ (stBack.ctxAt 0).st = .running ∧ (pathUp stBack 0).drop 1 = [] ∧
    ((targets stBack 0 (byCluster (savedOf stBack 0)) []).map (fun m => islandsAllow stBack m && (restoreCtx stBack 0 m).isSome)) = some true := by
  decide +kernel

/-- R187: the context's chain leaves its core, and comes back as it was. -/
theorem test_restore : stBack.chains.length = 0 ∧ (after (.contextRestore 0) stBack).map (fun t => t.chains.map (fun e => (e.1, e.2.frontier.map (fun x => x.pc)))) =
    some [(0, [8])] := by decide +kernel

def stSl : State := { st with ctxs := [(0, { ctx0 with st := .running }), (1, { ctx0 with st := .running, depth := 1, out := true }), (2, { ctx0 with st := .running, depth := 1 })] }

theorem wit_slices : (Tab.find stSl.ctxs 2).isSome = true ∧ (Tab.find stSl.ctxs 1).isSome = true ∧ (stSl.ctxAt 2).st = .running ∧ holdsCores stSl 2 = true ∧
    nextSlice stSl 2 = some 1 ∧ holdsCores stSl 1 = false := by decide

/-! ## Events of the memory system -/

def freeB (u : State) (ctx key : Nat) (wr full : Bool) (me : Option Nat) (p : State → State → HomeSec → Bool) : Bool :=
  match homeGet u ctx key wr false full with
  | .ok s1 (.home h) => !busySec h && decide (h.st ≠ .Z) && (!wr || !h.host) && (foreignOwner s1 (homeOfKey u key) key me).isNone &&
      (let s2 := (pageClass s1 (homeOfKey u key) key me).1
       let h2 := (homeFind s2 (homeOfKey u key) key).getD h
       h2.own.isNone && p s1 s2 h2)
  | _ => false

theorem free_of {u : State} {ctx key : Nat} {wr full : Bool} {me : Option Nat} {p : State → State → HomeSec → Bool} (hb : freeB u ctx key wr full me p = true) :
    ∃ s1 s2 h2, HomeFree u s1 s2 ctx key wr full me h2 ∧ p s1 s2 h2 = true := by
  unfold freeB at hb
  split at hb
  · rename_i s1 h e
    simp only [Bool.and_eq_true, Bool.not_eq_true', decide_eq_true_eq, Option.isNone_iff_eq_none, Bool.or_eq_true] at hb
    obtain ⟨⟨⟨⟨h1, h2⟩, h3⟩, h4⟩, h5, h6⟩ := hb
    refine ⟨s1, _, _, ⟨⟨h, e, h1, h2, ?_, rfl⟩, ⟨h4, rfl⟩, h5⟩, h6⟩
    intro hw; subst hw; simpa using h3
  · simp at hb

def acc0 : Acc := { ctx := 0, core := 0, share := 0, scope := 2 }
def stRq (b : Body) (h : HomeSec := sec0) (m : PMark := .shared) : State := stMsg (stHm h m) b
def took (b : Body) (h : HomeSec := sec0) (m : PMark := .shared) : State := stGot (stHm h m) b

theorem dueAt (s : State) (b : Body) (h : s.msgs = [msgOf b]) (hf : (0, 0, 0) ∉ s.fencedPairs) : MsgDue s (received s (msgOf b)) 5 (msgOf b) where
  sent := ⟨by rw [h]; exact List.mem_singleton.2 rfl, rfl, fun y hy _ => by rw [h] at hy; exact List.mem_singleton.1 hy⟩
  first := fun y hy hlt => by rw [h] at hy; rw [List.mem_singleton.1 hy] at hlt; exact absurd hlt (Nat.lt_irrefl _)
  ports := rfl
  joined := hf
  rest := rfl

/-- Nothing of chain 0 holds a write of its instruction 39 back. -/
theorem unheld {u : State} {c : Chain} (h : u.chain? 0 = some c) (hw : c.writes = []) (ho : c.outs = []) : Unheld u 0 39 hkey [] :=
  ⟨c, h, by rw [hw]; nofun, by rw [ho]; nofun⟩

def isHome (u : State) (x : SSt) (h : HomeSec) : Bool :=
  decide (homeFind u (homeOfKey u hkey) hkey = some h) && decide (vaOfKey hkey < 2 ^ 56) && decide (h.st = x) && h.queue.isEmpty && h.own.isNone && h.cmp.isNone &&
    !h.host && decide (pageMark u (homeOfKey u hkey) (pageOfKey hkey) = some .shared) && (u.sliceAt (homeOfKey u hkey)).lru.isEmpty

theorem atHome_of {u : State} {x : SSt} {h : HomeSec} (hb : isHome u x h = true) : AtHome u 0 hkey x h := by
  simp only [isHome, Bool.and_eq_true, decide_eq_true_eq, Bool.not_eq_true', List.isEmpty_iff, Option.isNone_iff_eq_none] at hb
  obtain ⟨⟨⟨⟨⟨⟨⟨⟨h1, h2⟩, h3⟩, h4⟩, h5⟩, h6⟩, h7⟩, h8⟩, h9⟩ := hb
  exact ⟨⟨by decide, h1⟩, .inl h2, ⟨h3, h4, h5, h6, h7⟩, h8, by rw [h9]; exact Nat.zero_lt_succ _⟩

def readB : Body := .read acc0 0 39 8 hkey 7 16
def storeB : Body := .store { acc0 with nt := true } 0 39 8 hkey 3 0xFF 1 [] 7 []
def atomB (red : Bool) (tk : Option Nat) : Body := .atom acc0 0 39 8 (2 ^ 30) 3 0 [] { op := 0, fmt := 5, dw := false, x := 4, cmp := 0 } [.s 20] red 7 [] tk

theorem wit_homeRequests_reads : MsgDue (stRq readB) (took readB) 5 (msgOf readB) ∧ AtHome (took readB) 0 hkey .L sec0 ∧
    (msgOf readB).ep = ((took readB).sliceAt (homeOfKey (took readB) hkey)).epoch ∧ max 7 sec0.wts + 16 ≤ stampMax ∧
    clkFor (took readB) false ((took readB).sliceAt (homeOfKey (took readB) hkey)).epoch 7 = some 7 ∧
    (∃ s1 s2 h2, HomeFree (took readB) s1 s2 0 hkey false false (some 0) h2 ∧ decide (pageMark s2 0 (pageOfKey hkey) ≠ some (.priv 0)) = true) ∧
    (∃ s1 s2 h2, HomeFree (took readB sec0 (.priv 0)) s1 s2 0 hkey false false (some 0) h2 ∧
      (decide (pageMark s2 0 (pageOfKey hkey) = some (.priv 0)) && (l1Find s2 0 hkey).isNone) = true) :=
  ⟨due _ _ (by decide), atHome_of (by decide +kernel), by decide, by decide, by decide, free_of (by decide +kernel), free_of (by decide +kernel)⟩

/-- R125: the home's rts is the reader's clock and lease. -/
theorem test_home_read : (after (.homeRead 5) (stRq readB)).map (fun t => ((homeFind t 0 hkey).map (·.rts), t.msgs.length)) = some (some 23, 1) := by decide +kernel

theorem wit_homeRequests_writes : heldBack (took storeB) 0 39 hkey [] = false ∧ clkFor (took storeB) false ((took storeB).sliceAt (homeOfKey (took storeB) hkey)).epoch 7 = some 7 ∧
    (∃ s1 s2 h2, HomeFree (took storeB) s1 s2 0 hkey true (decide ((1 : BitVec 64) = BitVec.allOnes 64)) (some 0) h2 ∧
      (decide (pageMark s2 0 (pageOfKey hkey) ≠ some (.priv 0)) && decide (max 7 ((expandHome s2 0 0 hkey h2).2.rts + 1) ≤ stampMax)) = true) :=
  ⟨by decide, by decide, free_of (by decide +kernel)⟩

def lateB : Body := .late { acc0 with share := 2 } 0 39 8 hkey 3 0xFF 1 [] []
def lateLocalB : Body := .lateLocal 0 0 0 39 1 3 [(512, 4, 9)] []

/-- A store, and synchronising stores that waited below the home or at a core's own memory. -/
theorem wit_homeRequests_stores : MsgDue (stRq storeB) (took storeB) 5 (msgOf storeB) ∧ Unheld (took storeB) 0 39 hkey [] ∧ AtHome (took storeB) 0 hkey .L sec0 ∧
    ((took storeB).coreAt 0).epoch = ((took storeB).sliceAt (homeOfKey (took storeB) hkey)).epoch ∧
    (msgOf storeB).ep = ((took storeB).sliceAt (homeOfKey (took storeB) hkey)).epoch ∧ max 7 (sec0.rts + 1) ≤ stampMax ∧
    Unheld (took lateB) 0 39 hkey [] ∧ (l1Find (took lateB) 0 hkey).isNone = true ∧ MsgDue (stRq lateLocalB) (took lateLocalB) 5 (msgOf lateLocalB) ∧
    ((took lateLocalB).chain? 0).any (fun c => c.outs.isEmpty && c.writes.isEmpty) = true :=
  ⟨due _ _ (by decide), unheld rfl rfl rfl, atHome_of (by decide +kernel), by decide, by decide, by decide, unheld rfl rfl rfl, by decide, due _ _ (by decide), by decide⟩

/-- R135, R124: a synchronising store that waited goes to the home with the clock it finds then. -/
theorem test_late : (after (.homeWriteLease 5) (stRq lateB)).map (fun t => t.msgs.map (fun m => match m.body with
    | .store _ _ _ _ _ _ _ _ _ clk _ => clk
    | _ => 0)) = some [7] := by decide +kernel

/-- R126: the byte is written above both its clock and rts. -/
theorem test_home_write : (after (.homeWriteLease 5) (stRq storeB)).map (fun t => (homeFind t 0 hkey).map (fun h => (h.data.toNat, h.wts, h.rts))) = some (some (0xFF, 10, 10)) := by
  decide +kernel

def perf (x : Res Performed) : Bool :=
  match x with
  | .ok _ _ => true
  | _ => false

theorem wit_homeRequests_atomics : atomKey (took (atomB true none)) acc0 (2 ^ 30) = hkey ∧ heldBack (took (atomB true none)) 0 39 hkey [] = false ∧
    ((took (atomB false (some 0))).sliceAt (homeOfKey (took (atomB false (some 0))) hkey)).nextTicket = 0 ∧
    clkFor (took (atomB true none)) false ((took (atomB true none)).sliceAt (homeOfKey (took (atomB true none)) hkey)).epoch 7 = some 7 ∧
    (∃ s1 s2 h2, HomeFree (took (atomB true none)) s1 s2 0 hkey true false none h2 ∧
      perf (atomSector s2 0 0 hkey (2 ^ 30) { op := 0, fmt := 5, dw := false, x := 4, cmp := 0 } 7 h2) = true) :=
  ⟨by decide, by decide, by decide, by decide, free_of (by decide +kernel)⟩

/-- An atomic at its home, and one whose ticket the designated module of the pod gives. -/
theorem wit_homeRequests_plain : hkey = keyFor (took (atomB false none)) 0 (2 ^ 30) ∧ Unheld (took (atomB false none)) 0 39 hkey [] ∧
    AtHome (took (atomB false none)) 0 hkey .L sec0 ∧ MsgDue (stRq (.ticket 0 (atomB false none))) (took (.ticket 0 (atomB false none))) 5 (msgOf (.ticket 0 (atomB false none))) ∧
    State.reset.designated = State.reset.module ∧ (({ stRq (.ticket 0 (atomB false none)) with designated := 1 } : State).designated ≠ (stRq (.ticket 0 (atomB false none))).module) :=
  ⟨by decide, unheld rfl rfl rfl, atHome_of (by decide +kernel), due _ _ (by decide), by decide, by decide⟩

/-- R139, R240: 77 + 4 at the home, and 77 on its way back; R140: tickets are handed out in order. -/
theorem test_home_atomic : (after (.atomicAtHome 5) (stRq (atomB false none))).map (fun t => ((homeFind t 0 hkey).map (fun h => h.data.toNat), t.msgs.length)) = some (some 81, 1) ∧
    (after (.meridianTicket 5) (stRq (.ticket 0 (atomB false none)))).map (fun t => (t.tickets, t.msgs.length)) = some ([(0, 1)], 1) := by decide +kernel

/-! ### Owners, pages, publication -/

def owned : Copy := { st := .O, data := 55, wts := 6, rts := 8, dirty := true, pt := 2 }
def stOw (b : Body) (own : Option Nat) : State :=
  let s := stRq b { sec0 with own, st := if own.isSome then .X else .L }
  { s with cores := [(0, { cc := 100, seq := 40, l1 := [(hkey, owned)] })] }

def gotOw (b : Body) (own : Option Nat) : State := received (stOw b own) (msgOf b)

theorem wit_ownerMessages_forward : MsgDue (stOw (.forward hkey 0) (some 0)) (gotOw (.forward hkey 0) (some 0)) 5 (msgOf (.forward hkey 0)) ∧
    l1Find (gotOw (.forward hkey 0) (some 0)) 0 hkey = some owned ∧ owned.st = .O ∧ owned.pt = 2 ∧ owned.umask = 0 ∧
    (l1Find (took (.forward hkey 0)) 0 hkey).isNone = true := ⟨dueAt _ _ rfl (by decide), rfl, rfl, rfl, rfl, by decide⟩

/-- The same after the slice has taken part in a rebase. -/
def gotEp (b : Body) : State :=
  let s := stOw b (some 0)
  received { s with slices := s.slices.map (fun e => (e.1, { e.2 with epoch := true })), rebase := { active := true, epoch := true } } (msgOf b)

theorem wit_ownerMessages_home : ∀ p ∈ ownerTable, let b := p.2.1 hkey 0 55 6 8 true
    ((homeFind (gotOw b (some 0)) (homeOfKey (gotOw b (some 0)) hkey) hkey).map (fun h => h.queue.isEmpty)) = some true ∧
    (msgOf b).ep = ((gotOw b (some 0)).sliceAt (homeOfKey (gotOw b (some 0)) hkey)).epoch ∧
    ((homeFind (gotEp b) (homeOfKey (gotEp b) hkey) hkey).map (fun h => h.queue.isEmpty)) = some true ∧
    (msgOf b).ep ≠ ((gotEp b).sliceAt (homeOfKey (gotEp b) hkey)).epoch ∧ ((gotEp b).sliceAt (homeOfKey (gotEp b) hkey)).epoch = (gotEp b).rebase.epoch := by decide

theorem wit_ownerMessages_absorb : (absorb? (took (.absorb hkey 0 6)) hkey 0 false 6).isSome = true := by decide +kernel

/-- R132: the write-back's data and stamps stand at the home. -/
theorem test_writeback : (after (.ownerWriteBack 5) (stOw (.writeBack hkey 0 55 6 8 true) (some 0))).map (fun t =>
    (homeFind t 0 hkey).map (fun h => (h.data.toNat, h.wts, h.rts, h.own))) = some (some (55, 6, 9, none)) := by decide +kernel

theorem wit_ownerMessages_pages : pageMark (took (.pageFlush (pageOfKey hkey) 0) sec0 (.priv 0)) 0 (pageOfKey hkey) = some (.priv 0) ∧
    pageMark (took (.pageFlush (pageOfKey hkey) 0)) 0 (pageOfKey hkey) ≠ some (.priv 0) ∧
    ((took (.pageFlush (pageOfKey hkey) 0)).coreAt 0).epoch = ((took (.pageFlush (pageOfKey hkey) 0)).sliceAt 0).epoch ∧
    ((homeFind (took (.backInv hkey)) (homeOfKey (took (.backInv hkey)) hkey) hkey).map (fun h => h.queue.isEmpty)) = some true := by decide

def regionA : Region := { id := 2, ctx := 0, tag := 0, lo := 2 ^ 30, len := 64, chain := 0, pub := some ([hkey], 0, []) }
def regionB : Region := { regionA with pub := some ([], 12, [hkey]) }
def stRg (b : Body) (g : Region) (h : HomeSec) : State :=
  { stRq b h with cores := [(0, { cc := 100, seq := 40, regions := [g], l1 := [(hkey, { st := .U, data := 0, wts := 0, rts := 0, umask := 3, udata := 0x1234 })] })] }

def gotRg (b : Body) (g : Region) (h : HomeSec) : State := received (stRg b g h) (msgOf b)

/-- The last sector of a publication to freeze, and one of two. -/
theorem wit_ownerMessages_freeze_plain : ∀ g ∈ [regionA, { regionA with pub := some ([hkey, hkey + 1], 0, []) }], let u := gotRg (.freeze 0 2 hkey) g sec0
    MsgDue (stRg (.freeze 0 2 hkey) g sec0) u 5 (msgOf (.freeze 0 2 hkey)) ∧ (u.coreAt 0).regions = [g] ∧ AtHome u 0 hkey .L sec0 ∧
      (u.sliceAt (homeOfKey u hkey)).epoch = (u.coreAt 0).epoch ∧ max (u.coreAt 0).lclk (max 0 sec0.rts) + 1 ≤ stampMax := by
  simp only [List.forall_mem_cons]
  exact ⟨⟨dueAt _ _ rfl (by decide), by decide, atHome_of (by decide +kernel), by decide, by decide⟩,
    ⟨dueAt _ _ rfl (by decide), by decide, atHome_of (by decide +kernel), by decide, by decide⟩, nofun⟩

theorem wit_ownerMessages_freeze : let u := gotRg (.freeze 0 2 hkey) regionA sec0
    regionOf u 0 2 = some regionA ∧ (∃ s1 s2 h2, HomeFree u s1 s2 0 hkey true false (some 0) h2 ∧
      (match clkFor s2 (s2.sliceAt (homeOfKey u hkey)).epoch (s2.coreAt 0).epoch h2.rts with
       | some rts => (frozen (homeSet s2 (homeOfKey u hkey) hkey { h2 with st := .Z, freezes := h2.freezes + 1 }) 0 regionA hkey (some rts)).isSome
       | none => false) = true) := ⟨rfl, free_of (by decide +kernel)⟩

def publishB : Body := .publish 0 2 hkey 12 0x1234 3
theorem wit_ownerMessages_publish_plain : let u := gotRg publishB regionB { sec0 with st := .Z, freezes := 1 }
    MsgDue (stRg publishB regionB { sec0 with st := .Z, freezes := 1 }) u 5 (msgOf publishB) ∧ (u.coreAt 0).regions = [regionB] ∧
    AtHome u 0 hkey .Z { sec0 with st := .Z, freezes := 1 } ∧ (msgOf publishB).ep = (u.sliceAt (homeOfKey u hkey)).epoch :=
  ⟨dueAt _ _ rfl (by decide), by decide, atHome_of (by decide +kernel), by decide⟩

theorem wit_ownerMessages_publish : let u := gotRg publishB regionB { sec0 with st := .Z, freezes := 1 }
    regionOf u 0 2 = some regionB ∧ clkFor u false (u.sliceAt (homeOfKey u hkey)).epoch 12 = some 12 ∧ (publishAt u regionB 0 hkey 12 0x1234 3).isSome = true ∧
    regionB.pub = some ([], 12, [hkey]) := by decide +kernel

/-- R246: the published bytes stand at the home at tp, and the sector is no longer frozen. -/
theorem test_publish : (after (.publicationWrite 5) (stRg publishB regionB { sec0 with st := .Z, freezes := 1 })).map (fun t =>
    ((homeFind t 0 hkey).map (fun h => (h.data.toNat, h.wts, decide (h.st = .Z))), (t.coreAt 0).regions.length)) = some (some (0x1234, 12, false), 0) := by decide +kernel

/-! ### Answers at a core -/

def unit0 : LUnit := { lane := 32, cells := [.s 20], fmt := 5, dw := false, va := 2 ^ 30, size := 4, sub := 0, data := 0, keys := [(hkey, 0)] }
def out0 : Out := { seq := 39, cells := [.s 20], acq := false, load := true, units := [unit0], lanes := 1, pc := 8 }
def loadC : Chain := { chain0 with outs := [out0], writes := [{ id := 3, seq := 30, scope := 2, key := hkey }] }
def ansB (share : Nat) (cv : Bool) (seq : Nat) : Body := .readAns { acc0 with share, cv } 0 seq hkey 77 5 9 8 0 0
def stAn (b : Body) : State := stMsg { stHm sec0 .shared with chains := [(0, loadC)] } b

def gotAn (b : Body) : State := received (stAn b) (msgOf b)

theorem oneUnit : OneUnit loadC 39 hkey 77 out0 unit0 (.s 20) 77 := ⟨⟨rfl, rfl, rfl⟩, ⟨rfl, rfl, 0, rfl⟩, ⟨by decide +kernel, by decide⟩, trivial⟩

/-- A load's answer that fills both caches. -/
theorem wit_coreMessages_load : let b : Body := .readAns { acc0 with share := 2 } 0 39 hkey 77 5 9 8 2 0
    MsgDue (stAn b) (gotAn b) 5 (msgOf b) ∧ (msgOf b).ep = ((gotAn b).coreAt 0).epoch ∧ ((gotAn b).clusterAt (clusterOf 0)).epoch = ((gotAn b).coreAt 0).epoch ∧
    (gotAn b).chain? 0 = some loadC ∧ ((gotAn b).coreAt 0).side = [] ∧ FillRoom (gotAn b) 0 hkey 2 :=
  ⟨due _ _ (by decide), by decide, by decide, rfl, rfl, ⟨rfl, fun _ => by decide, fun _ => ⟨rfl, by decide⟩⟩⟩

theorem wit_coreMessages_answers : let u := gotAn (ansB 0 false 38)
    clkFor u false (u.coreAt 0).epoch 5 = some 5 ∧ clkFor u false (u.coreAt 0).epoch 9 = some 9 ∧ clkFor u false (u.coreAt 0).epoch 8 = some 8 ∧
    (u.clusterAt (clusterOf 0)).epoch = (u.coreAt 0).epoch ∧ (∀ o ∈ (Tab.get {} u.chains 0).outs, o.seq ≠ 38) ∧
    (∃ o ∈ (Tab.get {} u.chains 0).outs, o.seq = 39) :=
  ⟨by decide, by decide, by decide, by decide, by decide, ⟨out0, by decide, rfl⟩⟩

theorem wit_coreMessages_lands : (stAn .nothing).chain? 0 = some loadC ∧ OneUnit loadC 39 hkey 77 out0 unit0 (.s 20) 77 := ⟨rfl, oneUnit⟩

def holdO : Out := { seq := 30, cells := [], acq := true, load := false, units := [], lanes := 0, pc := 0 }
def atomO : Out := { holdO with seq := 39, cells := [.s 20], acq := false }
def holdC : Chain := { loadC with outs := [holdO] }
def atomC : Chain := { loadC with outs := [atomO] }

/-- A grant of a write that holds later accesses, or none; an atomic's old value. -/
theorem wit_coreMessages_grants : (gotAn (.grant 0 0 3 20)).chain? 0 = some loadC ∧ (∀ o ∈ loadC.outs, o.cells ≠ [] ∨ o.load = true) ∧
    (msgOf (.grant 0 0 3 20)).ep = ((gotAn (.grant 0 0 3 20)).coreAt 0).epoch ∧ (∀ o ∈ atomC.outs, o.cells ≠ [] ∨ o.load = true) ∧
    atomC.outs = [atomO] ∧ atomO.cells = [.s 20] ∧ atomC.pend = [] ∧ atomC.pair = none ∧ (∀ o ∈ atomC.outs, o.seq ≠ 38) ∧
    (∃ w o, holdC.writes = [w] ∧ w.id = 3 ∧ holdC.outs = [o] ∧ o.acq = true ∧ o.cells = [] ∧ o.load = false ∧ o.seq = w.seq) :=
  ⟨rfl, by decide, by decide, by decide, rfl, rfl, rfl, rfl, by decide, ⟨_, _, rfl, rfl, rfl, rfl, rfl, rfl, rfl⟩⟩

/-- A load of lane 0 that faults at the home. -/
def unitF : LUnit := { unit0 with lane := 0, cells := [.g 8 0] }
def faultC : Chain := { chain0 with outs := [{ out0 with cells := [.g 8 0], units := [unitF] }] }
def faultB : Body := .fault 0 0 39 8 1 0x41 0 0 (.read acc0 0 39 8 hkey 7 16)
def stFt : State := stMsg { stHm sec0 .shared with chains := [(0, faultC)] } faultB

theorem wit_coreMessages_fault : MsgDue stFt (received stFt (msgOf faultB)) 5 (msgOf faultB) ∧ (received stFt (msgOf faultB)).chain? 0 = some faultC ∧ faultC.pair = none ∧
    faultC.parked = [] ∧ (received stFt (msgOf faultB)).recs = [] ∧ faultC.outs.map (·.units) = [[unitF]] ∧ unitF.keys = [(hkey, 0)] ∧ (∃ q, Stands faultC unitF.lane q) :=
  ⟨dueAt _ _ rfl (by decide), rfl, rfl, rfl, by decide, rfl, rfl, ⟨8, _, List.mem_singleton.2 rfl, by decide⟩⟩

/-- R160, R182: its lane parks under a record. -/
theorem test_load_fault : (after (.memorySideFaultReturn 5) stFt).map (fun t => (t.recs.map (fun r => (r.2.cause.toNat % 256, r.2.tval.toNat)), (t.chain? 0).map (fun c => c.parked.length))) =
    some ([(0x41, 2 ^ 30)], some 1) := by decide +kernel

/-- R231, R126: the load's register takes the word; a synchronising answer raises LCLK from 7 to 8, and a grant to 20. -/
theorem test_answers : (after (.loadResponse 5) (stAn (ansB 2 false 39))).map (fun t => ((t.chain? 0).map (fun c => (c.readS 20 200, c.outs.length)), (t.coreAt 0).lclk)) =
      some (some (77, 0), 8) ∧
    (after (.storeWriteGrant 5) (stAn (.grant 0 0 3 20))).map (fun t => ((t.chain? 0).map (fun c => c.writes.length), (t.coreAt 0).lclk)) = some (some 0, 20) := by
  decide +kernel

def ent0 : SideEnt := { chain := 0, rid := 0, seq := 30, wid := 3, acc := acc0, va := 2 ^ 30, data := 1, mask := 1, vas := [(0, 2 ^ 30)], atom := none, pc := 8, part := 0, sid := 0 }
theorem wit_coreMessages_else : ((gotAn (.logged 0 ent0 0x12 0)).coreAt 0).side.length < 512 ∧ hkey < 2 ^ 100 ∧
    (let u := stGot { stHm sec0 .shared with chains := [(0, { chain0 with spinPark := some { spin0 with key := hkey } })] } (.spinReg 0 hkey 5 2)
     (msgOf (.spinReg 0 hkey 5 2)).ep = (u.sliceAt (homeOfKey u hkey)).epoch ∧ (homeFind u (homeOfKey u hkey) hkey).map (·.wts) = some 5 ∧
      (homeFind u (homeOfKey u hkey) hkey).map (·.wts) ≠ some 4) ∧
    hostUp (stUp sec0 .shared) = true ∧ (∃ u x, portBytes (stUp sec0 .shared) 0 (2 ^ 30) 8 0 none = .ok u x) ∧ (∃ u x, portPut (stUp sec0 .shared) 0 (2 ^ 30) 8 9 0 = .ok u x) :=
  ⟨by decide, by decide, by decide, by decide, okNat_some (by decide +kernel), okNat_some (by decide +kernel)⟩

theorem test_side_log : (after (.memorySideFaultReturn 5) (stAn (.logged 0 ent0 0x12 0))).map (fun t => ((t.coreAt 0).side.length, t.recs.map (fun r => r.2.cause.toNat % 256))) =
    some (1, [0x12]) := by decide +kernel

/-! ### Rebases -/

def stRb (clk : Nat) (act : Bool) : State :=
  { stHm sec0 .shared with cores := [(0, { cc := 100, seq := 40, lclk := clk, l1 := [(hkey, { owned with st := .L, wts := 0x400005 })] })], rebase := { active := act, epoch := act } }

theorem wit_rebase : rebaseDue (stRb 7 false) = false ∧ rebaseDue (stRb 0xC00000 true) = true ∧ rebaseDue (stRb 0xC00000 false) = true ∧
    ((stRb 7 true).coreAt 0).epoch ≠ (stRb 7 true).rebase.epoch ∧ ((stRb 7 true).clusterAt 0).epoch ≠ (stRb 7 true).rebase.epoch ∧
    ((stRb 7 true).sliceAt 0).epoch ≠ (stRb 7 true).rebase.epoch ∧
    (let s : State := { stRb 7 true with cores := [(0, { epoch := true })], clusters := [(0, { epoch := true })], slices := [(0, { epoch := true })] }
     s.cores.all (fun e => e.2.epoch == s.rebase.epoch) && s.clusters.all (fun e => e.2.epoch == s.rebase.epoch) && s.slices.all (fun e => e.2.epoch == s.rebase.epoch) &&
       s.msgs.all (fun m => m.ep == s.rebase.epoch) && !s.rebase.queued) = true := by decide

/-- R128: the core's clock and its copies' stamps fall by 0x40_0000. -/
theorem test_rebase : (after (.rebaseBroadcastReceipt 0) (stRb 0xC00000 true)).map (fun t => ((t.coreAt 0).lclk, (t.coreAt 0).l1.map (fun e => (e.2.wts, e.2.rts)))) =
    some (0x800000, [(5, 0)]) := by decide

/-! ## Events of the engines -/

/-- The state in which a command has just been taken. -/
def took1 (i : Instr) (s : State := stE) : State := (after i s).getD s

def eOk {α : Type} (x : EngRes α) (p : α → Bool := fun _ => true) : Bool :=
  match x with
  | .ok _ a => p a
  | _ => false
def eFault {α : Type} (x : EngRes α) : Bool :=
  match x with
  | .fault _ _ _ _ => true
  | _ => false

def headIs (o : Option Cmd) (p : Cmd → Bool) : Bool := o.any p
/-- The copy unit that may land next, in the state that names it. -/
def unitIs (s : State) (p : State → Cmd → Nat → Bool) : Bool := (nextUnit s 0).any (fun x => p x.1 x.2.1 x.2.2)

/-- A command that completes or stops: its chain is the one that issued it. -/
theorem wit_commandEnds : unitIs (took1 (.cpy hd (q4 0 8 20))) (fun _ c _ =>
    (ownerOf (took1 (.cpy hd (q4 0 8 20))) c).any (fun x => x.parked.isEmpty) && (engQueue (took1 (.cpy hd (q4 0 8 20))) c.eng c.core).any (fun y => y.id = c.id)) = true := by
  decide +kernel

def stEk (k : Cells W128) : State := { stE with chains := [(0, { chainE with k })] }
def cpyL : State := took1 (.cpy hd (q4 0 8 20)) { stE with chains := [(0, { chainE with s := [(20, 32), (21, 16)] })] }
def cpyF : State := took1 (.cpy hd (q4 0 8 20)) (stEk [(8, wbPtr.toBits), (9, glPtr.toBits)])

/-- A copy of 4 elements, and one from an address with no translation. -/
theorem wit_engineEvents_copy : unitIs (took1 (.cpy hd (q4 0 8 20))) (fun w c j => eOk (copyUnit w c j) (fun c1 => c1.lines ≤ c1.next)) = true ∧
    unitIs cpyF (fun w c j => eFault (copyUnit w c j)) = true := by decide +kernel

/-- A chain parked at RINGACQ.prod of a fresh ring. -/
def ringC : Chain := { chain0 with frontier := [{ prio := 128, pc := 24, rot := false, lanes := 2 }], parked := [{ lanes := 1, why := .ring 9, pc := 8, prio := 128 }] }
def stRw : State := { stR ring0 with chains := [(0, ringC)], rings := [(3, { ring0 with wait := [(9, 0, 0, 0, 10)] })] }

theorem wit_engineEvents_ring : (Tab.find stRw.rings 3).map (·.wait) = some [(9, 0, 0, 0, 10)] ∧ stRw.chain? 0 = some ringC ∧ coreOf 0 = 0 ∧
    ringReady stRw 0 0 { ring0 with wait := [(9, 0, 0, 0, 10)] } 0 = true ∧ ringC.pair = none ∧ ringC.latch = [] ∧ ringC.pend = [] ∧
    (∀ l, (1 : Mask).getLsbD l = true → ∀ x, ¬ Stands ringC l x) := by
  refine ⟨rfl, rfl, rfl, by decide, rfl, rfl, rfl, ?_⟩
  rintro l hl x ⟨e, he, hx⟩
  obtain rfl : e = _ := List.mem_singleton.1 he
  have h0 : l = 0 := by
    have hlt : l < 32 := by
      by_cases h : l < 32
      · exact h
      · simp [BitVec.getLsbD_of_ge _ _ (by omega : 32 ≤ l)] at hl
    have : ∀ n : Fin 32, (1 : Mask).getLsbD n = true → n.val = 0 := by decide
    exact this ⟨l, hlt⟩ hl
  subst h0
  exact absurd hx.2 (by decide)

theorem test_ring_slot : (after (.ringSlotReady 3) stRw).map (fun t => (t.chain? 0).map (fun c => (c.readS 10 200, c.parked.length))) = some (some (0x8000, 0)) := by
  decide +kernel

/-! ### Transforms -/

/-- Home sectors of a buffer of three lines at 2^32 and of a plain page at 2^31, the second line of the buffer an image if told so. -/
def secsX (img : Bool) : Tab HomeSec :=
  ((List.range 4).map (fun i => (keyFor stE 0 (2 ^ 31 + 64 * i), ({ st := .L, data := 3, wts := 1, rts := 1 } : HomeSec)))) ++
  ((List.range 12).map (fun i => (keyFor stE 0 (2 ^ 32 + 64 * i),
    ({ st := .L, data := 3, wts := 1, rts := 1, cmp := if img && 4 ≤ i then some 0 else none, pa := 4096 + 64 * i } : HomeSec))))
def stXf (img : Bool) : State :=
  { stE with slices := [(0, { secs := secsX img, marks := [(pageOfKey (keyFor stE 0 (2 ^ 31)), .shared), (pageOfKey (keyFor stE 0 (2 ^ 32)), .shared)] })]
             cbits := if img then [16] else [] }

/-- A transform command whose header has been read: XP 0, one line a chunk, one line. -/
def xcmd (i : Instr) (k : Ptr) : Cmd := { (newCmd stE .xform i 2 [k.toBits, plainPtr.toBits] [0, 1]) with keep := [1, 0, 1, 1, 0, 1], id := 50 }
def withX (s : State) (c : Cmd) : State := { s with clusters := [(0, { xfmq := [c] })] }
def chkX : Cmd := xcmd (.xhdrChk hd (q4 2 12)) cmpPtr
def cmpX : Cmd := xcmd (.xcmp hd (q4 2 12 28)) cmpPtr

theorem xreads_of {s : State} {c : Cmd} (h : (xcmdAt s 0 50 = some c) ∧ xready s c = true) : XReady s 0 50 c := ⟨h.1, h.2⟩

def headed (s : State) (c : Cmd) (p : State → Cmd → Bool) : Bool :=
  match headOf s c with
  | .ok u (0, c1) => p u c1
  | _ => false

theorem wit_engineEvents_xform_ready : ∀ c ∈ [chkX, cmpX], (xcmdAt (withX (stXf false) c) 0 50).isSome = true ∧ xready (withX (stXf false) c) c = true := by decide

/-- A chunk that is checked; one whose image is not well formed; a check that ends; a line that is compressed. -/
theorem wit_engineEvents_xform :
    headed (withX (stXf false) chkX) chkX (fun u c1 => decide (c1.next < c1.units) && eOk (xformUnit u c1) (fun x => x.1 = 0)) = true ∧
    headed (withX (stXf true) chkX) chkX (fun u c1 => decide (c1.next < c1.units) && eOk (xformUnit u c1) (fun x => x.1 ≠ 0 && eOk (putHeader u x.2))) = true ∧
    headed (withX (stXf false) { chkX with next := 1 }) { chkX with next := 1 } (fun u c1 => !c1.encodes && decide (c1.units ≤ c1.next) &&
      eOk (putHeader u c1) (fun c3 => !c3.encodes)) = true ∧
    headed (withX (stXf false) cmpX) cmpX (fun u c1 => c1.encodes && (match xformRest (c1.units - c1.next) u c1 with
      | .ok v (0, c2) => decide (c2.units ≤ c2.next) && eOk (putHeader v c2)
      | _ => false)) = true := by decide +kernel

/-- A buffer with no header, and one with no translation; a stream that posts. -/
theorem wit_engineEvents_xform_else :
    (match headOf (withX (stXf false) { chkX with keep := [] }) { chkX with keep := [] } with
     | .ok _ (r, _) => decide (r ≠ 0)
     | _ => false) = true ∧ (xformFault (withX stE { chkX with keep := [] }) { chkX with keep := [] }).isSome = true ∧
    (let c := { chkX with done := true, mode := 8, keep := [5] }
     let s := withX { stE with queues := [(7, { queue0 with cfg := 0xF0030004 })] } c
     (s.clusterAt 0).xfmq.find? (fun x => decide (x.id = 50) && x.done) = some c ∧ peerEpoch s c.core = true ∧
      (postWord s (c.mode - 1) (BitVec.ofNat 32 (c.keep.getD 0 0)) (max c.stamp (s.coreAt c.core).lclk)).isSome = true) := by decide +kernel

/-- R304, R309: a check of one plain line ends with a count of 1. -/
theorem test_xform : ((after (.transformChunkCommit 0 50) (withX (stXf false) chkX)).bind (after (.transformCommandComplete 0 50))).map (fun t => ((t.chain? 0).map (fun c => ((c.grp .xform 2).ncmd, (c.grp .xform 2).aux2)), (t.clusterAt 0).xfmq.length)) =
    some (some (1, 1), 0) := by decide +kernel

/-! ### Matrix, quantise and tensor -/

def mmaE : Instr := .mma hd (q4 0 22 40 3)
def mmaS (k : Nat) : State := took1 mmaE { stE with chains := [(0, { chainE with s := [(40, BitVec.ofNat 32 k)] })] }
def mmaG : State := took1 mmaE (stEk [(22, { glPtr with fmt := 11, base := 2 ^ 30 }.toBits), (23, { abPtr with fmt := 11 }.toBits)])

theorem wit_engineEvents_mma : headIs (matHead (mmaS 0) 0) (fun c => c.steps = 0) = true ∧
    headIs (matHead (mmaS 16) 0) (fun c => c.steps ≠ 0 && eOk (matStep (mmaS 16) c c.next)) = true := by decide +kernel

def stClear : State := { stE with cores := [(0, { cc := 100, clearing := [3], accm := [(3 * 16384, 5), (9, 1)] })] }
theorem wit_engineEvents_clear : (stClear.coreAt 0).clearing.contains 3 = true ∧
    (stClear.coreAt 0).ease.all (fun e => decide (e.space ≠ 3 ∨ e.lo / 16384 ≠ 3)) = true := by decide

theorem test_clear : (after (.accumulatorSlotCleared 0 3) stClear).map (fun t => ((t.coreAt 0).clearing, (t.coreAt 0).accm)) = some ([], [(9, 1)]) := by decide +kernel

def azS : State := took1 (.azero hd (q4 0 0 0 1))
def awS : State := took1 (.aread hd (q4 0 8 44 128))
theorem wit_engineEvents_moves : headIs (moveHead azS 0) (fun c => match c.ins with
      | .azero _ _ => true
      | _ => false) = true ∧
    headIs (moveHead awS 0) (fun c => eOk (moveAll (c.moveLines.drop c.next) awS c)) = true := by decide +kernel

def awF : State := took1 (.awrite hd (q4 0 8 44)) (stEk [(8, glPtr.toBits)])

/-- Operands with no translation. -/
theorem wit_engineEvents_matrix_faults : headIs (matHead mmaG 0) (fun c => c.steps ≠ 0 && eFault (matStep mmaG c c.next)) = true ∧ (matHead awF 0).isNone = true ∧
    headIs (moveHead awF 0) (fun c => eFault (moveAll (c.moveLines.drop c.next) awF c)) = true := by decide +kernel

def haccS (n : Nat) : State := took1 (.hacc hd (q4 0 8 20)) { stE with chains := [(0, { chainE with s := [(20, BitVec.ofNat 32 n)] })] }
def haccF : State := took1 (.hacc hd (q4 0 8 20)) (stEk [(8, glPtr.toBits)])
def sfoldS : State := took1 (.sfold hd (q4 0 1 22))
def hclrS : State := took1 (.hclr hd (q4 0 0 0))
def hpctS : State := took1 (.hpct hd (q4 0 0 28))

theorem wit_engineEvents_quant :
    headIs (quantHead (haccS 0) 0) (fun c => c.inPasses && eOk (withSnapshot (haccS 0) c) (fun c1 => c1.passes = 0)) = true ∧
    headIs (quantHead (haccS 4) 0) (fun c => c.inPasses && eOk (withSnapshot (haccS 4) c) (fun c1 => c1.passes ≠ 0) && eOk (quantPass (haccS 4) c)) = true ∧
    headIs (quantHead haccF 0) (fun c => eOk (withSnapshot haccF c) (fun c1 => c1.passes ≠ 0) && eFault (quantPass haccF c)) = true ∧
    headIs (quantHead sfoldS 0) (fun c => c.next = 0 && eOk (foldWord sfoldS c)) = true ∧ (quantHead hclrS 0).isSome = true := by decide +kernel

theorem wit_engineEvents_hpct : headIs (quantHead hpctS 0) (fun c => (ownerOf hpctS c).any (fun x => x.pair.isNone && x.pend.isEmpty && x.parked.isEmpty) &&
    (ownerOf { hpctS with chains := [] } c).isNone) = true := by decide +kernel

def bindS : State := took1 (.tbind hd (q4 3 0 32))
/-- The same range bound already by tensor 6. -/
def bindF : State := { bindS with slices := [(0, { binds := [{ obj := 6, tag := 0, desc := tdesc, tid := 1, fl := 0 }] })] }

theorem wit_engineEvents_tensor : headIs (tensorHead bindS 0) (fun c => (runTensor bindS c).any (fun r => r.bad.isNone)) = true ∧
    headIs (tensorHead bindF 0) (fun c => (runTensor bindF c).any (fun r => r.bad.isSome)) = true := by decide +kernel

/-- R342, R372: four values are counted; the tensor is bound. -/
theorem test_hacc : (after (.quantisePassEnd 0) (haccS 4)).map (fun t => ((t.coreAt 0).qntq.length, ((t.coreAt 0).hist.map (·.2)).foldl (· + ·) 0)) = some (0, 4) ∧
    (after (.tensorCommandComplete 0) bindS).map (fun t => (tensorAt t 5).st) = some 2 := by decide +kernel

/-! ## Events of the package and the host -/

def fn0 : Fn := { part := some 0, mboxbase := 4096 }
def part0 : Part := { clusters := [0], memory := [1], ylimit := 20000, surv := 4, parc := 4, nchild := 4, port := 0xCFFF0100, root := none }

/-- Function 3 of partition 0, its root context 0 or none, and one record that waits in the mailbox under token 9. -/
def stHo (root : Option Nat) : State :=
  { stUp { sec0 with data := rec1 ||| 1 <<< 96 } .shared with
    fns := [(3, fn0)], parts := [(0, { part0 with root, started := true })]
    recs := [(1, { rec0 with chain := 0, token := some 9, loc := .mailbox 3 })]
    ctxs := [(0, { ctxD with st := .running, frlim := 4, frames := [(1, 0x8000000000000001)] })] }

def doorSub (n : Nat) : Sub := { kctx := 0, ctx := 0, obj := 7, lim := none, clk := n, rel := n, cx := false }
def doorRd (n : Nat) : State → Nat → Nat → EngRes Nat := fun w o k => portBytes w 0 (2 ^ 30 + o) k n none

/-- The doorbell of a record of queue 1, whatever the clock it takes. -/
theorem wit_hostEvents_doorbell : (fnOf (stHo (some 0)) 3).part = some 0 ∧ (Tab.find (stHo (some 0)).parts 0).isSome = true ∧ survStop (stHo (some 0)) 0 = none ∧
    wakeRoot (stHo (some 0)) 0 0 = stHo (some 0) ∧ okNat (doorRd (Config.freeNat 0 % 0xC00000) { stHo (some 0) with tick := 1 } 0 64) = true ∧
    doorQueue (stHo (some 0)) 0 (LRec.of (rec1 ||| 1 <<< 96).toNat).queue = some 7 ∧ (queueAt (stHo (some 0)) 7).surveys.length < (queueAt (stHo (some 0)) 7).cap :=
  ⟨rfl, by decide, by decide, rfl, by decide +kernel, by decide +kernel, by decide⟩

theorem wit_hostEvents_submit : ∃ u, submit { stHo (some 0) with tick := 1 } (doorSub (Config.freeNat 0 % 0xC00000)) (doorRd (Config.freeNat 0 % 0xC00000)) = .ok u (.inr 1) :=
  accepts_some (by decide +kernel)

theorem wit_hostEvents_registers : hostUp (stHo none) = true ∧ hostUp (stHo (some 0)) = true ∧ hostUp State.reset = false ∧ (stHo none).errors = [] ∧ (0x2000 : Nat) % 4096 = 0 ∧ (0x008 : Nat) ≠ 0x010 ∧ (Tab.find (stHo none).parts 0).isSome = true ∧
    (findToken (stHo none) 0 8 (inMailbox 3)).isNone = true ∧ (findToken (stHo none) 0 9 (inMailbox 3)).any (fun e => (resolve (stHo none) e.1 e.2 1).isSome && e.2.lack.isNone) = true ∧
    (let s : State := { stHo none with recs := [(1, { rec0 with cause := 0x12, detail := 2 ^ 26, token := some 9, loc := .mailbox 3 })] }
     (findToken s 0 9 (inMailbox 3)).any (fun e => e.2.lack.isSome)) = true := by decide +kernel

theorem wit_hostEvents_events : HostEvent (.doorbell 3 0) ∧ HostEvent (.spdmRequest 0 []) := by simp [HostEvent]

/-- R429, R431: a token that names no record is counted. -/
theorem test_tresolve : (after (.tresolveSkip 3 8) (stHo none)).map (fun t => (fnOf t 3).badTokens) = some 1 := by decide +kernel

/-- A descriptor of all zeros but NHOME, YLIMIT and a port of some depth, at the start of die 1's stack. -/
def rootCells : List Host.Cell := [(2 ^ 36 + 8, 4), (2 ^ 36 + 13, 1), (2 ^ 36 + 16, 1), (2 ^ 36 + 26, 1)]

theorem wit_hostEvents_root : (Tab.find (stHo none).parts 0).any (fun p => p.root.isNone) = true ∧ inStack 0 192 = false ∧ inStack (2 ^ 36) 192 = true ∧
    freeCtx (stHo none) = some 1 ∧ (CDesc.of (physRead (stHo none) (2 ^ 36) 192)).reason ⟨1, 20000, 4, 4, 4, portRate (part0.port.toNat)⟩ ≠ 0 ∧
    (CDesc.of (physRead { stHo none with hbm := rootCells } (2 ^ 36) 192)).reason ⟨1, 20000, 4, 4, 4, portRate (part0.port.toNat)⟩ = 0 := by decide +kernel

/-- R457, R458: the root's limits are its descriptor's. -/
theorem test_rootdesc : (after (.rootdesc 3 (2 ^ 36)) { stHo none with hbm := rootCells }).map (fun t => ((fnOf t 3).rootstat, (t.ctxAt 1).frlim, (t.ctxAt 1).home)) =
    some (0, 4, [1]) := by decide +kernel

theorem wit_hostEvents_rootfa : rootEntryOk part0 0x8000000000000001 = true ∧ rootEntryOk part0 0x9000000000000001 = false ∧
    ((stHo (some 0)).ctxAt 0).frlim ≤ 4 ∧ 0 < ((stHo (some 0)).ctxAt 0).frlim ∧ frameV (Cells.get 0 ((stHo (some 0)).ctxAt 0).frames 0) = false ∧
    (writeRoot (stHo (some 0)) 0 1 0x8000000000000002).any (fun e => !e.2 && decide (fnOf e.1 3 = fnOf (stHo (some 0)) 3)) = true := by decide +kernel

def sweep0 (done : Option W128) (fn : Option Nat) : Sweep := { part := 0, num := 1, ctx := 0, done, frames := 1, fn }
def donePtrBits : W128 := { glSync with fmt := 6, scope := 3 }.toBits

theorem wit_hostEvents_sweeps : (Tab.find ({ stHo none with sweeps := [(4, sweep0 none (some 3))] } : State).sweeps 4) = some (sweep0 none (some 3)) ∧
    (putWord { stHo none with sweeps := [] } 0 donePtrBits 1 1).isSome = true := by decide +kernel

def desc0 : PartDesc := { id := 5, clusters := [(0, 1)], memory := [1], ylimit := 20000, surv := 1, parc := 1, nchild := 0, port := 0xCFFF0100 }

theorem wit_packageEvents_parts : partOk (stHo none) desc0 = true ∧ partOk (stHo none) { desc0 with id := 0 } = false ∧ (Tab.find (stHo none).parts 0).isSome = true := by decide +kernel

theorem wit_packageEvents_pages : inStack (1 * 2 ^ 36 + 5 * 4096) 4096 = true ∧ (retirePage (stHo none) (1 * 2 ^ 36 + 5 * 4096) []).isSome = true ∧
    (retirePage { stHo none with slices := [(1, { retired := (List.range 256).map (fun i => (i, i)) })] } (1 * 2 ^ 36 + 5 * 4096) []).isNone = true ∧
    isCompute (siteOf 0) = true := by decide +kernel

theorem wit_packageEvents_links : (linkEnds 0).isSome = true ∧ (failRail (linkAt State.reset 0) 3).fenced = (linkAt State.reset 0).fenced ∧
    (Tab.find (stHo none).ctxs 0).isSome = true ∧ State.reset.islands = [] := by decide +kernel

theorem wit_packageEvents_firmware : (stHo none).uzosa.secver ≤ 3 ∧ (3 : Nat) ≤ 64 ∧ (true || (stHo none).uzosa.ownVerified) = true ∧ (false || (stHo none).uzosa.ownVerified) = false := by decide

/-- A state whose one message waits at the cluster's port; one whose message is of a class that its dies no longer share; one
whose message stands behind another of its line; and one whose routes are closed. -/
def portMsg : Msg := { msgOf readB with ports := [(0, 0)] }
def stPt : State := { stHo none with msgs := [portMsg] }

theorem wit_packageEvents_beats : ((stHo none).clusterAt 0).beats = [] ∧ (∀ m ∈ (stHo none).msgs, m.ports.head? ≠ some (0, false.toNat)) ∧
    stPt.msgs.filter (fun y => decide (y.ports.head? = some (0, false.toNat))) = [portMsg] ∧ portMsg.id ≠ 0 ∧ portMsg.cls < 7 ∧ bodyCtx stPt portMsg.body = some 0 ∧
    0 ∈ portCtxs stPt 0 := by decide

theorem wit_packageEvents_messages : (∀ id, MessageEvent id (.homeRead id)) ∧ findMsg stPt 5 = some portMsg ∧ portMsg.ports ≠ [] ∧
    (portMsg.cls, portMsg.src, portMsg.dst) ∈ ({ stPt with fencedPairs := [(0, 0, 0)] } : State).fencedPairs ∧
    (∃ y ∈ [portMsg, { portMsg with id := 4 }], y.id < portMsg.id ∧ y.cls = portMsg.cls ∧ y.line = portMsg.line ∧ y.src = portMsg.src ∧ y.dst = portMsg.dst) :=
  ⟨fun _ => .inl rfl, by decide, by decide, by decide, by decide⟩

/-- R279: a message passes its port when a refill has a slot for its beat. -/
theorem test_port : (after (.portTokenRefill 0 false []) stPt).map (fun t => t.msgs.map (·.ports)) = some [[]] := by decide +kernel

theorem wit_packageEvents_received : bodyCtx (stRq readB) (msgOf readB).body = some 0 ∧ (Tab.find (stRq readB).ctxs 0).isSome = true := by decide

theorem wit_packageEvents_contained : isCompute (siteOf 0) = true ∧ (stHo none).chain? 0 = (stHo none).chain? 0 ∧ ((stHm sec0 .shared).chain? 0).isSome = true ∧ coreOf 0 = 0 := by
  decide

theorem wit_packageEvents_ports : 0 ∈ portCtxs (stHo none) 0 ∧ (0 : Nat) < 16384 ∧
    64 ≤ (refill ((stHo none).ctxAt 0).port.toNat (Tab.get {} ((stHo none).clusterAt 0).ports 0)).t ∧ (8 : Nat) ≤ (Cells.get {} State.reset.cxl 0).lanes ∧
    (64 : Nat) ≤ (Cells.get {} State.reset.cxl 0).rate := by decide

/-- R279: RATE 256 sixty-fourths of a beat come each fc. -/
theorem test_refill : (refill 0xCFFF0100 {}).t = 256 := by decide

theorem test_islands : (after (.islandBringUp 0xFFFE) State.reset).map (fun t => ((islandAt t 0).fenced, (islandAt t 1).up)) = some (true, true) ∧
    (after (.currentMonitorSample 2 2000001) State.reset).map (fun t => (islandAt t 2).throttled) = some true ∧
    (after (.railFailure 0 3) State.reset).map (fun t => (linkAt t 0).spareFor) = some (some 3) := by decide +kernel

/-! ## Steps -/

/-- The machine right after reset, with a NOP to run. -/
def sN : State := State.reset.withFetchWord 64 0x1C008
def uN : State := commit (arrange exec (releaseJoins { sN with turns := [] } 0) 0) 0
def cN : Chain := (uN.chain? 0).getD {}
def vN : State := { uN with sel := { chain := 0, word := 0x1C008, pc := 0, prio := 128, entry := allLanes, act := allLanes, pack := allLanes, t0 := (uN.coreAt 0).cc, seq := (uN.coreAt 0).seq } }

theorem wit_stepRuns : AtWord sN 0 0 cN 0x1C008 vN where
  reached := ⟨[], _, { st := .L, data := BitVec.ofNat 512 0x1C008, wts := 0, rts := 0 }, { prio := 128, pc := 0, rot := false, lanes := allLanes },
    rfl, rfl, rfl, by decide +kernel, rfl, by decide +kernel, by decide +kernel, rfl, by decide +kernel, by decide +kernel, by decide +kernel, by decide +kernel, rfl⟩
  guard := by decide +kernel
  lanes := by decide
  alone := ⟨by decide +kernel, by decide +kernel⟩

theorem wit_stepRuns_decodes : decodeWord (vN.ctxAt cN.ctx).dtab 0x1C008 = .instr (.nop hd (q0 0 0 0 0)) ∧ roleAllows cN.kern.role (iopOf vN cN 0x1C008) = true ∧
    missingReg cN (usesOf (.nop hd (q0 0 0 0 0))) = none ∧ wideUnit (iopOf vN cN 0x1C008) (bits (0x1C008 : W64).toNat 51 48) = false ∧
    (after (.nop hd (q0 0 0 0 0)) vN).map (·.sel.waited) = some false := by decide +kernel

theorem wit_stepRuns_unhindered : Unhindered vN cN (.nop hd (q0 0 0 0 0)) 0x1C008 := ⟨by decide +kernel, by decide +kernel, by decide +kernel⟩

/-- Words that end in the other clauses: an empty opcode, set reserved bits, illegal fields; and an event has no word. -/
theorem wit_stepRuns_else : decodeWord none 0x28 = .empty ∧ (∃ i, decodeWord none 0x8080FFFFFFF1C002 = .reserved i) ∧ (∃ i, decodeWord none 0x000000030401C100 = .illegal i) ∧
    encode (.chainEnd 0 0) = none := ⟨by decide, ⟨.bru hd { fp := 128, tp := 128, woff := -4 }, by decide⟩, ⟨.iadd hd (q0 0 2 3 0), by decide⟩, rfl⟩

theorem test_step : (match step sN with
    | .next t => t.chains.map (fun e => e.2.frontier.map (fun x => x.pc))
    | _ => []) = [[8]] := by decide +kernel

theorem wit_decodeEncode : encode (.nop hd (q0 0 0 0 0)) = some 0x1C008 ∧ WellFormed (.nop hd (q0 0 0 0 0)) := ⟨by decide, wf_of (by decide)⟩

theorem wit_stepKeepsMemory : Memory.wf sN.hbm = true ∧ Memory.wf sN.peer = true := by decide
end Sys2Proof.Tests
end

/-!
PROOF. Floating operations of the vector engine: what a result joined from rounded elements does, the rows of `fltTable`,
and the complex product (R99, R106, R202, R205, R213).
-/
namespace Sys2Proof.Machine

/-! ## Results joined from rounded elements -/

/-- A lane's result joined from the rounded elements of a type, with the flags of all of them. -/
def packedResult (ty : Nat) (r : Nat → Rounded) : Nat × Flags :=
  (joinN (tyWidth ty) ((List.range (tyCount ty)).map (fun i => (r i).1)), orFlags ((List.range (tyCount ty)).map (fun i => (r i).2)))

/-- An instruction that writes D in every active lane completes with rounded elements r and the OR of their flags. -/
def ElementsLand (s : State) (h : Hdr) (f : F0) (lat : Nat) (r : Nat → Nat → Rounded) (o : Host.Outcome State Fault Refusal) : Prop :=
  ∃ t, o = .next t ∧
    RegFrame s t h (groupsOf s.sel.pack) (gCells s (wide0 f) f.d.toNat) (elemFlags s f r) (lastGroup s + lat) ∧
    ∀ l ∈ lanesOf s.sel.act, ∀ k, laneCycle s l + lat ≤ k → ∀ i, i < tyCount f.ty.toNat →
      elem f.ty.toNat (gAfter t (wide0 f) f.d.toNat l k) i = (r l i).1 % 2 ^ tyWidth f.ty.toNat

theorem elem_packedResult {ty i : Nat} (r : Nat → Rounded) (h : i < tyCount ty) :
    elem ty ((packedResult ty r).1 % 2 ^ (if wideTy ty then 64 else 32)) i = (r i).1 % 2 ^ tyWidth ty := by
  unfold packedResult
  rw [result_elem (by simp) h]
  simp [h]

/-- A free destination reads what a lane result writes. -/
theorem laneResult_free {s : State} {c : Chain} (hc : s.chain? s.sel.chain = some c) (h : Hdr) {lat : Nat} {wide : Bool}
    {d : BitVec 7} (free : GFree s wide d.toNat lat) (g : Nat → Nat × Flags) :
    ∃ t, laneResult s h lat wide d g = .next t ∧
      RegFrame s t h (groupsOf s.sel.pack) (gCells s wide d.toNat) (orFlags ((lanesOf s.sel.act).map (fun l => (g l).2)))
        (lastGroup s + lat) ∧
      ∀ l ∈ lanesOf s.sel.act, ∀ k, laneCycle s l + lat ≤ k →
        gAfter t wide d.toNat l k = (g l).1 % 2 ^ (if wide then 64 else 32) := by
  obtain ⟨t, ht, hframe, hread⟩ := laneResult_spec hc h lat wide d g
  refine ⟨t, ht, hframe, fun l hl k hk => ?_⟩
  obtain ⟨hlo, hhi⟩ := free l hl
  rw [selChain_of hc] at hlo hhi
  exact hread l hl k hk hlo hhi

theorem laneResult_elements {s : State} {c : Chain} (hc : s.chain? s.sel.chain = some c) (h : Hdr) {f : F0} {lat : Nat}
    (free : GFree s (wide0 f) f.d.toNat lat) (r : Nat → Nat → Rounded) :
    ElementsLand s h f lat r (laneResult s h lat (wide0 f) f.d (fun l => packedResult f.ty.toNat (r l))) := by
  obtain ⟨t, ht, hframe, hread⟩ := laneResult_free hc h free (fun l => packedResult f.ty.toNat (r l))
  refine ⟨t, ht, hframe, fun l hl k hk i hi => ?_⟩
  rw [hread l hl k hk]
  exact elem_packedResult (r l) hi

/-! ## Floating operations element by element -/

/-- The rounded element i of a floating operation in a lane; an operand that is not read is zero. -/
def fltElement (s : State) (f : F0) (useB useC : Bool) (op : FFmt → Nat → Nat → Nat → Rounded) (lane i : Nat) : Rounded :=
  op (tyFmt f.ty.toNat) (elem f.ty.toNat (srcVal s f.ua (wide0 f) f.a lane) i)
    (elem f.ty.toNat (if useB then srcVal s f.ub (wide0 f) f.b lane else 0) i)
    (elem f.ty.toNat (if useC then srcVal s false (wide0 f) f.c lane else 0) i)

theorem fltLane_eq (s : State) (f : F0) (useB useC : Bool) (op : FFmt → Nat → Nat → Nat → Rounded) (lane : Nat) :
    fltLane s f useB useC op lane = packedResult f.ty.toNat (fltElement s f useB useC op lane) := by
  have elements : (List.range (tyCount f.ty.toNat)).map (fun i => op (tyFmt f.ty.toNat)
        ((elemsOf f.ty.toNat (srcVal s f.ua (wide0 f) f.a lane)).getD i 0)
        ((elemsOf f.ty.toNat (if useB then srcVal s f.ub (wide0 f) f.b lane else 0)).getD i 0)
        ((elemsOf f.ty.toNat (if useC then srcVal s false (wide0 f) f.c lane else 0)).getD i 0)) =
      (List.range (tyCount f.ty.toNat)).map (fltElement s f useB useC op lane) := by
    refine List.map_congr_left fun i hi => ?_
    have hi := List.mem_range.1 hi
    rw [elemsOf_getD hi, elemsOf_getD hi, elemsOf_getD hi]
    rfl
  simp only [fltLane, elements, List.map_map]
  rfl

/-- A floating operation whose elements are those of r completes with them. -/
theorem fltMeaning_elements {s : State} {c : Chain} (hc : s.chain? s.sel.chain = some c) (h : Hdr) {f : F0} {lat : Nat}
    (free : GFree s (wide0 f) f.d.toNat lat) {useB useC : Bool} {op : FFmt → Nat → Nat → Nat → Rounded} {r : Nat → Nat → Rounded}
    (hr : ∀ l i, fltElement s f useB useC op l i = r l i) : ElementsLand s h f lat r (fltMeaning h f s lat useB useC op) := by
  have hlanes : fltLane s f useB useC op = fun l => packedResult f.ty.toNat (r l) := by
    funext l
    rw [fltLane_eq, funext (hr l)]
  unfold fltMeaning
  rw [hlanes]
  exact laneResult_elements hc h free r

/-! ## The forms of floating instructions (R202, R205, R213) -/

theorem judge_ok_iff {res ill : Bool} : judge res ill = .ok ↔ res = false ∧ ill = false := by
  cases res <;> cases ill <;> simp [judge]

theorem f0Flt_ok {f : F0} {types subs : List Nat} {useB useC rounds dSingle subRes : Bool}
    (h : f0Flt f types subs useB useC rounds dSingle subRes = .ok) : f.ty.toNat ∈ types ∧ f.sub.toNat ∈ subs := by
  simpa [tyIn, subIn] using (judge_ok_iff.1 h).2

/-- The transcendental class negates no operand (R205: SUB is zero). -/
theorem fltOperand_of_sub_zero {f : F0} {types : List Nat} {useB useC rounds dSingle subRes : Bool}
    (hw : f0Flt f types [0] useB useC rounds dSingle subRes = .ok) (u : Bool) (s : State) (r : BitVec 7) (lane i : Nat) :
    fltOperand f u (f.sub.getLsbD 0) s r lane i = fdecode (tyFmt f.ty.toNat) (elem f.ty.toNat (srcVal s u (wide0 f) r lane) i) := by
  have hsub : f.sub.toNat = 0 := by simpa using (f0Flt_ok hw).2
  have hbit : f.sub.getLsbD 0 = false := by simp [BitVec.getLsbD, hsub]
  rw [hbit]
  rfl

/-- R202, R205, R106, by rows: the sums and products negate as SUB says, the transcendental class never. -/
theorem laneFloats : LaneFloats := by
  intro p hp h f s c hc hw free
  simp only [fltTable, List.mem_cons, List.not_mem_nil, or_false] at hp
  rcases hp with rfl | rfl | rfl | rfl | transcendental
  iterate 4 exact fltMeaning_elements hc h free fun _ _ => rfl
  rcases transcendental with rfl | rfl | rfl | rfl | rfl | rfl
  all_goals
    refine fltMeaning_elements hc h free fun l i => ?_
    unfold fltExact
    rw [fltOperand_of_sub_zero hw]
    rfl

/-! ## The complex product (R99, R213) -/

/-- The parts of a complex element fill half a register or half a pair. -/
theorem complex_part_width {f : F0} (hty : f.ty.toNat ∈ [13, 14]) :
    (tyFmt f.ty.toNat).width = (if wide0 f then 32 else 16) ∧ (if wide0 f then 64 else 32) = 2 * (tyFmt f.ty.toNat).width := by
  have hty : f.ty.toNat = 13 ∨ f.ty.toNat = 14 := by simpa using hty
  rcases hty with e | e <;> simp [wide0, wideTy, e, tyFmt, FFmt.width, FFmt.bf16, FFmt.f32]

/-- The imaginary part of b changes its sign exactly with SUB = 1 (R213). -/
theorem signed_of_conj {sub : BitVec 6} (hsub : sub.toNat ∈ [0, 1]) (v : FVal) :
    signed (bit sub.toNat 0) v = if sub = 1 then v.negate else v := by
  have hsub : sub = 0 ∨ sub = 1 := by
    simp only [List.mem_cons, List.not_mem_nil, or_false] at hsub
    exact hsub.imp BitVec.eq_of_toNat_eq BitVec.eq_of_toNat_eq
  rcases hsub with rfl | rfl <;> rfl

theorem complexMultiply : ComplexMultiply := by
  intro h f s c hc hw free w prod hwidth hprod
  obtain ⟨hty, hsub⟩ := f0Flt_ok hw
  obtain ⟨hpart, hfull⟩ := complex_part_width hty
  rw [← hwidth] at hpart
  rw [hpart] at hfull
  have hlanes : execCmul h f s = laneResult s h (l4 f) (wide0 f) f.d (fun l => ((prod l).1.1 + 2 ^ w * (prod l).1.2, (prod l).2)) := by
    simp only [execCmul, hprod, hpart, signed_of_conj hsub, rndOf, modeOf, selChain_of hc, Nat.mul_zero, Nat.pow_zero, Nat.div_one,
      Nat.mul_one]
  obtain ⟨t, ht, hframe, hread⟩ := laneResult_free hc h free (fun l => ((prod l).1.1 + 2 ^ w * (prod l).1.2, (prod l).2))
  rw [hfull] at hread
  exact ⟨t, hlanes.trans ht, hframe, hread⟩

/-- Settles O21: the rows of the floating operations and the complex product. -/
theorem laneFloatResults : Obligations.LaneFloatResults := ⟨laneFloats, complexMultiply⟩

end Sys2Proof.Machine
